-- ==== Sys2Proof/Word.lean ====
section
/-!
DEFINITION. The word types of the IK2416: a byte of the host window or of the storage array, and the 16- and
32-bit fields of its records (spec/00_scope.md, Conventions).
-/

namespace Sys2Proof

/-- A byte on AD7 to AD0 or in a frame of the storage array. -/
abbrev Byte := BitVec 8

/-- A 16-bit field: the RSPLEN holding register, the header check. -/
abbrev Word16 := BitVec 16

/-- A 32-bit field: the tick counter, the value and aux of a completion. -/
abbrev Word32 := BitVec 32

end Sys2Proof
end

