-- ==== Sys2Proof/Config.lean ====
section
/-!
DEFINITION. What is fixed when the part is made: the factory segment (R45, R173, R174) and what a byte of the
storage array reads as when nothing has been programmed into it (R44).
-/

namespace Sys2Proof.Config

/-- The sixteen identity bytes written at manufacture (R173: "The device does not interpret the identity bytes").
DESIGN CHOICE, safe: they differ from part to part, so the constant is opaque and no proof can see its value (log 7). -/
opaque identityByte : Nat → Byte

/-- The 40 bytes of the descriptor, Table 12-3 (R174), multi-byte fields low byte first. -/
def descriptor : List Byte :=
  [1, 0x57, 0x16, 0x24, 0x00, 0x04, 5, 0, 32, 4, 0x00, 0x02, 64, 8, 0x00, 0x06, 8, 16, 8, 2] ++
  [40, 32, 32, 0, 0x00, 0x80, 0x00, 0x00, 0x60, 0xEA, 0x00, 0x00, 0x2C, 0x01, 0xC4, 0x09, 0x28, 0x00, 0, 0]

/-- A byte of segment 4: descriptor copies in frames 0 to 2, the eight identity copies in frame 3, each 16 bytes
followed by their complements (R45); the rest is erased. -/
def factoryByte (frame off : Nat) : Byte :=
  if frame < 3 then descriptor.getD off 0xFF
  else if frame = 3 ∧ off < 256 then
    if off % 32 < 16 then identityByte (off % 32) else ~~~ identityByte (off % 32 - 16)
  else 0xFF

/-- The place of a data byte in the array's address space: 512 bytes a frame, 32 frames a segment (R44). -/
def address (seg frame off : Nat) : Nat := seg * 16384 + frame * 512 + off

/-- What an unlisted address of the array reads as: 0xFF, the erased value (R44), and in segment 4, which the device
never programs or erases (R45), the byte written at manufacture. -/
def unlisted (a : Nat) : Byte :=
  if 65536 ≤ a ∧ a < 81920 then factoryByte ((a - 65536) / 512) (a % 512) else 0xFF

end Sys2Proof.Config
end

