-- ==== Sys2Proof/Syntax.lean ====
section
/-!
DEFINITION. The commands of the model: one constructor of `Instr` for each row of spec/opcode_table.json, with the
operands a row needs that the device's own state does not hold (the byte of an access, the level of a pin, what the
medium did). Also `Cmd`, the 31 host commands of Table 2-1 with their payload fields, which reach the device as frames
written to CMDIN and are executed by the dispatch rows.
-/

namespace Sys2Proof

/-! ### What a frame's margin holds (Tables 3-2 and 3-3) -/

/-- The kind field of a frame label (Table 3-2). -/
inductive FrameKind where
  | data | catalogue | ledger | vault | factory
  deriving DecidableEq, Repr

/-- A frame label as it stands in a margin (Table 3-2). `stream` is 0 to 7, or 255 for a frame that is not DATA.
`checkGood` says whether the stored label check agrees with the fields: the polynomial is not given (R115), so the
check is kept as its verdict (log 11). -/
structure Label where
  kind : FrameKind
  stream : Nat
  frameIndex : Nat
  incarnation : Nat
  generation : Nat
  firstOffset : Option Nat
  firstSeq : Nat
  checkGood : Bool
  deriving DecidableEq, Repr

/-- A programmed portion entry (Table 3-3). `whole` says that all four parts of R51 were written, so that the check
code and the parity agree with the codeword; a torn portion has `whole = false`. -/
structure PortionEntry where
  endOffset : Nat
  damaged : Bool
  pad : Bool
  whole : Bool
  deriving DecidableEq, Repr

/-- What one frame holds: used where the spec says that a segment's content is unknown (R54, R61). -/
structure FrameContent where
  label : Option Label
  entries : List PortionEntry
  bytes : List Byte
  deriving DecidableEq, Repr

/-! ### What the medium does: operands of the rows that end an operation -/

/-- What a failed program leaves in the portion it was to write: "the content of that portion's range and entry is
then unknown" (R53), so the row carries it. -/
structure Leftover where
  entry : Option PortionEntry
  label : Option Label
  bytes : List Byte
  deriving DecidableEq, Repr

/-- PASS or FAIL of a PROGRAM (R53). -/
inductive ProgramResult where
  | pass
  | fail (left : Leftover)
  deriving DecidableEq, Repr

/-- PASS or FAIL of an ERASE (R54). After FAIL the segment's content is unknown: the row carries the content of its
frames 0, 1, …; a frame it does not name keeps what it held. -/
inductive EraseResult where
  | pass
  | fail (frames : List FrameContent)
  deriving DecidableEq, Repr

/-- A codeword as it reads when correction has not restored it (R117): the end offset and flags of a portion that is
BROKEN, and of one whose error pattern went unseen also its bytes. -/
structure PortionContent where
  endOffset : Nat
  damaged : Bool
  pad : Bool
  bytes : List Byte
  deriving DecidableEq, Repr

/-- How one portion entry and its codeword read this time: the number of bits of the entry that read 0 (R116; none
when it is that of the entry as stored), the bit errors the parity finds (R117), whether the check code fails after
correction, whether the error pattern reached beyond the parity's power unseen (R117), and the codeword as read. -/
structure PortionNoise where
  zeroBits : Option Nat
  errors : Nat
  checkFails : Bool
  unseen : Bool
  asRead : Option PortionContent
  deriving DecidableEq, Repr

/-- How a frame reads this time: its portions in order (one not named reads without error), its data bytes as they
read without any correction (`data`, from offset 0; a byte beyond it reads as stored), and its label. -/
structure ReadNoise where
  portions : List PortionNoise
  data : List Byte
  labelZeroBits : Option Nat
  labelCheckFails : Bool
  labelAsRead : Option Label
  deriving DecidableEq, Repr

/-- Where a fall of RST_N or a loss of supply cuts the operation in progress (R61): the four conditions of a torn
portion, or the frame an erase had reached with what that frame holds. -/
inductive Cut where
  | nothingVisible
  | entryOnly (label : Option Label)
  | incompleteData (bytes : List Byte)
  | incompleteCheck
  | partlyErased (reached : Nat) (unknown : FrameContent)
  deriving DecidableEq, Repr

/-- What happens on the tick pins: a cycle of XIN with the level of TICKGATE, or a rising edge of TICKIN (R140). -/
inductive Pulse where
  | xin (gateHigh : Bool)
  | tickin
  deriving DecidableEq, Repr

/-- The wake sources of DOZE (R158): WAKE_N low, an access to the latched offset (a read, or a write of the byte), or
a source pulse whose increment makes an enabled ALARM or WRAP pending. -/
inductive WakeSource where
  | wakeN
  | access (write : Option Byte)
  | pulse (p : Pulse)
  deriving DecidableEq, Repr

/-! ### The host's commands (Table 2-1) -/

/-- A command of Table 2-1 with its payload fields, multi-byte fields as numbers. -/
inductive Cmd where
  | defineStream (stream mode quota : Nat) (name : List Byte)
  | deleteStream (stream : Nat)
  | queryStream (stream : Nat)
  | trimStream (stream seq : Nat)
  | append (stream : Nat) (data : List Byte)
  | commit (stream : Nat) (attr : Byte)
  | cancel (stream : Nat)
  | sync
  | readRecord (stream seq : Nat)
  | seek (stream origin seq : Nat)
  | readNext (stream : Nat)
  | lockAll
  | unlockRange (low high invert : Nat)
  | freezeLocks
  | segmentStatus (segment : Nat)
  | arm (target check : Byte)
  | sealStream (stream seq : Nat)
  | format
  | vaultWrite (slot : Nat) (data : List Byte)
  | vaultRead (slot : Nat)
  | vaultClose
  | getOption (id : Nat)
  | setOption (id value : Nat)
  | describe
  | identify
  | readNotices
  | setTime (epoch : Byte) (ticks : Word32)
  | getTime
  | setAlarm (action : Nat) (ticks : Word32)
  | doze
  | halt
  deriving DecidableEq, Repr

/-! ### The rows -/

/-- One constructor for each row of spec/opcode_table.json, in the table's order. A dispatch row has no operand: it
executes the frame at the head of the Command Queue. -/
inductive Instr where
  /-- OFFSET_LATCH (R2): HALE falls with this level of HSEL_N and these levels on AD7 to AD0. -/
  | offsetLatch (hselN : Bool) (ad : Byte)
  /-- CMDIN_WRITE (R8 to R10). -/
  | cmdinWrite (b : Byte)
  /-- CMDIN_READ (R3). -/
  | cmdinRead
  /-- RSPOUT_READ (R14). -/
  | rspoutRead
  /-- CPLOUT_READ (R12). -/
  | cploutRead
  /-- RSPLEN_LOW_READ (R14). -/
  | rsplenLowRead
  /-- HERR_READ (R4). -/
  | herrRead
  /-- FLUSHCNT_READ (R5). -/
  | flushcntRead
  /-- EVPEND_WRITE (R3, R150). -/
  | evpendWrite (b : Byte)
  /-- EVMASK_WRITE (R3, R151). -/
  | evmaskWrite (b : Byte)
  /-- IGNORED_WRITE (R3). -/
  | ignoredWrite (b : Byte)
  /-- ABORT (R16, R17): a write of HCTL with bit 0 set. -/
  | abort (b : Byte)
  /-- ABORT_SEQUENCER_STEPS (R39). -/
  | abortSequencerSteps
  /-- SOFT_RESET (R16, R170): a write of HCTL with bit 1 set. -/
  | softReset (b : Byte)
  /-- SOFT_RESET_ABORT_STEPS (R170). -/
  | softResetAbortSteps
  /-- SOFT_RESET_TAIL_SYNC (R171). -/
  | softResetTailSync
  /-- SOFT_RESET_END (R172), with a source pulse that falls in the same internal event (R150). -/
  | softResetEnd (pulse : Option Pulse)
  /-- RSP_DISCARD (R15, R16): a write of HCTL with bit 2 set. -/
  | rspDiscard (b : Byte)
  /-- CPL_REWIND (R13, R16): a write of HCTL with bit 3 set. -/
  | cplRewind (b : Byte)
  /-- BAD_FRAME (R21). -/
  | badFrame
  | defineStream
  | deleteStream
  | queryStream
  | trimStream
  | append
  | commit
  | cancel
  | sync
  | readRecord
  | seek
  | readNext
  | lockAll
  | unlockRange
  | freezeLocks
  | segmentStatus
  | arm
  | sealStream
  | format
  | vaultWrite
  | vaultRead
  | vaultClose
  | getOption
  | setOption
  | describe
  | identify
  | readNotices
  | setTime
  | getTime
  | setAlarm
  | doze
  | halt
  /-- RESPONSE_BUFFER_WAIT_END (R27, R37). -/
  | responseBufferWaitEnd
  /-- PROGRAM_QUEUE_ROOM_WAIT_END (R27). -/
  | programQueueRoomWaitEnd
  /-- BARRIER_END (R81, R82). -/
  | barrierEnd
  /-- DOZE_ENTRY (R157). -/
  | dozeEntry
  /-- DOZE_WAKE (R158). -/
  | dozeWake (source : WakeSource)
  /-- HALT_ENTRY (R159), with a source pulse that falls in the same internal event (R147, R150). -/
  | haltEntry (pulse : Option Pulse)
  /-- HALT_WAKE (R159): WAKE_N is low. -/
  | haltWake
  /-- GUARD_N_FALL (R129). -/
  | guardNFall
  /-- GUARD_N_RISE (R129). -/
  | guardNRise
  /-- PROGRAM_JOB_END (R60). -/
  | programJobEnd (r : ProgramResult)
  /-- RELOCATION_ERASE_END (R106). -/
  | relocationEraseEnd (r : EraseResult)
  /-- RELOCATION_READ_END (R107). -/
  | relocationReadEnd (noise : ReadNoise)
  /-- RELOCATION_COPY_END (R107, R108). -/
  | relocationCopyEnd (r : ProgramResult)
  /-- ALLOCATION_ERASE_END (R101). -/
  | allocationEraseEnd (r : EraseResult)
  /-- BACKGROUND_ERASE_END (R58). -/
  | backgroundEraseEnd (r : EraseResult)
  /-- CATALOGUE_ERASE_END (R46, R112). -/
  | catalogueEraseEnd (r : EraseResult)
  /-- CATALOGUE_PROGRAM_END (R46, R112). -/
  | catalogueProgramEnd (r : ProgramResult)
  /-- LEDGER_PROGRAM_END (R133, R138). -/
  | ledgerProgramEnd (r : ProgramResult)
  /-- ARRAY_READ_END (R52). -/
  | arrayReadEnd (noise : ReadNoise)
  /-- TICK_INCREMENT (R141): the source pulse that increments the counter. -/
  | tickIncrement (p : Pulse)
  /-- COUNTER_WRAP (R141): the source pulse whose increment wraps the counter. -/
  | counterWrap (p : Pulse)
  /-- ALARM_MATCH (R145): the source pulse whose increment matches the armed alarm. -/
  | alarmMatch (p : Pulse)
  /-- POWER_FAIL_SEQUENCE (R160): PFAIL_N falls. -/
  | powerFailSequence
  /-- HOLDUP_PROGRAM_END (R161). -/
  | holdupProgramEnd (r : ProgramResult)
  /-- POWER_ON_RESET (R168): the supply rises into range, with the levels of LOCKEN, RST_N, PFAIL_N and GUARD_N. -/
  | powerOnReset (locken rstN pfailN guardN : Bool) (cut : Cut)
  /-- SUPPLY_LOSS (R169). -/
  | supplyLoss (cut : Cut)
  /-- PIN_RESET (R168): RST_N falls. -/
  | pinReset (cut : Cut)
  /-- PIN_RESET_END (R168): RST_N rises, with the levels of PFAIL_N and GUARD_N sampled then. -/
  | pinResetEnd (pfailN guardN : Bool)
  /-- PFAIL_RECOVERY_RESET (R162): PFAIL_N is high in DEAD. -/
  | pfailRecoveryReset
  /-- PFAIL_RECOVERY_RESET_END (R168), with the levels of PFAIL_N and GUARD_N sampled then. -/
  | pfailRecoveryResetEnd (pfailN guardN : Bool)
  /-- MOUNT_READ_END (R163 to R167). -/
  | mountReadEnd (noise : ReadNoise)
  /-- SOURCE_PULSE (R140, R141). -/
  | sourcePulse (p : Pulse)
  deriving DecidableEq, Repr

end Sys2Proof
end

