-- ==== Sys2Proof/WellFormed.lean ====
section
/-!
DEFINITION. Which commands of the model are well formed: an HCTL row writes its own bit, and what the medium is said
to have done fits a frame (512 data bytes, four portions, frames 0 to 31). Also which `Cmd` fits a frame of Table 2-1.
`exec` is total on every command; these checks say which commands the spec speaks of.
-/

namespace Sys2Proof

/-- A stored portion entry ends inside its frame (Table 3-3). -/
def PortionEntry.wellFormed (e : PortionEntry) : Bool := 1 ≤ e.endOffset && e.endOffset ≤ 512

/-- A label's fields are in the ranges of Table 3-2. -/
def Label.wellFormed (l : Label) : Bool :=
  (l.stream < 8 || l.stream = 255) && l.frameIndex < 32 && l.incarnation < 4294967296 &&
  l.generation < 4294967296 && l.firstSeq < 4294967296 &&
  (match l.firstOffset with | none => true | some o => o < 512)

/-- A frame holds at most four portions and 512 bytes (R44, R49). -/
def FrameContent.wellFormed (c : FrameContent) : Bool :=
  c.entries.length ≤ 4 && c.entries.all PortionEntry.wellFormed && c.bytes.length ≤ 512 &&
  c.label.all Label.wellFormed

/-- What a failed program leaves fits its frame. -/
def Leftover.wellFormed (l : Leftover) : Bool :=
  l.entry.all PortionEntry.wellFormed && l.label.all Label.wellFormed && l.bytes.length ≤ 512

def ProgramResult.wellFormed : ProgramResult → Bool
  | .pass => true
  | .fail left => left.wellFormed

def EraseResult.wellFormed : EraseResult → Bool
  | .pass => true
  | .fail frames => frames.length ≤ 32 && frames.all FrameContent.wellFormed

def PortionNoise.wellFormed (n : PortionNoise) : Bool :=
  n.asRead.all (fun c => c.bytes.length ≤ 512)

def ReadNoise.wellFormed (n : ReadNoise) : Bool :=
  n.portions.length ≤ 4 && n.portions.all PortionNoise.wellFormed && n.data.length ≤ 512 &&
  n.labelAsRead.all Label.wellFormed

/-- The frame an erase had reached (R61): the margin of frame 0 is the last part of the segment to be erased (R51), so
where it reads wholly erased the data is erased too. -/
def reachedPossible (reached : Nat) (c : FrameContent) : Bool :=
  reached < 32 && (reached ≠ 0 || c.label.isSome || !c.entries.isEmpty || c.bytes.all (fun b => b = 0xFF))

def Cut.wellFormed : Cut → Bool
  | .nothingVisible => true
  | .entryOnly label => label.all Label.wellFormed
  | .incompleteData bytes => bytes.length ≤ 512
  | .incompleteCheck => true
  | .partlyErased reached unknown => reachedPossible reached unknown && unknown.wellFormed

/-- The rows of HCTL carry a byte with their own bit set (Table 1-4); operands from the medium fit it. -/
def Instr.wellFormed : Instr → Bool
  | .offsetLatch _ _ => true
  | .cmdinWrite _ => true
  | .cmdinRead => true
  | .rspoutRead => true
  | .cploutRead => true
  | .rsplenLowRead => true
  | .herrRead => true
  | .flushcntRead => true
  | .evpendWrite _ => true
  | .evmaskWrite _ => true
  | .ignoredWrite _ => true
  | .abort b => b.getLsbD 0
  | .abortSequencerSteps => true
  | .softReset b => b.getLsbD 1
  | .softResetAbortSteps => true
  | .softResetTailSync => true
  | .softResetEnd _ => true
  | .rspDiscard b => b.getLsbD 2
  | .cplRewind b => b.getLsbD 3
  | .badFrame => true
  | .defineStream => true
  | .deleteStream => true
  | .queryStream => true
  | .trimStream => true
  | .append => true
  | .commit => true
  | .cancel => true
  | .sync => true
  | .readRecord => true
  | .seek => true
  | .readNext => true
  | .lockAll => true
  | .unlockRange => true
  | .freezeLocks => true
  | .segmentStatus => true
  | .arm => true
  | .sealStream => true
  | .format => true
  | .vaultWrite => true
  | .vaultRead => true
  | .vaultClose => true
  | .getOption => true
  | .setOption => true
  | .describe => true
  | .identify => true
  | .readNotices => true
  | .setTime => true
  | .getTime => true
  | .setAlarm => true
  | .doze => true
  | .halt => true
  | .responseBufferWaitEnd => true
  | .programQueueRoomWaitEnd => true
  | .barrierEnd => true
  | .dozeEntry => true
  | .dozeWake _ => true
  | .haltEntry _ => true
  | .haltWake => true
  | .guardNFall => true
  | .guardNRise => true
  | .programJobEnd r => r.wellFormed
  | .relocationEraseEnd r => r.wellFormed
  | .relocationReadEnd n => n.wellFormed
  | .relocationCopyEnd r => r.wellFormed
  | .allocationEraseEnd r => r.wellFormed
  | .backgroundEraseEnd r => r.wellFormed
  | .catalogueEraseEnd r => r.wellFormed
  | .catalogueProgramEnd r => r.wellFormed
  | .ledgerProgramEnd r => r.wellFormed
  | .arrayReadEnd n => n.wellFormed
  | .tickIncrement _ => true
  | .counterWrap _ => true
  | .alarmMatch _ => true
  | .powerFailSequence => true
  | .holdupProgramEnd r => r.wellFormed
  | .powerOnReset _ _ _ _ cut => cut.wellFormed
  | .supplyLoss cut => cut.wellFormed
  | .pinReset cut => cut.wellFormed
  | .pinResetEnd _ _ => true
  | .pfailRecoveryReset => true
  | .pfailRecoveryResetEnd _ _ => true
  | .mountReadEnd n => n.wellFormed
  | .sourcePulse _ => true

/-- A command whose fields fit the payload widths and lengths of Table 2-1 (not the ranges judged at dispatch). -/
def Cmd.wellFormed : Cmd → Bool
  | .defineStream st mode quota name => st < 256 && mode < 256 && quota < 65536 && name.length ≤ 12
  | .deleteStream st => st < 256
  | .queryStream st => st < 256
  | .trimStream st seq => st < 256 && seq < 4294967296
  | .append st data => st < 256 && 1 ≤ data.length && data.length ≤ 512
  | .commit st _ => st < 256
  | .cancel st => st < 256
  | .sync => true
  | .readRecord st seq => st < 256 && seq < 4294967296
  | .seek st origin seq => st < 256 && origin < 256 && seq < 4294967296
  | .readNext st => st < 256
  | .lockAll => true
  | .unlockRange low high invert => low < 65536 && high < 65536 && invert < 256
  | .freezeLocks => true
  | .segmentStatus seg => seg < 65536
  | .arm _ _ => true
  | .sealStream st seq => st < 256 && seq < 4294967296
  | .format => true
  | .vaultWrite slot data => slot < 256 && 1 ≤ data.length && data.length ≤ 512
  | .vaultRead slot => slot < 256
  | .vaultClose => true
  | .getOption id => id < 256
  | .setOption id value => id < 256 && value < 256
  | .describe => true
  | .identify => true
  | .readNotices => true
  | .setTime _ _ => true
  | .getTime => true
  | .setAlarm action _ => action < 256
  | .doze => true
  | .halt => true

end Sys2Proof
end

