-- ==== Sys2Proof/Decode.lean ====
section
/-!
DEFINITION. The decoder of host command frames: opcode and payload to a `Cmd` by Table 2-1 (R21), total on any bytes,
and the encoder after it. `decodeTableWord` answers none: spec/opcode_table.json gives no row any bits, because a row
is an event of the device and not a word.
-/

namespace Sys2Proof

/-- A little-endian number (00_scope.md, Byte order: the least significant byte comes first). -/
def leNat : List Byte → Nat
  | [] => 0
  | b :: bs => b.toNat + 256 * leNat bs

/-- The `n` low bytes of a number, least significant first. -/
def leBytes : Nat → Nat → List Byte
  | 0, _ => []
  | n + 1, v => BitVec.ofNat 8 v :: leBytes n (v / 256)

/-- The opcode byte of each command (Table 2-1). -/
def Cmd.code : Cmd → Byte
  | .defineStream .. => 0x10
  | .deleteStream .. => 0x11
  | .queryStream .. => 0x12
  | .trimStream .. => 0x13
  | .append .. => 0x20
  | .commit .. => 0x21
  | .cancel .. => 0x22
  | .sync => 0x23
  | .readRecord .. => 0x30
  | .seek .. => 0x31
  | .readNext .. => 0x32
  | .lockAll => 0x40
  | .unlockRange .. => 0x41
  | .freezeLocks => 0x42
  | .segmentStatus .. => 0x43
  | .arm .. => 0x48
  | .sealStream .. => 0x49
  | .format => 0x4A
  | .vaultWrite .. => 0x50
  | .vaultRead .. => 0x51
  | .vaultClose => 0x52
  | .getOption .. => 0x60
  | .setOption .. => 0x61
  | .describe => 0x62
  | .identify => 0x63
  | .readNotices => 0x64
  | .setTime .. => 0x70
  | .getTime => 0x71
  | .setAlarm .. => 0x72
  | .doze => 0x78
  | .halt => 0x79

/-- A payload of no bytes. -/
def payload0 (c : Cmd) : List Byte → Option Cmd
  | [] => some c
  | _ => none

/-- A payload of one byte. -/
def payload1 (f : Nat → Cmd) : List Byte → Option Cmd
  | [a] => some (f a.toNat)
  | _ => none

/-- A payload of two bytes. -/
def payload2 (f : Byte → Byte → Cmd) : List Byte → Option Cmd
  | [a, b] => some (f a b)
  | _ => none

/-- A payload of one byte and a four-byte number. -/
def payload5 (f : Byte → Nat → Cmd) : List Byte → Option Cmd
  | [a, b, c, d, e] => some (f a (leNat [b, c, d, e]))
  | _ => none

/-- A payload of one byte and 1 to 512 bytes of data. -/
def payloadData (f : Nat → List Byte → Cmd) : List Byte → Option Cmd
  | a :: x :: data => if data.length < 512 then some (f a.toNat (x :: data)) else none
  | _ => none

/-- DEFINE STREAM's payload: stream, mode, two bytes of quota, 0 to 12 bytes of name. -/
def payloadDefine : List Byte → Option Cmd
  | st :: mode :: q0 :: q1 :: name =>
    if name.length ≤ 12 then some (.defineStream st.toNat mode.toNat (leNat [q0, q1]) name) else none
  | _ => none

/-- SEEK's payload: stream, origin and a four-byte number. -/
def payloadSeek : List Byte → Option Cmd
  | [st, origin, a, b, c, d] => some (.seek st.toNat origin.toNat (leNat [a, b, c, d]))
  | _ => none

/-- UNLOCK RANGE's payload: two two-byte segments and a byte. -/
def payloadUnlock : List Byte → Option Cmd
  | [l0, l1, h0, h1, inv] => some (.unlockRange (leNat [l0, l1]) (leNat [h0, h1]) inv.toNat)
  | _ => none

/-- SEGMENT STATUS's payload: a two-byte segment. -/
def payloadSegment : List Byte → Option Cmd
  | [s0, s1] => some (.segmentStatus (leNat [s0, s1]))
  | _ => none

/-- The command that an opcode and a payload spell, or none where the opcode is not in Table 2-1 or the payload
length is outside its length range (R21). Every accepted byte is taken by a field. -/
def decodeCmd (opcode : Byte) (payload : List Byte) : Option Cmd :=
  if opcode = 0x10 then payloadDefine payload
  else if opcode = 0x11 then payload1 .deleteStream payload
  else if opcode = 0x12 then payload1 .queryStream payload
  else if opcode = 0x13 then payload5 (fun st seq => .trimStream st.toNat seq) payload
  else if opcode = 0x20 then payloadData .append payload
  else if opcode = 0x21 then payload2 (fun st attr => .commit st.toNat attr) payload
  else if opcode = 0x22 then payload1 .cancel payload
  else if opcode = 0x23 then payload0 .sync payload
  else if opcode = 0x30 then payload5 (fun st seq => .readRecord st.toNat seq) payload
  else if opcode = 0x31 then payloadSeek payload
  else if opcode = 0x32 then payload1 .readNext payload
  else if opcode = 0x40 then payload0 .lockAll payload
  else if opcode = 0x41 then payloadUnlock payload
  else if opcode = 0x42 then payload0 .freezeLocks payload
  else if opcode = 0x43 then payloadSegment payload
  else if opcode = 0x48 then payload2 .arm payload
  else if opcode = 0x49 then payload5 (fun st seq => .sealStream st.toNat seq) payload
  else if opcode = 0x4A then payload0 .format payload
  else if opcode = 0x50 then payloadData .vaultWrite payload
  else if opcode = 0x51 then payload1 .vaultRead payload
  else if opcode = 0x52 then payload0 .vaultClose payload
  else if opcode = 0x60 then payload1 .getOption payload
  else if opcode = 0x61 then payload2 (fun id value => .setOption id.toNat value.toNat) payload
  else if opcode = 0x62 then payload0 .describe payload
  else if opcode = 0x63 then payload0 .identify payload
  else if opcode = 0x64 then payload0 .readNotices payload
  else if opcode = 0x70 then payload5 (fun epoch ticks => .setTime epoch (BitVec.ofNat 32 ticks)) payload
  else if opcode = 0x71 then payload0 .getTime payload
  else if opcode = 0x72 then payload5 (fun action ticks => .setAlarm action.toNat (BitVec.ofNat 32 ticks)) payload
  else if opcode = 0x78 then payload0 .doze payload
  else if opcode = 0x79 then payload0 .halt payload
  else none

/-- The payload a host writes for a command (Table 2-1). -/
def encodePayload : Cmd → List Byte
  | .defineStream st mode quota name => leBytes 1 st ++ leBytes 1 mode ++ leBytes 2 quota ++ name
  | .deleteStream st => leBytes 1 st
  | .queryStream st => leBytes 1 st
  | .trimStream st seq => leBytes 1 st ++ leBytes 4 seq
  | .append st data => leBytes 1 st ++ data
  | .commit st attr => leBytes 1 st ++ [attr]
  | .cancel st => leBytes 1 st
  | .sync => []
  | .readRecord st seq => leBytes 1 st ++ leBytes 4 seq
  | .seek st origin seq => leBytes 1 st ++ leBytes 1 origin ++ leBytes 4 seq
  | .readNext st => leBytes 1 st
  | .lockAll => []
  | .unlockRange low high invert => leBytes 2 low ++ leBytes 2 high ++ leBytes 1 invert
  | .freezeLocks => []
  | .segmentStatus seg => leBytes 2 seg
  | .arm target check => [target, check]
  | .sealStream st seq => leBytes 1 st ++ leBytes 4 seq
  | .format => []
  | .vaultWrite slot data => leBytes 1 slot ++ data
  | .vaultRead slot => leBytes 1 slot
  | .vaultClose => []
  | .getOption id => leBytes 1 id
  | .setOption id value => leBytes 1 id ++ leBytes 1 value
  | .describe => []
  | .identify => []
  | .readNotices => []
  | .setTime epoch ticks => epoch :: leBytes 4 ticks.toNat
  | .getTime => []
  | .setAlarm action ticks => leBytes 1 action ++ leBytes 4 ticks.toNat
  | .doze => []
  | .halt => []

/-- The bytes of a whole frame as the host writes them to CMDIN: opcode, tag, length low, length high, payload
(R8, R9). -/
def encodeFrame (c : Cmd) (tag : Byte) : List Byte :=
  c.code :: tag :: leBytes 2 (encodePayload c).length ++ encodePayload c

/-- The command a word of spec/opcode_table.json spells: none, for no row of the table has bits. -/
def decodeTableWord (_nbits _w : Nat) : Option Instr := none

end Sys2Proof
end

