-- ==== Sys2Proof/Machine/State.lean ====
section
/-!
DEFINITION. The state of the IK2416 as plain data, block by block in the order of Figure 1-1, and the machine right
after reset. Every field names the rule of spec/ that gives it; fields marked MODEL'S OWN hold what the spec leaves to
the device's inside.
-/

namespace Sys2Proof.Machine

open Sys2Proof

/-- Why the machine would stop. The IK2416 has no such case: every failure is an outcome, a host error code, a notice
or an event (INVENTORY.md, Faults). -/
inductive Fault where
  deriving DecidableEq, Repr

/-- Why a command would have no meaning. -/
inductive Refusal where
  /-- Raised by `exec`'s arm for a row of the table that has no meaning yet; no arm raises it. Safe. -/
  | notModelled (mnemonic : String)
  deriving DecidableEq, Repr

/-! ### Host Port (R1 to R20) -/

/-- A complete frame in the Command Queue (R9, R10). -/
structure CmdFrame where
  opcode : Byte
  tag : Byte
  payload : List Byte
  oversize : Bool
  deriving DecidableEq, Repr

/-- The Command Assembler (Figure 1-2). HEADER holds the bytes received so far: opcode, tag, length low. -/
inductive Assembler where
  | idle
  | header (received : List Byte)
  | payload (opcode tag : Byte) (length : Nat) (received : List Byte)
  | discard (opcode tag : Byte) (length count : Nat)
  deriving DecidableEq, Repr

structure HostPort where
  /-- The offset latch (R2). -/
  latch : BitVec 4
  assembler : Assembler
  /-- HERR (R4). -/
  herr : Byte
  /-- FLUSHCNT (R5). -/
  flushCnt : Byte
  /-- The RSPLEN holding register (R14). -/
  rspHold : Word16
  /-- HCTL.ABORT reads 1 (R17). -/
  aborting : Bool
  /-- AD7 to AD0 as the last host read left them (R1); MODEL'S OWN view of a pin (log 37). -/
  dataOut : Byte
  deriving DecidableEq, Repr

/-! ### Completions (R34, R35, Table 2-7) -/

/-- The outcomes of Table 2-7. -/
inductive Result where
  | done | badFrame | badParam | refusedState | noStream | streamExists | stageBusy | nothingStaged | tooLong | full
  | writeProtected | lockDisabled | frozen | headSealed | notArmed | order | closed | ledgerFull | gone | notYet
  | lost | damaged | skipped | blank | medium | aborted
  deriving DecidableEq, Repr

/-- A completion record (Table 2-5). -/
structure Completion where
  tag : Byte
  opcode : Byte
  result : Result
  durable : Bool
  response : Bool
  abortLate : Bool
  notEntered : Bool
  detail : Nat
  value : Word32
  aux : Word32
  deriving DecidableEq, Repr

/-- The Completion Queue, oldest record first, and the head byte index (R12, R13). `fresh` holds the completions of
the internal event being taken with their place in R32's order; empty between events, MODEL'S OWN (log 34). -/
structure CompletionQueue where
  records : List Completion
  index : Nat
  fresh : List (Nat × Completion)
  deriving DecidableEq, Repr

/-- The Response Buffer; it is empty when it holds no byte (R14, R37). -/
structure ResponseBuffer where
  bytes : List Byte
  index : Nat
  deriving DecidableEq, Repr

/-! ### The medium (R44 to R51) -/

/-- The margin of a frame: its label and the entries of its programmed portions, in order (R49). -/
structure Margin where
  label : Option Label
  entries : List PortionEntry
  deriving DecidableEq, Repr

/-- The storage array: data bytes by address and margins by frame number, both lists in canonical form. -/
structure Medium where
  mem : List Host.Cell
  margins : List (Nat × Margin)
  deriving DecidableEq, Repr

/-! ### What a READ returns (R52, R116 to R118) -/

/-- The integrity classes (Table 7-1). -/
inductive Grade where
  | clean | minor | major | broken
  deriving DecidableEq, Repr

/-- The judgement of a label (R118). A failing label is carried as read. -/
inductive LabelRead where
  | erased
  | valid (l : Label)
  | failing (l : Option Label)
  deriving DecidableEq, Repr

/-- A programmed portion as a READ returns it: range, class, flags and bytes after correction. -/
structure PortionRead where
  lo : Nat
  hi : Nat
  grade : Grade
  damaged : Bool
  pad : Bool
  bytes : List Byte
  deriving DecidableEq, Repr

/-- A frame as a READ of a range returns it (R52). `entryZero` says that entry 0 is programmed; `implausible` that an
entry whose end offset is not plausible ended the portions (R116). `grade` is the class of the READ as a whole, `bytes`
the bytes of the range: those of the portions after correction, and beyond them the values as read. -/
structure FrameRead where
  label : LabelRead
  portions : List PortionRead
  entryZero : Bool
  implausible : Bool
  grade : Grade
  bytes : List Byte
  deriving DecidableEq, Repr

/-- The class of a stretch of medium bytes in a frame's view. -/
structure Stretch where
  lo : Nat
  hi : Nat
  grade : Grade
  deriving DecidableEq, Repr

/-- A frame's current view (R86): its bytes from offset 0, its start point, whether its last portion is PAD, and the
classes of the medium bytes in it. -/
structure View where
  bytes : List Byte
  start : Option (Nat × Nat)
  lastPad : Bool
  stretches : List Stretch
  deriving DecidableEq, Repr

/-! ### Write Path (R59, R71, R76) -/

/-- The two kinds of program job (Table 3-5). -/
inductive JobKind where
  | frame | portion
  deriving DecidableEq, Repr

/-- A program job (Table 3-5). `released` names deferred commands by their command numbers. -/
structure Job where
  kind : JobKind
  stream : Option Nat
  segment : Nat
  frame : Nat
  portion : Nat
  lo : Nat
  hi : Nat
  image : List Byte
  pad : Bool
  damaged : Bool
  label : Option Label
  seqs : List Nat
  released : List Nat
  deriving DecidableEq, Repr

/-- A Tail Frame that is AT a position (R76). `unprog` is the start of the unprogrammed range, `image` the frame's
bytes below `offset`, `header` the offset and sequence of the lowest header that begins in the frame, `ends` the
offset one past the final byte and the sequence of each record that ends in the unprogrammed range. -/
structure TailPos where
  segment : Nat
  frame : Nat
  offset : Nat
  portions : Nat
  unprog : Nat
  image : List Byte
  header : Option (Nat × Nat)
  ends : List (Nat × Nat)
  deriving DecidableEq, Repr

/-- The three conditions of a Tail Frame (R76). -/
inductive Tail where
  | none
  | exhausted
  | pos (p : TailPos)
  deriving DecidableEq, Repr

/-- The Staging Buffer when it is FILLING; `owned` by a COMMIT past its commit point (R40, R71). -/
structure Staging where
  stream : Nat
  bytes : List Byte
  owned : Bool
  deriving DecidableEq, Repr

structure WritePath where
  staging : Option Staging
  /-- The Program Queue, head first (R59). -/
  jobs : List Job
  deriving DecidableEq, Repr

/-! ### Sequencer (R22 to R43) -/

/-- A seal entry of the ledger (R131). -/
structure SealEntry where
  segment : Nat
  stream : Nat
  incarnation : Nat
  generation : Nat
  deriving DecidableEq, Repr

/-- A record lookup past its beginning: what it captured (R86) and the views gathered so far, lowest frame first.
`frame` is the frame whose READ is requested. -/
structure Lookup where
  stream : Nat
  seq : Nat
  skip : Nat
  segment : Nat
  tail : Option TailPos
  jobs : List Job
  frame : Nat
  views : List (Nat × View)
  deriving DecidableEq, Repr

/-- How far the DISPATCHED command has come. The first three are waits before the commit point (R27); the others lie
past it (R29). -/
inductive Phase where
  | waitResponse
  | waitRoom (need : Nat)
  | waitBarrier
  /-- Its catalogue version is requested of the writer (R46). -/
  | version
  /-- COMMIT: the ERASE of this segment is pending; the generation it will carry (R101). -/
  | allocating (segment generation : Nat)
  /-- COMMIT: its record with this sequence is being placed, one job an internal event; these bytes are still to be
  copied (R76). -/
  | placing (seq : Nat) (rest : List Byte)
  /-- SEAL: the groups still to program, the ledger frames programmed, the segments sealed (R133). -/
  | sealing (groups : List (List SealEntry)) (programmed n : Nat)
  /-- VAULT CLOSE: its ledger program is pending (R138). -/
  | closing
  | lookup (l : Lookup)
  /-- SEGMENT STATUS: this frame's margin is being read (R127). -/
  | counting (frame : Nat)
  | slotRead
  /-- DESCRIBE: this copy is being read; the bytes copy 0 read as (R123). -/
  | copies (copy : Nat) (first : List Byte)
  | identity
  deriving DecidableEq, Repr

/-- The command that is DISPATCHED (R23). `id` is its command number (MODEL'S OWN, log 36), `eager` the
COMMIT_POLICY of its dispatch (R78). -/
structure Dispatched where
  id : Nat
  tag : Byte
  opcode : Byte
  cmd : Cmd
  eager : Bool
  abortLate : Bool
  phase : Phase
  deriving DecidableEq, Repr

/-- What a deferred command waits to report (R31). -/
inductive DeferredKind where
  | commit (stream seq : Nat)
  | sync (emitted : Nat)
  | vaultWrite (slot : Nat)
  deriving DecidableEq, Repr

/-- A deferred command (R30). `spoiled` says that a job it named was discarded, or was a vault slot job that failed. -/
structure Deferred where
  id : Nat
  tag : Byte
  opcode : Byte
  kind : DeferredKind
  abortLate : Bool
  spoiled : Bool
  deriving DecidableEq, Repr

structure Sequencer where
  queue : List CmdFrame
  dispatched : Option Dispatched
  deferred : List Deferred
  /-- The arm state: none is DISARMED (R26). -/
  arm : Option Byte
  /-- The next command number; MODEL'S OWN (log 36). -/
  nextId : Nat
  deriving DecidableEq, Repr

/-! ### Array Engine, relocation and catalogue writer (R52 to R60, R105 to R112, R46) -/

/-- One PROGRAM operation (R53). -/
structure Program where
  segment : Nat
  frame : Nat
  portion : Nat
  lo : Nat
  hi : Nat
  bytes : List Byte
  damaged : Bool
  pad : Bool
  label : Option Label
  deriving DecidableEq, Repr

/-- The three operations of Table 3-4. -/
inductive Op where
  | read (segment frame lo hi : Nat)
  | program (p : Program)
  | erase (segment : Nat)
  deriving DecidableEq, Repr

/-- Who requested an operation (Table 3-4). `sequencer` is a READ or an allocation ERASE, `holdup` the one further
program of R161. -/
inductive Requester where
  | sequencer | ledger | job | catalogue | relocation | background | mount | holdup
  deriving DecidableEq, Repr

structure Request where
  who : Requester
  op : Op
  deriving DecidableEq, Repr

/-- The next step of a relocation (R106, R107). `retiring` waits for the catalogue program of R107 step 2. -/
inductive RelocStage where
  | eraseTarget
  | readFrame (i : Nat)
  | copyFrame (i : Nat) (p : Program)
  | retiring
  deriving DecidableEq, Repr

/-- The relocation in progress: S, f, k and the stream (R105), the target T, how many targets were tried (R106), and
how many frames were copied with DAMAGED (R107). -/
structure Reloc where
  segment : Nat
  frame : Nat
  portion : Nat
  stream : Nat
  target : Nat
  tried : Nat
  stage : RelocStage
  damagedFrames : Nat
  deriving DecidableEq, Repr

structure Engine where
  /-- The operation in progress (R55). -/
  op : Option Request
  /-- The request pending from the Sequencer (R55). -/
  request : Option Request
  /-- The relocation in progress; while there is one the Program Queue is suspended (R59). -/
  reloc : Option Reloc
  lastFail : Bool
  prevFail : Bool
  deriving DecidableEq, Repr

inductive Mode where
  | linear | ring
  deriving DecidableEq, Repr

/-- The persistent part of a stream (R64). -/
structure Definition where
  mode : Mode
  quota : Nat
  name : List Byte
  incarnation : Nat
  archived : Bool
  deriving DecidableEq, Repr

/-- A catalogue version (R46). -/
structure Version where
  generation : Nat
  defs : List (Option Definition)
  retired : List Nat
  deriving DecidableEq, Repr

/-- What a requested catalogue version is for (R46, R111). -/
inductive VersionFor where
  | define (stream : Nat) (mode : Mode) (quota : Nat) (name : List Byte)
  | delete (stream : Nat)
  | format
  | retire (segment : Nat) (byRelocation : Bool)
  deriving DecidableEq, Repr

/-- The version being written: its operation is an ERASE of `segment` or a PROGRAM into its `frame`. `fallback` is the
segment tried next if this attempt fails; none when a failure makes the catalogue lost for writing (R112, R135). -/
structure CatWork where
  version : Version
  erasing : Bool
  segment : Nat
  frame : Nat
  fallback : Option Nat
  deriving DecidableEq, Repr

structure Catalogue where
  /-- The active catalogue segment, 0 or 1 (R46). -/
  active : Nat
  /-- The highest programmed frame of the active segment. -/
  top : Option Nat
  /-- The generation of the version last written; 0 in the factory state (R120). -/
  generation : Nat
  /-- The in-RAM retired list (R111). -/
  retired : List Nat
  /-- The versions requested, oldest first; the head is the one being written. -/
  queue : List VersionFor
  /-- The version being written, as it was built when its first operation was handed to the engine (R46). -/
  work : Option CatWork
  /-- The highest incarnation any valid DATA label carried at mount (R135). -/
  dataIncarnation : Nat
  deriving DecidableEq, Repr

/-! ### Segment Manager (R98, R99) -/

/-- The states of a user segment (Table 6-1). -/
inductive SegState where
  | freeErased | freeStale | taken | owned | segSealed | retired
  deriving DecidableEq, Repr

/-- A Segment Map entry with its marks (R98, R127). `isOpen`: the stream's write segment. `mountOnly`: retired for
this mount only (R111). -/
structure SegEntry where
  state : SegState
  owner : Option Nat
  generation : Nat
  isOpen : Bool
  weak : Bool
  failing : Bool
  mountOnly : Bool
  deriving DecidableEq, Repr

structure Segments where
  /-- The Segment Map in canonical form; an unlisted user segment is FREE_ERASED without marks. -/
  map : List (Nat × SegEntry)
  /-- The Free Pool in its order (R99). -/
  pool : List Nat
  deriving DecidableEq, Repr

/-! ### Stream Table (R64, R65) -/

inductive FullReason where
  | quota | sealedHead | noSpace | sequenceEnd
  deriving DecidableEq, Repr

inductive StreamState where
  | undefined | opened | full (r : FullReason) | archived | faulted
  deriving DecidableEq, Repr

structure ChainEntry where
  segment : Nat
  generation : Nat
  first : Nat
  last : Nat
  isSealed : Bool
  isRetired : Bool
  deriving DecidableEq, Repr

structure Stream where
  defn : Option Definition
  state : StreamState
  chain : List ChainEntry
  oldest : Nat
  newest : Nat
  durable : Nat
  cursor : Nat
  resumed : Bool
  tail : Tail
  deriving DecidableEq, Repr

/-! ### Guard Unit, Seal Ledger and Vault (R124, R131, R136) -/

inductive LockMode where
  | disabled | active
  deriving DecidableEq, Repr

structure LockRange where
  low : Nat
  high : Nat
  invert : Bool
  deriving DecidableEq, Repr

structure GuardUnit where
  mode : LockMode
  /-- none is the range NONE. -/
  range : Option LockRange
  frozen : Bool
  /-- The sampled level of GUARD_N: true is high. -/
  level : Bool
  /-- A hold episode has begun (R128). -/
  episode : Bool
  deriving DecidableEq, Repr

structure SealVault where
  /-- Ledger frames used, 0 to 32. -/
  used : Nat
  sealedSet : List Nat
  written : List Nat
  failed : List Nat
  closed : Bool
  deriving DecidableEq, Repr

/-! ### Timebase (R140 to R148) -/

structure Timebase where
  prescaler : Nat
  counter : Word32
  epoch : Byte
  valid : Bool
  armed : Bool
  alarm : Word32
  running : Bool
  deriving DecidableEq, Repr

/-! ### Event Unit (R149 to R155) -/

/-- The notice kinds of Table 10-3. -/
inductive NoticeKind where
  | retired | relocated | weak | damaged | restricted | streamFull | reclaimed | guardHold | tailDiscarded | faulted
  | sealPartial | mounted
  deriving DecidableEq, Repr

/-- A notice (Table 10-2). -/
structure Notice where
  kind : NoticeKind
  stream : Nat
  segment : Nat
  value : Nat
  value2 : Nat
  deriving DecidableEq, Repr

structure EventUnit where
  /-- The latched bits of EVPEND; bit 0 (CPL) is a level and a view (R149). -/
  latched : Byte
  mask : Byte
  notices : List Notice
  lost : Nat
  holdClear : Bool
  /-- Notices of the internal event being taken, with the rank of their kind; empty between events.
  MODEL'S OWN (R152's order of kinds, log 34). -/
  fresh : List (Nat × Notice)
  deriving DecidableEq, Repr

/-! ### Power and Mount Controller (R156 to R172) -/

/-- The causes of RESTRICTED. -/
inductive Cause where
  | catalogueLost | wornOut
  deriving DecidableEq, Repr

/-- READY, or RESTRICTED with its cause. -/
inductive Awake where
  | ready
  | restricted (c : Cause)
  deriving DecidableEq, Repr

/-- The device states of Table 11-1. -/
inductive DevState where
  | mounting
  | awake (a : Awake)
  | doze
  | halt
  | pfailFlush
  | dead
  deriving DecidableEq, Repr

inductive ResetKind where
  | por | pin | pfail
  deriving DecidableEq, Repr

/-- What the next internal event brings after a DOZE or HALT posting (R157, R159). -/
inductive Entry where
  | doze | halt
  deriving DecidableEq, Repr

/-- Where a soft reset stands (Figure 12-1): the abort steps due, the tails to be judged, room awaited for the jobs of
these streams' tails, or the drain. -/
inductive SoftStep where
  | abortSteps
  | judgeTails
  | room (streams : List Nat)
  | drain
  deriving DecidableEq, Repr

/-- What the power-fail sequence judged at the fall of PFAIL_N (R161) and learnt since. -/
structure PowerFail where
  holdup : Bool
  relocating : Bool
  headFailed : Bool
  deriving DecidableEq, Repr

inductive MountStage where
  | catalogue | ledger | vault | classify | chains
  deriving DecidableEq, Repr

/-- A candidate for a stream's chain (Table 11-3), with its frame 0 as read. -/
structure Candidate where
  segment : Nat
  stream : Nat
  generation : Nat
  first : Nat
  isSealed : Bool
  frameZero : FrameRead
  deriving DecidableEq, Repr

/-- The bounds mount found of a candidate (R166): its highest frame with a valid label, its last sequence, the records
discarded, and the tail its last frames give. -/
structure Bounds where
  cand : Candidate
  validTop : Nat
  last : Nat
  discarded : Nat
  tail : Tail
  deriving DecidableEq, Repr

/-- The mount scan: the frame being read and what the steps of Figure 11-1 have found so far. -/
structure Mount where
  stage : MountStage
  segment : Nat
  frame : Nat
  /-- The best valid catalogue version so far and its segment (R163). -/
  best : Option (Version × Nat)
  /-- The highest programmed frame of segments 0 and 1. -/
  top0 : Option Nat
  top1 : Option Nat
  /-- Segments 0 and 1 read erased at their frame 0. -/
  erased0 : Bool
  erased1 : Bool
  ledgerUsed : Nat
  sealedSet : List Nat
  vaultClosed : Bool
  badLowest : Option Nat
  badCount : Nat
  written : List Nat
  /-- Segments classified FREE_ERASED, FREE_STALE, RETIRED and SEALED without an owner, highest first. -/
  freeErased : List Nat
  freeStale : List Nat
  retiredSegs : List Nat
  strayed : List Nat
  /-- Candidates found by the classification, highest first; then those still to scan, lowest first. -/
  cands : List Candidate
  /-- Frames of the candidate being scanned, highest first. -/
  frames : List FrameRead
  bounds : List Bounds
  dataIncarnation : Nat
  deriving DecidableEq, Repr

structure Power where
  state : DevState
  remembered : Option Awake
  /-- A power-on reset has occurred since the last mount ended (R162). -/
  powerOnMark : Bool
  lastReset : ResetKind
  /-- The last-commit stream (chapter 11.1). -/
  lastCommit : Option Nat
  entryDue : Option Entry
  /-- The mounting reset in progress (R168); while there is one, `state` holds DEAD (log 22). -/
  reset : Option ResetKind
  /-- The soft reset in progress: HCTL.SRST reads 1 while there is one (R18). -/
  soft : Option SoftStep
  flush : PowerFail
  mount : Option Mount
  deriving DecidableEq, Repr

/-- The six options (Table 12-4), as their values. -/
structure Options where
  commitPolicy : Nat
  tickSource : Nat
  tickDivider : Nat
  holdupUse : Nat
  damagedReads : Nat
  backgroundErase : Nat
  deriving DecidableEq, Repr

/-- Pins whose level the model keeps (log 33); GUARD_N's sampled level is in the Guard Unit. -/
structure Pins where
  rstN : Bool
  pfailN : Bool
  supply : Bool
  deriving DecidableEq, Repr

/-! ### The whole machine -/

structure State where
  host : HostPort
  sequencer : Sequencer
  cpl : CompletionQueue
  rsp : ResponseBuffer
  write : WritePath
  engine : Engine
  catalogue : Catalogue
  segments : Segments
  streams : List Stream
  guard : GuardUnit
  vault : SealVault
  time : Timebase
  events : EventUnit
  power : Power
  options : Options
  pins : Pins
  medium : Medium
  /-- The commands of the model that wait, first in, first out; MODEL'S OWN (log 3). -/
  pending : List Instr
  deriving DecidableEq, Repr

/-! ### Values after reset (Table 12-1) -/

/-- The Host Port after a mounting reset (R20). -/
def HostPort.fresh : HostPort :=
  { latch := 0x3, assembler := .idle, herr := 0, flushCnt := 0, rspHold := 0, aborting := false, dataOut := 0 }

/-- The Sequencer after a mounting reset (R43). -/
def Sequencer.fresh : Sequencer :=
  { queue := [], dispatched := none, deferred := [], arm := none, nextId := 0 }

/-- The Completion Queue after any reset (Table 12-1). -/
def CompletionQueue.empty : CompletionQueue := { records := [], index := 0, fresh := [] }

/-- The Response Buffer after any reset (Table 12-1). -/
def ResponseBuffer.empty : ResponseBuffer := { bytes := [], index := 0 }

/-- The Array Engine after a mounting reset (R62). -/
def Engine.fresh : Engine :=
  { op := none, request := none, reloc := none, lastFail := false, prevFail := false }

/-- The catalogue before mount has chosen a version: the factory state (R163). DESIGN CHOICE while mount runs
(log 6). -/
def Catalogue.fresh : Catalogue :=
  { active := 0, top := none, generation := 0, retired := [], queue := [], work := none, dataIncarnation := 0 }

/-- An UNDEFINED stream (R65). -/
def Stream.blank : Stream :=
  { defn := none, state := .undefined, chain := [], oldest := 0, newest := 0, durable := 0, cursor := 0,
    resumed := false, tail := .none }

/-- The Timebase after a power-on reset (R148). -/
def Timebase.fresh : Timebase :=
  { prescaler := 0, counter := 0, epoch := 0, valid := false, armed := false, alarm := 0, running := true }

/-- The Seal Ledger and Vault before mount has read them (log 6). -/
def SealVault.fresh : SealVault := { used := 0, sealedSet := [], written := [], failed := [], closed := false }

/-- The defaults of Table 12-4. -/
def Options.defaults : Options :=
  { commitPolicy := 1, tickSource := 1, tickDivider := 5, holdupUse := 1, damagedReads := 0, backgroundErase := 1 }

/-- No power-fail sequence under way. -/
def PowerFail.clear : PowerFail := { holdup := false, relocating := false, headFailed := false }

/-- The mount scan at its first READ (R163). -/
def Mount.first : Mount :=
  { stage := .catalogue, segment := 0, frame := 0, best := none, top0 := none, top1 := none, erased0 := false,
    erased1 := false, ledgerUsed := 0, sealedSet := [], vaultClosed := false, badLowest := none, badCount := 0,
    written := [], freeErased := [], freeStale := [], retiredSegs := [], strayed := [], cands := [], frames := [],
    bounds := [], dataIncarnation := 0 }

/-- The machine right after a power-on reset of a new part: the reset has ended with PFAIL_N high, so the device is
MOUNTING and the engine performs the first READ of the mount scan (R162, R168, Table 12-1). LOCKEN was low and
GUARD_N is high: DESIGN CHOICE (log 5). -/
def State.reset : State :=
  { host := HostPort.fresh
    sequencer := Sequencer.fresh
    cpl := CompletionQueue.empty
    rsp := ResponseBuffer.empty
    write := { staging := none, jobs := [] }
    engine := { Engine.fresh with op := some { who := .mount, op := .read 0 0 0 512 } }
    catalogue := Catalogue.fresh
    segments := { map := [], pool := [] }
    streams := List.replicate 8 Stream.blank
    guard := { mode := .disabled, range := none, frozen := false, level := true, episode := false }
    vault := SealVault.fresh
    time := Timebase.fresh
    events := { latched := 0, mask := 0, notices := [], lost := 0, holdClear := false, fresh := [] }
    power := { state := .mounting, remembered := none, powerOnMark := true, lastReset := .por, lastCommit := none,
               entryDue := none, reset := none, soft := none,
               flush := PowerFail.clear, mount := some Mount.first }
    options := Options.defaults
    pins := { rstN := true, pfailN := true, supply := true }
    medium := { mem := [], margins := [] }
    pending := [] }

end Sys2Proof.Machine
end

