-- ==== Sys2Proof/Machine/Memory.lean ====
section
/-!
DEFINITION. The storage array as data: canonical lists by key (addresses strictly rising, no entry equal to what an
unlisted key holds), the data bytes and margins of the medium, and the named operations that change it: a portion
programmed, failed or torn, and a segment erased (R44 to R54, R61).
-/

namespace Sys2Proof.Machine

open Sys2Proof

/-! ### Canonical lists -/

/-- What key `k` holds: its entry, or the value `d k` of an unlisted key. -/
def storeGet {α : Type} (d : Nat → α) : List (Nat × α) → Nat → α
  | [], k => d k
  | (a, v) :: t, k => if a = k then v else storeGet d t k

/-- Write `v` at `k`, keeping the canonical form: writing what an unlisted key holds removes the entry. -/
def storePut {α : Type} [DecidableEq α] (d : Nat → α) (k : Nat) (v : α) : List (Nat × α) → List (Nat × α)
  | [] => if v = d k then [] else [(k, v)]
  | (a, w) :: t =>
    if k < a then (if v = d k then (a, w) :: t else (k, v) :: (a, w) :: t)
    else if k = a then (if v = d k then t else (k, v) :: t)
    else (a, w) :: storePut d k v t

/-- Every key from `lo` up to but not including `hi` becomes unlisted. -/
def storeClear {α : Type} (lo hi : Nat) (m : List (Nat × α)) : List (Nat × α) :=
  m.filter (fun e => e.1 < lo || hi ≤ e.1)

/-- The canonical form: keys strictly rising from at least `from_`, and no entry equal to an unlisted key's value. -/
def storeWf {α : Type} [DecidableEq α] (d : Nat → α) : Nat → List (Nat × α) → Bool
  | _, [] => true
  | low, (a, v) :: t => decide (low ≤ a) && decide (v ≠ d a) && storeWf d (a + 1) t

/-- Write bytes one after another from `k` upward. -/
def storeBytes {α : Type} [DecidableEq α] (d : Nat → α) : Nat → List α → List (Nat × α) → List (Nat × α)
  | _, [], m => m
  | k, v :: vs, m => storeBytes d (k + 1) vs (storePut d k v m)

/-! ### The medium -/

/-- An erased margin (R49: ERASED). -/
def erasedMargin : Margin := { label := none, entries := [] }

/-- The number of a frame in the array. -/
def frameNumber (seg frame : Nat) : Nat := seg * 32 + frame

/-- The margin of a frame nothing has been programmed into: erased, but in frames 0 to 3 of segment 4, which carry a
FACTORY label and one portion over the frame (R45, log 7). -/
def unlistedMargin (n : Nat) : Margin :=
  if 128 ≤ n ∧ n < 132 then
    { label := some { kind := .factory, stream := 255, frameIndex := n - 128, incarnation := 0, generation := 0,
                      firstOffset := none, firstSeq := 0, checkGood := true }
      entries := [{ endOffset := 512, damaged := false, pad := false, whole := true }] }
  else erasedMargin

/-- The data memory is in canonical form. -/
def Memory.wf (m : List Host.Cell) : Bool := storeWf Config.unlisted 0 m

/-- The whole medium is in canonical form. -/
def Medium.wf (m : Medium) : Bool := Memory.wf m.mem && storeWf unlistedMargin 0 m.margins

/-- One byte of the data area. -/
def Medium.byte (m : Medium) (a : Nat) : Byte := storeGet Config.unlisted m.mem a

/-- The bytes of a frame from offset `lo` up to but not including `hi`. -/
def Medium.bytes (m : Medium) (seg frame lo hi : Nat) : List Byte :=
  (List.range' lo (hi - lo)).map (fun o => m.byte (Config.address seg frame o))

/-- The margin of a frame. -/
def Medium.margin (m : Medium) (seg frame : Nat) : Margin := storeGet unlistedMargin m.margins (frameNumber seg frame)

/-- Data bytes written from offset `lo` of a frame, none beyond the frame's 512. -/
def Medium.write (m : Medium) (seg frame lo : Nat) (bytes : List Byte) : Medium :=
  { m with mem := storeBytes Config.unlisted (Config.address seg frame lo) (bytes.take (512 - lo)) m.mem }

def Medium.setMargin (m : Medium) (seg frame : Nat) (g : Margin) : Medium :=
  { m with margins := storePut unlistedMargin (frameNumber seg frame) g m.margins }

/-- A frame takes the given content whole: its bytes from offset 0, its label and its entries (R54, R61). -/
def Medium.setFrame (m : Medium) (seg frame : Nat) (c : FrameContent) : Medium :=
  ((m.write seg frame 0 (List.replicate 512 0xFF)).write seg frame 0 c.bytes).setMargin seg frame
    { label := c.label, entries := c.entries }

/-- The frames of a segment from `first` to 31 are erased (R51, R54). -/
def Medium.eraseFrom (m : Medium) (seg first : Nat) : Medium :=
  { mem := storeClear (Config.address seg first 0) (Config.address seg 32 0) m.mem
    margins := storeClear (frameNumber seg first) (frameNumber seg 32) m.margins }

/-- The whole segment is erased (R44, R54). -/
def Medium.erase (m : Medium) (seg : Nat) : Medium := m.eraseFrom seg 0

/-- The portion entry a PROGRAM writes (R49). -/
def programEntry (p : Program) (whole : Bool) : PortionEntry :=
  { endOffset := p.hi, damaged := p.damaged, pad := p.pad, whole := whole }

/-- The label a frame carries after a program of portion `k`: only portion 0 writes it (R48). -/
def labelAfter (k : Nat) (old new : Option Label) : Option Label := if k = 0 then new else old

/-- Entry `k` written after the entries below it (R49). -/
def entriesAfter (k : Nat) (old : List PortionEntry) (e : Option PortionEntry) : List PortionEntry :=
  old.take k ++ e.toList

/-- A PROGRAM as it reaches the medium: bytes from the range's start, the entry, the label with portion 0 (R51). -/
def Medium.portion (m : Medium) (p : Program) (bytes : List Byte) (e : Option PortionEntry) (l : Option Label) :
    Medium :=
  let old := m.margin p.segment p.frame
  (m.write p.segment p.frame p.lo (bytes.take (p.hi - p.lo))).setMargin p.segment p.frame
    { label := labelAfter p.portion old.label l, entries := entriesAfter p.portion old.entries e }

/-- A PROGRAM that ends: PASS writes every part (R53); FAIL leaves what the row says. -/
def Medium.endProgram (m : Medium) (p : Program) : ProgramResult → Medium
  | .pass => m.portion p p.bytes (some (programEntry p true)) p.label
  | .fail left => m.portion p left.bytes left.entry left.label

/-- Frames of a segment take the listed contents, from frame `i` up to frame 31 (R54, after FAIL). -/
def Medium.setFrames (m : Medium) (seg : Nat) : Nat → List FrameContent → Medium
  | _, [] => m
  | i, c :: cs => if i < 32 then (m.setFrame seg i c).setFrames seg (i + 1) cs else m

/-- An ERASE that ends (R54). -/
def Medium.endErase (m : Medium) (seg : Nat) : EraseResult → Medium
  | .pass => m.erase seg
  | .fail frames => m.setFrames seg 0 frames

/-- A PROGRAM cut at a point of R51's order: one of the four conditions of R61. A cut that names an erase leaves
nothing visible. -/
def Medium.cutProgram (m : Medium) (p : Program) : Cut → Medium
  | .nothingVisible => m
  | .entryOnly l => m.portion p [] (some (programEntry p false)) l
  | .incompleteData bytes => m.portion p bytes (some (programEntry p false)) p.label
  | .incompleteCheck => m.portion p p.bytes (some (programEntry p false)) p.label
  | .partlyErased _ _ => m

/-- An ERASE cut (R61): the frames above the one reached are erased, that frame is in an unknown condition, the frames
below are as they were. The margin of frame 0 is the last part to be erased and reads erased only if the erase had
finished (R51, R61). A cut that names a program falls before the first frame. -/
def Medium.cutErase (m : Medium) (seg : Nat) : Cut → Medium
  | .partlyErased reached unknown =>
    if reached = 0 ∧ unknown.label = none ∧ unknown.entries = [] then m.erase seg
    else if reached < 32 then (m.eraseFrom seg (reached + 1)).setFrame seg reached unknown
    else m
  | _ => m

/-- An operation in progress is cut at once (R61, R168, R169). -/
def Medium.cut (m : Medium) (op : Op) (c : Cut) : Medium :=
  match op with
  | .read _ _ _ _ => m
  | .program p => m.cutProgram p c
  | .erase seg => m.cutErase seg c

end Sys2Proof.Machine
end

