-- ==== Sys2Proof/Machine/Operands.lean ====
section
/-!
DEFINITION. Every record layout of the spec: the ranges a command's parameters are checked against (Table 2-1), the
completion record (Table 2-5), the record header with its check (Table 4-2, R115), notices (Table 10-2), the stream and
segment status records (Tables 4-3 and 8-1), and the byte layouts the model gives to a catalogue version and a ledger
frame, which the host never sees (R46, R131; logs 9 and 10).
-/

namespace Sys2Proof.Machine

open Sys2Proof

/-- A Boolean as one bit. -/
def bitOf (b : Bool) : Nat := if b then 1 else 0

/-- `n` bytes of 0x00. -/
def zeros (n : Nat) : List Byte := List.replicate n 0

/-- Bytes cut or filled up with `fill` to exactly `n`. -/
def fitBytes (fill : Byte) (n : Nat) (bytes : List Byte) : List Byte :=
  bytes.take n ++ List.replicate (n - bytes.length) fill

/-! ### Parameters (Table 2-1) -/

/-- A user segment (R44). -/
def isUser (seg : Nat) : Bool := 5 ≤ seg && seg ≤ 1023

/-- The range of each option's value (Table 12-4). -/
def optionMax (id : Nat) : Nat :=
  match id with
  | 1 => 1
  | 2 => 3
  | 3 => 7
  | 4 => 1
  | 5 => 1
  | _ => 1

/-- The parameter ranges judged at step 5 of Figure 2-1. -/
def paramsInRange : Cmd → Bool
  | .defineStream st mode quota _ => st ≤ 7 && mode ≤ 1 && 1 ≤ quota && quota ≤ 1019
  | .deleteStream st => st ≤ 7
  | .queryStream st => st ≤ 7
  | .trimStream st _ => st ≤ 7
  | .append st _ => st ≤ 7
  | .commit st _ => st ≤ 7
  | .cancel st => st ≤ 7
  | .sync => true
  | .readRecord st seq => st ≤ 7 && seq ≠ 0
  | .seek st origin seq => st ≤ 7 && origin ≤ 2 && (origin ≠ 2 || seq ≠ 0)
  | .readNext st => st ≤ 7
  | .lockAll => true
  | .unlockRange low high invert => isUser low && isUser high && low ≤ high && invert ≤ 1
  | .freezeLocks => true
  | .segmentStatus seg => seg ≤ 1023
  | .arm target check => (target = 0x49 || target = 0x4A || target = 0x52) && check = ~~~ target
  | .sealStream st seq => st ≤ 7 && seq ≠ 0
  | .format => true
  | .vaultWrite slot _ => slot ≤ 31
  | .vaultRead slot => slot ≤ 31
  | .vaultClose => true
  | .getOption id => 1 ≤ id && id ≤ 6
  | .setOption id value => 1 ≤ id && id ≤ 6 && value ≤ optionMax id
  | .describe => true
  | .identify => true
  | .readNotices => true
  | .setTime _ _ => true
  | .getTime => true
  | .setAlarm action _ => action ≤ 1
  | .doze => true
  | .halt => true

/-- The stream parameter that DETAIL holds, for the commands R34 lists; 0 otherwise and when it is not 0 to 7. -/
def cmdDetail : Cmd → Nat
  | .defineStream st _ _ _ => if st ≤ 7 then st else 0
  | .deleteStream st => if st ≤ 7 then st else 0
  | .queryStream st => if st ≤ 7 then st else 0
  | .trimStream st _ => if st ≤ 7 then st else 0
  | .append st _ => if st ≤ 7 then st else 0
  | .commit st _ => if st ≤ 7 then st else 0
  | .cancel st => if st ≤ 7 then st else 0
  | .readRecord st _ => if st ≤ 7 then st else 0
  | .seek st _ _ => if st ≤ 7 then st else 0
  | .readNext st => if st ≤ 7 then st else 0
  | .sealStream st _ => if st ≤ 7 then st else 0
  | _ => 0

/-- The commands Table 2-3 refuses in RESTRICTED with this cause. -/
def refusedIn (c : Cause) : Cmd → Bool
  | .defineStream _ _ _ _ => true
  | .deleteStream _ => true
  | .trimStream _ _ => true
  | .append _ _ => true
  | .commit _ _ => true
  | .sealStream _ _ => true
  | .vaultWrite _ _ => true
  | .vaultClose => true
  | .lockAll => true
  | .unlockRange _ _ _ => true
  | .freezeLocks => true
  | .format => c = .wornOut
  | _ => false

/-- The commands that step 4 of Figure 2-1 requires an arm for. -/
def needsArm : Cmd → Bool
  | .sealStream _ _ => true
  | .format => true
  | .vaultClose => true
  | _ => false

/-! ### Codes and the completion record -/

/-- The outcome codes of Table 2-7. -/
def resultCode : Result → Nat
  | .done => 0x00
  | .badFrame => 0x01
  | .badParam => 0x02
  | .refusedState => 0x03
  | .noStream => 0x04
  | .streamExists => 0x05
  | .stageBusy => 0x06
  | .nothingStaged => 0x07
  | .tooLong => 0x08
  | .full => 0x09
  | .writeProtected => 0x0A
  | .lockDisabled => 0x0B
  | .frozen => 0x0C
  | .headSealed => 0x0D
  | .notArmed => 0x0E
  | .order => 0x0F
  | .closed => 0x10
  | .ledgerFull => 0x11
  | .gone => 0x12
  | .notYet => 0x13
  | .lost => 0x14
  | .damaged => 0x15
  | .skipped => 0x16
  | .blank => 0x17
  | .medium => 0x18
  | .aborted => 0x19

/-- The FULL reason codes (R35). -/
def fullCode : FullReason → Nat
  | .quota => 1
  | .sealedHead => 2
  | .noSpace => 3
  | .sequenceEnd => 4

/-- The integrity class codes (R35). -/
def gradeCode : Grade → Nat
  | .clean => 0
  | .minor => 1
  | .major => 2
  | .broken => 3

/-- Byte 3 of a completion record (Table 2-5). -/
def completionFlags (c : Completion) : Nat :=
  bitOf c.durable + 2 * bitOf c.response + 4 * bitOf c.abortLate + 8 * bitOf c.notEntered + 16 * c.detail

/-- The twelve bytes of a completion record (Table 2-5). -/
def completionBytes (c : Completion) : List Byte :=
  [c.tag, c.opcode, BitVec.ofNat 8 (resultCode c.result), BitVec.ofNat 8 (completionFlags c)] ++
  leBytes 4 c.value.toNat ++ leBytes 4 c.aux.toNat

/-! ### The record header (Table 4-2, R115) -/

/-- One bit into the header check's register: generator x^16 + x^12 + x^5 + 1, most significant bit first (R115). -/
def checkBit (c : Word16) (b : Bool) : Word16 :=
  if xor c.msb b then (c <<< 1) ^^^ 0x1021 else c <<< 1

/-- One byte into the header check's register, most significant bit first. -/
def checkByte (c : Word16) (b : Byte) : Word16 :=
  [7, 6, 5, 4, 3, 2, 1, 0].foldl (fun r i => checkBit r (b.getLsbD i)) c

/-- The header check over the given bytes: the register starts at 0xFFFF, no final inversion (R115). -/
def headerCheck (bytes : List Byte) : Word16 := bytes.foldl checkByte 0xFFFF

/-- The first fourteen bytes of a record header (Table 4-2). -/
def headerBody (length : Nat) (attr epoch : Byte) (seq : Nat) (ticks : Word32) (untimed resumed : Bool)
    (stream : Nat) : List Byte :=
  leBytes 2 length ++ [attr, epoch] ++ leBytes 4 seq ++ leBytes 4 ticks.toNat ++
  [BitVec.ofNat 8 (bitOf untimed + 2 * bitOf resumed), BitVec.ofNat 8 stream]

/-- A record header: its body and the header check, low byte first (R115). -/
def recordHeader (length : Nat) (attr epoch : Byte) (seq : Nat) (ticks : Word32) (untimed resumed : Bool)
    (stream : Nat) : List Byte :=
  let body := headerBody length attr epoch seq ticks untimed resumed stream
  body ++ leBytes 2 (headerCheck body).toNat

/-- The length field of a header. -/
def headerLength (h : List Byte) : Nat := leNat (h.take 2)

/-- The sequence field of a header. -/
def headerSeq (h : List Byte) : Nat := leNat ((h.drop 4).take 4)

/-- The stream field of a header. -/
def headerStream (h : List Byte) : Nat := (h.getD 13 0).toNat

/-- A header is valid for a walk (R89): its check passes, and its stream, sequence and length are as expected. -/
def headerValid (stream expected : Nat) (h : List Byte) : Bool :=
  h.length = 16 && leNat ((h.drop 14).take 2) = (headerCheck (h.take 14)).toNat && headerStream h = stream &&
  headerSeq h = expected && headerLength h ≤ 1536

/-! ### Notices (Tables 10-2 and 10-3) -/

/-- The kind codes of Table 10-3. -/
def noticeCode : NoticeKind → Nat
  | .retired => 1
  | .relocated => 2
  | .weak => 3
  | .damaged => 4
  | .restricted => 5
  | .streamFull => 6
  | .reclaimed => 7
  | .guardHold => 8
  | .tailDiscarded => 9
  | .faulted => 10
  | .sealPartial => 11
  | .mounted => 12

/-- The fixed order of kinds in which notices of different rules join the list in one event (R152). -/
def noticeRank : NoticeKind → Nat
  | .retired => 1
  | .relocated => 2
  | .faulted => 3
  | .restricted => 4
  | .guardHold => 5
  | .reclaimed => 6
  | .streamFull => 7
  | .weak => 8
  | .damaged => 9
  | .tailDiscarded => 10
  | .mounted => 11
  | .sealPartial => 12

/-- The twelve bytes of a notice (Table 10-2). -/
def noticeBytes (n : Notice) : List Byte :=
  leBytes 1 (noticeCode n.kind) ++ leBytes 1 n.stream ++ leBytes 2 n.segment ++ leBytes 4 n.value ++
  leBytes 4 n.value2

/-- The response of READ NOTICES (Table 10-4). -/
def noticeListBytes (lost : Nat) (ns : List Notice) : List Byte :=
  leBytes 1 lost ++ leBytes 1 ns.length ++ zeros 2 ++ ns.flatMap noticeBytes

/-! ### Status records -/

/-- The state code of byte 1 of the stream status record (Table 4-3). -/
def streamStateCode : StreamState → Nat
  | .undefined => 0
  | .opened => 1
  | .full _ => 2
  | .archived => 3
  | .faulted => 4

/-- The owned count: chain entries that are not RETIRED (R64). -/
def ownedCount (s : Stream) : Nat := (s.chain.filter (fun e => !e.isRetired)).length

/-- Tail bytes that no program job carries yet (R76). -/
def pendingBytes : Tail → Nat
  | .pos p => p.offset - p.unprog
  | _ => 0

/-- The 48-byte stream status record (Table 4-3, R70); `staged` is the payload length staged for the stream. -/
def streamStatus (n : Nat) (s : Stream) (staged : Option Nat) : List Byte :=
  match s.defn with
  | none => leBytes 1 n ++ zeros 47
  | some d =>
    leBytes 1 n ++ leBytes 1 (streamStateCode s.state) ++
    leBytes 1 (match s.state with | .full r => fullCode r | _ => 0) ++
    leBytes 1 (match d.mode with | .linear => 0 | .ring => 1) ++ leBytes 2 d.quota ++ leBytes 1 d.name.length ++
    leBytes 1 (bitOf s.resumed + 2 * bitOf staged.isSome) ++ fitBytes 0 12 d.name ++ leBytes 4 d.incarnation ++
    leBytes 2 (ownedCount s) ++ leBytes 2 (s.chain.filter (fun e => e.isSealed)).length ++
    leBytes 4 s.oldest ++ leBytes 4 s.newest ++ leBytes 4 s.durable ++ leBytes 4 s.cursor ++
    leBytes 2 (staged.getD 0) ++ leBytes 2 (pendingBytes s.tail)

/-- The state code of byte 2 of the segment status record (Table 8-1). -/
def segStateCode : SegState → Nat
  | .freeErased => 1
  | .freeStale => 2
  | .owned => 3
  | .segSealed => 4
  | .retired => 5
  | .taken => 6

/-- The 12-byte segment status record (Table 8-1, R127); system segments report SYSTEM and nothing else. -/
def segmentStatusBytes (seg : Nat) (e : SegEntry) (locked : Bool) (programmed position : Nat) : List Byte :=
  if isUser seg then
    leBytes 2 seg ++ leBytes 1 (segStateCode e.state) ++ leBytes 1 (e.owner.getD 255) ++
    leBytes 1 (bitOf locked + 2 * bitOf (e.state = .segSealed) + 4 * bitOf (e.state = .retired) + 8 * bitOf e.weak +
      16 * bitOf e.failing + 32 * bitOf e.isOpen + 64 * bitOf e.mountOnly) ++
    leBytes 1 programmed ++ leBytes 4 e.generation ++ leBytes 2 position
  else leBytes 2 seg ++ leBytes 1 0 ++ leBytes 1 255 ++ leBytes 1 0 ++ leBytes 1 programmed ++ zeros 4 ++ zeros 2

/-! ### Catalogue versions in bytes (R46, R120); DESIGN CHOICE of layout, safe: the host never sees it (log 9) -/

/-- A definition in its 23 bytes: present, stream, archived, mode, quota, name length, name, incarnation. -/
def defnBytes (n : Nat) : Option Definition → List Byte
  | none => zeros 23
  | some d =>
    leBytes 1 1 ++ leBytes 1 n ++ leBytes 1 (bitOf d.archived) ++
    leBytes 1 (match d.mode with | .linear => 0 | .ring => 1) ++ leBytes 2 d.quota ++ leBytes 1 d.name.length ++
    fitBytes 0 12 d.name ++ leBytes 4 d.incarnation

/-- The definitions in stream order from stream `n`. -/
def defnsBytes : Nat → List (Option Definition) → List Byte
  | _, [] => []
  | n, d :: ds => defnBytes n d ++ defnsBytes (n + 1) ds

/-- The 512 bytes of a catalogue version; the remaining bytes are 0x00 (R46). -/
def versionBytes (v : Version) : List Byte :=
  fitBytes 0 512 (leBytes 4 v.generation ++ defnsBytes 0 v.defs ++ leBytes 1 v.retired.length ++
    v.retired.flatMap (leBytes 2))

/-- A definition read back from its 23 bytes: none where it is malformed, some none where it is marked absent
(R120). -/
def readDefn (n generation : Nat) (b : List Byte) : Option (Option Definition) :=
  let mode := leNat ((b.drop 3).take 1)
  let quota := leNat ((b.drop 4).take 2)
  let len := leNat ((b.drop 6).take 1)
  let inc := leNat ((b.drop 19).take 4)
  let arch := leNat ((b.drop 2).take 1)
  if leNat (b.take 1) = 0 then some none
  else if leNat (b.take 1) = 1 ∧ leNat ((b.drop 1).take 1) = n ∧ arch ≤ 1 ∧ mode ≤ 1 ∧ 1 ≤ quota ∧ quota ≤ 1019 ∧
      len ≤ 12 ∧ 1 ≤ inc ∧ inc ≤ generation then
    some (some { mode := if mode = 0 then .linear else .ring, quota := quota, name := (b.drop 7).take len,
                 incarnation := inc, archived := arch = 1 })
  else none

/-- `k` definitions from stream `n` on, from the bytes that hold them. -/
def readDefns (generation : Nat) : Nat → Nat → List Byte → Option (List (Option Definition))
  | 0, _, _ => some []
  | k + 1, n, b =>
    match readDefn n generation (b.take 23), readDefns generation k (n + 1) (b.drop 23) with
    | some d, some ds => some (d :: ds)
    | _, _ => none

/-- `k` two-byte segment numbers. -/
def readSegments : Nat → List Byte → List Nat
  | 0, _ => []
  | k + 1, b => leNat (b.take 2) :: readSegments k (b.drop 2)

/-- No number stands twice. -/
def distinct : List Nat → Bool
  | [] => true
  | x :: xs => !xs.contains x && distinct xs

/-- The content tests of R120 on a frame's 512 bytes. -/
def readVersion (b : List Byte) : Option Version :=
  let generation := leNat (b.take 4)
  let count := leNat ((b.drop 188).take 1)
  let retired := readSegments count (b.drop 189)
  match readDefns generation 8 0 ((b.drop 4).take 184) with
  | none => none
  | some defs =>
    if 1 ≤ generation ∧ count ≤ 40 ∧ retired.all isUser ∧ distinct retired ∧
        (b.drop (189 + 2 * count)).all (fun x => x = 0) then
      some { generation := generation, defs := defs, retired := retired }
    else none

/-! ### Ledger frames in bytes (R131); DESIGN CHOICE of layout, safe: the host never sees it (log 10) -/

/-- The two forms of a ledger frame (R131). -/
inductive LedgerFrame where
  | seals (entries : List SealEntry)
  | closing
  deriving DecidableEq, Repr

def sealEntryBytes (e : SealEntry) : List Byte :=
  leBytes 2 e.segment ++ leBytes 1 e.stream ++ leBytes 4 e.incarnation ++ leBytes 4 e.generation

/-- The 512 bytes of a ledger frame, its unused bytes 0x00 (R47). -/
def ledgerBytes : LedgerFrame → List Byte
  | .seals es => fitBytes 0 512 (leBytes 1 1 ++ leBytes 1 es.length ++ es.flatMap sealEntryBytes)
  | .closing => fitBytes 0 512 (leBytes 1 2)

def readSealEntries : Nat → List Byte → List SealEntry
  | 0, _ => []
  | k + 1, b =>
    { segment := leNat (b.take 2), stream := leNat ((b.drop 2).take 1), incarnation := leNat ((b.drop 3).take 4),
      generation := leNat ((b.drop 7).take 4) } :: readSealEntries k (b.drop 11)

/-- Generations ascend and every entry is of the first one's stream and incarnation (R131). -/
def sealsOrdered : List SealEntry → Bool
  | a :: b :: t => a.generation < b.generation && a.stream = b.stream && a.incarnation = b.incarnation &&
      sealsOrdered (b :: t)
  | _ => true

/-- The content test of R121: exactly one of the two forms of R131. -/
def readLedger (b : List Byte) : Option LedgerFrame :=
  let form := leNat (b.take 1)
  let count := leNat ((b.drop 1).take 1)
  let es := readSealEntries count (b.drop 2)
  if form = 1 then
    if 1 ≤ count ∧ count ≤ 31 ∧ es.all (fun e => isUser e.segment && e.stream ≤ 7) ∧ sealsOrdered es ∧
        distinct (es.map (fun e => e.segment)) ∧ (b.drop (2 + 11 * count)).all (fun x => x = 0) then some (.seals es)
    else none
  else if form = 2 ∧ (b.drop 1).all (fun x => x = 0) then some .closing
  else none

end Sys2Proof.Machine
end

