-- ==== Sys2Proof/Machine/Flags.lean ====
section
/-!
DEFINITION. What is computed from state and never held: the Integrity Unit's judgement of a frame (R116 to R118), the
registers of the window (Table 1-2) with HSTAT, EVPEND, EVCAUSE and IRQ_N, and the conditions other rules ask for
(locked, available, idle, live).
-/

namespace Sys2Proof.Machine

open Sys2Proof

/-! ### The Integrity Unit (R116 to R118) -/

/-- The class of a portion by Table 7-1: BROKEN when it is torn, when more than 4 errors are found or when the check
code fails. -/
def gradeOf (torn : Bool) (errors : Nat) (checkFails : Bool) : Grade :=
  if torn || checkFails || 4 < errors then .broken
  else if errors = 0 then .clean else if errors ≤ 2 then .minor else .major

/-- The worse of two classes. -/
def worse (a b : Grade) : Grade := if gradeCode a < gradeCode b then b else a

/-- A portion that reads as it was programmed. -/
def noNoise : PortionNoise := { zeroBits := none, errors := 0, checkFails := false, unseen := false, asRead := none }

/-- A frame that reads as it was programmed. -/
def quiet : ReadNoise :=
  { portions := [], data := [], labelZeroBits := none, labelCheckFails := false, labelAsRead := none }

/-- An entry or a label is programmed when more than 4 of its bits read 0 (R116): of a stored one many do, of an
erased one none, but for what the row says this reading shows. -/
def bitsProgrammed (stored : Bool) (zeroBits : Option Nat) : Bool := 4 < zeroBits.getD (if stored then 64 else 0)

/-- The class of portion `k`: an entry that reads programmed where none is stored has no codes and is BROKEN. -/
def portionGrade (stored : Option PortionEntry) (n : PortionNoise) : Grade :=
  match stored with
  | some e => gradeOf (!e.whole) n.errors n.checkFails
  | none => .broken

/-- Data bytes of a frame exactly as they read, without correction (R52, R117). -/
def rawBytes (m : Medium) (seg frame : Nat) (noise : ReadNoise) (lo hi : Nat) : List Byte :=
  ((noise.data ++ m.bytes seg frame noise.data.length 512).take hi).drop lo

/-- Bytes over others: `top` from the start, and where it is shorter what lies under it. -/
def overBytes (top under : List Byte) : List Byte := top.take under.length ++ under.drop top.length

/-- The end offset, the flags and the bytes a READ goes on with (R117): those that were programmed, which correction
restores; of a BROKEN portion all as read; and where the error reached beyond the parity unseen, the wrong ones that
correction made. -/
def portionContent (m : Medium) (seg frame prev : Nat) (stored : Option PortionEntry) (n : PortionNoise)
    (raw : Nat → List Byte) : PortionContent :=
  let kept : PortionContent :=
    match stored with
    | some e => { endOffset := e.endOffset, damaged := e.damaged, pad := e.pad,
                  bytes := m.bytes seg frame prev e.endOffset }
    | none => { endOffset := 0, damaged := false, pad := false, bytes := [] }
  let shown := n.asRead.getD kept
  if portionGrade stored n = .broken then { shown with bytes := raw shown.endOffset }
  else if n.unseen then { shown with bytes := overBytes shown.bytes (raw shown.endOffset) }
  else kept

/-- The portions of a frame from entry `k`, the end offset of the portion below being `prev` (Figure 7-1): the first
unprogrammed entry ends them, and so does an implausible end offset, which is the second component (R116). -/
def readPortions (m : Medium) (seg frame : Nat) (noise : ReadNoise) : Nat → Nat → Nat → List PortionRead × Bool
  | 0, _, _ => ([], false)
  | fuel + 1, k, prev =>
    let stored := (m.margin seg frame).entries[k]?
    let n := noise.portions.getD k noNoise
    if bitsProgrammed stored.isSome n.zeroBits then
      let c := portionContent m seg frame prev stored n (rawBytes m seg frame noise prev)
      if prev < c.endOffset ∧ c.endOffset ≤ 512 then
        let rest := readPortions m seg frame noise fuel (k + 1) c.endOffset
        ({ lo := prev, hi := c.endOffset, grade := portionGrade stored n, damaged := c.damaged, pad := c.pad,
           bytes := c.bytes } :: rest.1, rest.2)
      else ([], true)
    else ([], false)

/-- The class of a frame's portion 0; BROKEN when it has none that is plausible (R116). -/
def firstGrade (ps : List PortionRead) : Grade :=
  match ps with
  | p :: _ => p.grade
  | [] => .broken

/-- The judgement of a label (R118) with the frame's portions: its fields are corrected by portion 0, its check is not. A
portion 0 whose end offset is implausible is BROKEN (R116). A label that reads programmed over an entry 0 that reads
unprogrammed has no portion 0 to be judged by: the rule names no such case, and the model takes it as failing
(DESIGN CHOICE, log 49). -/
def readLabel (m : Medium) (seg frame : Nat) (noise : ReadNoise) (ps : List PortionRead) : LabelRead :=
  let stored := (m.margin seg frame).label
  let corrected := firstGrade ps ≠ .broken && !(noise.portions.getD 0 noNoise).unseen
  if bitsProgrammed stored.isSome noise.labelZeroBits then
    match if corrected then stored else noise.labelAsRead.or stored with
    | some l =>
      let l' := { l with checkGood := l.checkGood && !noise.labelCheckFails }
      if firstGrade ps ≠ .broken ∧ l'.checkGood ∧ l'.frameIndex = frame then .valid l' else .failing (some l')
    | none => .failing none
  else .erased

/-- One past the last byte of a frame's portions. -/
def portionsEnd (ps : List PortionRead) : Nat := ps.foldl (fun _ p => p.hi) 0

/-- The bytes of the portions, from offset 0. -/
def portionsBytes (ps : List PortionRead) : List Byte := ps.flatMap (fun p => p.bytes)

/-- The class of a READ of `lo` to `hi` as a whole (R52): the worst of the portions it overlaps, CLEAN when there is
none; where an entry was implausible, BROKEN for a range that reaches beyond the portions below it (R116). -/
def rangeGrade (ps : List PortionRead) (implausible : Bool) (lo hi : Nat) : Grade :=
  if implausible && portionsEnd ps < hi then .broken
  else ps.foldl (fun g p => if p.lo < hi ∧ lo < p.hi then worse g p.grade else g) .clean

/-- What a READ of `lo` to `hi` of a frame returns (R52). -/
def readFrame (m : Medium) (seg frame lo hi : Nat) (noise : ReadNoise) : FrameRead :=
  let ps := readPortions m seg frame noise 4 0 0
  { label := readLabel m seg frame noise ps.1
    portions := ps.1
    entryZero := bitsProgrammed (m.margin seg frame).entries.head?.isSome (noise.portions.getD 0 noNoise).zeroBits
    implausible := ps.2
    grade := rangeGrade ps.1 ps.2 lo hi
    bytes := ((portionsBytes ps.1 ++ rawBytes m seg frame noise (portionsEnd ps.1) 512).take hi).drop lo }

/-- The label and entry 0 of a frame read erased (R127, R163, R165). -/
def frameErased (f : FrameRead) : Bool := f.label = .erased && !f.entryZero

/-- The frame carries a valid label of this kind. -/
def labelKindIs (k : FrameKind) (f : FrameRead) : Bool :=
  match f.label with
  | .valid l => l.kind = k
  | _ => false

/-- The tests of label, portion and class of R120: a valid label of the kind, exactly one programmed portion that ends
at 512 with neither PAD nor DAMAGED, and its class not BROKEN. An entry above it is never plausible, and its portion is
treated as absent (R116). -/
def wholeFrame (k : FrameKind) (f : FrameRead) : Bool :=
  labelKindIs k f &&
  match f.portions with
  | [p] => p.hi = 512 && !p.pad && !p.damaged && p.grade ≠ .broken
  | _ => false

/-- A valid catalogue version (R120). -/
def catalogueVersion (f : FrameRead) : Option Version :=
  if wholeFrame .catalogue f then readVersion (portionsBytes f.portions) else none

/-- A valid ledger frame (R121). -/
def ledgerFrame (f : FrameRead) : Option LedgerFrame :=
  if wholeFrame .ledger f then readLedger (portionsBytes f.portions) else none

/-- A vault slot is written (R121). -/
def slotWritten (f : FrameRead) : Bool := f.label ≠ .erased || f.entryZero

/-- The class of a written vault slot: that of its one portion, BROKEN where the label is not valid or not of kind
VAULT, where entry 0 is unprogrammed, and where the portion does not end at 512 (R121). -/
def slotGrade (f : FrameRead) : Grade :=
  match f.portions with
  | p :: _ => if labelKindIs .vault f && p.hi = 512 then p.grade else .broken
  | [] => .broken

/-! ### Conditions -/

/-- The supply is in range and no mounting reset is in progress. -/
def operating (s : State) : Bool := s.pins.supply && s.power.reset.isNone

/-- The window is live (R19). -/
def windowLive (s : State) : Bool :=
  operating s &&
  match s.power.state with
  | .mounting => true
  | .awake _ => true
  | .doze => true
  | _ => false

/-- The device is in READY or RESTRICTED. -/
def isAwake (s : State) : Bool :=
  operating s && match s.power.state with | .awake _ => true | _ => false

/-- HSTAT.CMD_ROOM (R7). -/
def cmdRoom (s : State) : Bool :=
  s.host.assembler = .idle && s.sequencer.queue.length < 8 && !s.host.aborting && s.power.soft.isNone

/-- CMDFILL (R11). -/
def cmdFill (s : State) : Nat :=
  s.sequencer.queue.length + (if s.host.assembler = .idle then 0 else 1)

/-- The reserved count (R24). -/
def reservedCount (s : State) : Nat :=
  s.sequencer.deferred.length + (if s.sequencer.dispatched.isSome then 1 else 0)

/-- Response bytes remaining (R14). -/
def rspLeft (s : State) : Nat := s.rsp.bytes.length - s.rsp.index

/-- Free room in the Program Queue (R59). -/
def programRoom (s : State) : Nat := 8 - s.write.jobs.length

/-- The device is guarded (R128). -/
def guarded (s : State) : Bool := !s.guard.level

/-- A segment is locked (R124). -/
def locked (s : State) (seg : Nat) : Bool :=
  isUser seg && s.guard.mode = .active &&
  match s.guard.range with
  | none => true
  | some r => if r.invert then r.low ≤ seg && seg ≤ r.high else !(r.low ≤ seg && seg ≤ r.high)

/-- The available pool segments in pool order (R100). -/
def availableSegs (s : State) : List Nat := s.segments.pool.filter (fun g => !locked s g)

/-- No operation is in progress or pending and there is no relocation (R157, the entry condition's second part). -/
def engineClear (s : State) : Bool :=
  s.engine.op.isNone && s.engine.reloc.isNone && s.engine.request.isNone && s.catalogue.queue.isEmpty

/-! ### The registers of the window (Table 1-2) -/

/-- EVPEND: the latched bits, and CPL following the Completion Queue (R149). -/
def evpend (s : State) : Byte :=
  (s.events.latched &&& 0xFE) ||| (if s.cpl.records.isEmpty then 0 else 1)

/-- HSTAT (Table 1-3, R7). ARRAY_IDLE is the three conditions of R7 and R55, also while a catalogue or ledger program or
an allocation erase is held: there R139, by which it reads 0 while held work remains, says otherwise (DESIGN CHOICE,
log 51). -/
def hstat (s : State) : Byte :=
  BitVec.ofNat 8
    (bitOf (cmdRoom s) + 2 * bitOf (!s.cpl.records.isEmpty) + 4 * bitOf (rspLeft s ≠ 0) +
     8 * bitOf s.write.staging.isNone +
     16 * bitOf (s.write.jobs.isEmpty && s.engine.op.isNone && s.engine.reloc.isNone) +
     32 * bitOf s.engine.lastFail + 64 * bitOf s.engine.prevFail)

/-- HCTL as read (Table 1-4). -/
def hctl (s : State) : Byte := BitVec.ofNat 8 (bitOf s.host.aborting + 2 * bitOf s.power.soft.isSome)

/-- The EVCAUSE value of the pending, enabled event of highest priority (Table 10-1, R151). -/
def causeOf (a : Byte) : Nat :=
  if a.getLsbD 7 then 8 else if a.getLsbD 6 then 7 else if a.getLsbD 5 then 6 else if a.getLsbD 4 then 5
  else if a.getLsbD 2 then 3 else if a.getLsbD 3 then 4 else if a.getLsbD 1 then 2 else if a.getLsbD 0 then 1 else 0

def evcause (s : State) : Byte := BitVec.ofNat 8 (causeOf (evpend s &&& s.events.mask))

/-- IRQ_N is driven low (R151). -/
def irqAsserted (s : State) : Bool := windowLive s && (evpend s &&& s.events.mask) ≠ 0

/-- The code of READY and RESTRICTED in DEVSTATE (R6). -/
def awakeCode : Awake → Nat
  | .ready => 1
  | .restricted .catalogueLost => 2
  | .restricted .wornOut => 3

/-- DEVSTATE (R6). A DOZE is read after the wake an access begins with, so its code is that of the state it wakes
to. -/
def devstate (s : State) : Byte :=
  match s.power.state with
  | .mounting => 0
  | .awake a => BitVec.ofNat 8 (awakeCode a)
  | .doze => match s.power.remembered with | some a => BitVec.ofNat 8 (awakeCode a) | none => 0xFF
  | _ => 0xFF

/-- A stream is in FULL. -/
def isFull : StreamState → Bool
  | .full _ => true
  | _ => false

/-- The bits of a list, lowest first. -/
def bitsNat : List Bool → Nat
  | [] => 0
  | b :: bs => bitOf b + 2 * bitsNat bs

/-- SPACEMAP (R6). -/
def spacemap (s : State) : Byte := BitVec.ofNat 8 (bitsNat (s.streams.map (fun t => isFull t.state)))

/-- The byte a read of an offset returns (R3, Table 1-2): 0xFF while the window is dark (R19). -/
def hostRead (s : State) (off : BitVec 4) : Byte :=
  if windowLive s then
    match off.toNat with
    | 0x0 => 0x00
    | 0x1 => s.rsp.bytes.getD s.rsp.index 0x00
    | 0x2 => match s.cpl.records with | c :: _ => (completionBytes c).getD s.cpl.index 0x00 | [] => 0x00
    | 0x3 => hstat s
    | 0x4 => hctl s
    | 0x5 => evpend s
    | 0x6 => s.events.mask
    | 0x7 => evcause s
    | 0x8 => BitVec.ofNat 8 (cmdFill s)
    | 0x9 => BitVec.ofNat 8 s.cpl.records.length
    | 0xA => BitVec.ofNat 8 (rspLeft s)
    | 0xB => (s.host.rspHold >>> 8).setWidth 8
    | 0xC => s.host.herr
    | 0xD => s.host.flushCnt
    | 0xE => devstate s
    | _ => spacemap s
  else 0xFF

end Sys2Proof.Machine
end

