-- ==== Sys2Proof/Machine/Ops.lean ====
section
/-!
DEFINITION. The operations that every row is written in: events and notices (R149 to R153), posting of completions
(R32, R34), host errors (R4), the Stream Table, the Segment Map and the Free Pool (R98, R99), the Program Queue, the
Tail Frames and the jobs they emit (R76, R77), and the bookkeeping of program results (R60).
-/

namespace Sys2Proof

/-- A PROGRAM ended FAIL (R53). -/
def ProgramResult.failed : ProgramResult → Bool
  | .pass => false
  | .fail _ => true

/-- An ERASE ended FAIL (R54). -/
def EraseResult.failed : EraseResult → Bool
  | .pass => false
  | .fail _ => true

end Sys2Proof

namespace Sys2Proof.Machine

open Sys2Proof

/-- What a row answers. -/
abbrev Answer := Host.Outcome State Fault Refusal

/-! ### Events and notices -/

/-- The latched events of Table 10-1. -/
inductive Event where
  | room | wrap | alarm | space | guardHeld | hostError | media
  deriving DecidableEq, Repr

/-- The bit of each event in EVPEND (Table 10-1). -/
def Event.bit : Event → Byte
  | .room => 0x02
  | .wrap => 0x08
  | .alarm => 0x04
  | .space => 0x10
  | .guardHeld => 0x20
  | .hostError => 0x40
  | .media => 0x80

/-- An occurrence of an event sets its bit; under hold-clear it is discarded (R149). -/
def raise (e : Event) (s : State) : State :=
  if s.events.holdClear then s
  else { s with events := { s.events with latched := s.events.latched ||| e.bit } }

/-- A notice joins those of the event being taken, with its place in R152's order of kinds; under hold-clear none is
added. -/
def addNoticeAt (rank : Nat) (n : Notice) (s : State) : State :=
  if s.events.holdClear then s
  else { s with events := { s.events with fresh := s.events.fresh ++ [(rank, n)] } }

/-- A notice with the place of its own kind (R152). -/
def addNotice (n : Notice) (s : State) : State := addNoticeAt (noticeRank n.kind) n s

/-- Insert by key, after the entries of the same key: notices of one kind that different rules add in one event stay in
the order in which they were added (DESIGN CHOICE, log 67). -/
def insertByKey {α : Type} (k : Nat) (v : α) : List (Nat × α) → List (Nat × α)
  | [] => [(k, v)]
  | e :: t => if k < e.1 then (k, v) :: e :: t else e :: insertByKey k v t

/-- A list in order of its keys, the order of equal keys kept. -/
def orderByKey {α : Type} (l : List (Nat × α)) : List α :=
  (l.foldl (fun acc e => insertByKey e.1 e.2 acc) []).map (fun e => e.2)

/-- A counter byte that stops at 255. -/
def saturate (n : Nat) : Nat := if n ≤ 255 then n else 255

/-- One notice at the tail of the Notice List; a full list first drops its oldest, and the lost counter rises
(R152). -/
def joinNotice (e : EventUnit) (n : Notice) : EventUnit :=
  if e.notices.length < 8 then { e with notices := e.notices ++ [n] }
  else { e with notices := e.notices.drop 1 ++ [n], lost := saturate (e.lost + 1) }

/-- The notices of the event join the list in R152's order. -/
def flushNotices (s : State) : State :=
  { s with events := (orderByKey s.events.fresh).foldl joinNotice { s.events with fresh := [] } }

/-- The completions of the event join the Completion Queue in R32's order. -/
def flushCompletions (s : State) : State :=
  { s with cpl := { s.cpl with records := s.cpl.records ++ orderByKey s.cpl.fresh, fresh := [] } }

/-- The end of an internal event: what it posted and noticed is in place together. -/
def settle (s : State) : State := flushNotices (flushCompletions s)

/-! ### Host errors -/

/-- A host error code replaces the one in HERR and sets HOSTERR (R4). -/
def hostError (code : Byte) (s : State) : State :=
  raise .hostError { s with host := { s.host with herr := code } }

/-! ### Posting completions -/

/-- What a command completes with. -/
structure Outcome where
  result : Result
  durable : Bool := false
  response : Bool := false
  notEntered : Bool := false
  value : Nat := 0
  aux : Nat := 0
  deriving DecidableEq, Repr

/-- A completion is posted with its place in R32's order: the command's number plus one, or 0 for ABORTED, which R41
posts first. A PROTECTED outcome raises GUARD (R36, R128). -/
def postRecord (key : Nat) (c : Completion) (s : State) : State :=
  let s := { s with cpl := { s.cpl with fresh := s.cpl.fresh ++ [(key, c)] } }
  if c.result = .writeProtected then raise .guardHeld s else s

/-- The completion record of a command (R34, R35). -/
def completionOf (tag opcode : Byte) (detail : Nat) (late : Bool) (o : Outcome) : Completion :=
  { tag := tag, opcode := opcode, result := o.result, durable := o.durable, response := o.response,
    abortLate := late, notEntered := o.notEntered, detail := detail,
    value := BitVec.ofNat 32 o.value, aux := BitVec.ofNat 32 o.aux }

/-- The DISPATCHED command posts its completion and retires (R34). -/
def complete (d : Dispatched) (o : Outcome) (s : State) : State :=
  postRecord (if o.result = .aborted then 0 else d.id + 1)
    (completionOf d.tag d.opcode (cmdDetail d.cmd) d.abortLate o)
    { s with sequencer := { s.sequencer with dispatched := none } }

/-- The response is written whole and its completion posted with RESPONSE set, in one event (R38). -/
def respond (d : Dispatched) (o : Outcome) (bytes : List Byte) (s : State) : State :=
  complete d { o with response := true } { s with rsp := { bytes := bytes, index := 0 } }

/-- The DISPATCHED command goes on to this phase. -/
def setPhase (d : Dispatched) (p : Phase) (s : State) : State :=
  { s with sequencer := { s.sequencer with dispatched := some { d with phase := p } } }

/-- A command defers: it joins the tail of the deferred list and is no longer DISPATCHED (R30). -/
def defer (d : Dispatched) (k : DeferredKind) (s : State) : State :=
  { s with sequencer := { s.sequencer with
      dispatched := none
      deferred := s.sequencer.deferred ++
        [{ id := d.id, tag := d.tag, opcode := d.opcode, kind := k, abortLate := d.abortLate, spoiled := false }] } }

/-! ### The Stream Table -/

/-- The entry of a stream (R64). -/
def streamOf (s : State) (n : Nat) : Stream := s.streams.getD n Stream.blank

def setStream (n : Nat) (t : Stream) (s : State) : State := { s with streams := s.streams.set n t }

/-- A change of one stream's entry. -/
def updStream (n : Nat) (f : Stream → Stream) (s : State) : State := setStream n (f (streamOf s n)) s

/-- A stream holds a record (R87). -/
def holdsRecord (t : Stream) : Bool := 1 ≤ t.oldest && t.oldest ≤ t.newest

/-- Where the cursor stands when placed at the oldest (R94). -/
def cursorAtOldest (t : Stream) : Nat := if holdsRecord t then t.oldest else t.newest + 1

/-- A stream in FULL takes this reason; SPACE and STREAM_FULL follow when that is new (R79). A FAULTED stream stays
FAULTED (log 28). -/
def enterFull (n : Nat) (r : FullReason) (s : State) : State :=
  let t := streamOf s n
  if t.state = .full r ∨ t.state = .faulted then s
  else
    addNotice { kind := .streamFull, stream := n, segment := 0xFFFF, value := fullCode r, value2 := t.newest }
      (raise .space (setStream n { t with state := .full r } s))

/-! ### The Segment Map and the Free Pool -/

/-- An unlisted user segment: FREE_ERASED without marks. -/
def SegEntry.free : SegEntry :=
  { state := .freeErased, owner := none, generation := 0, isOpen := false, weak := false, failing := false,
    mountOnly := false }

/-- The Segment Map entry of a user segment (R98). -/
def segOf (s : State) (g : Nat) : SegEntry := storeGet (fun _ => SegEntry.free) s.segments.map g

def setSeg (g : Nat) (e : SegEntry) (s : State) : State :=
  { s with segments := { s.segments with map := storePut (fun _ => SegEntry.free) g e s.segments.map } }

def updSeg (g : Nat) (f : SegEntry → SegEntry) (s : State) : State := setSeg g (f (segOf s g)) s

/-- The write segment's chain entry: the newest, unless it is SEALED (R64) or was closed. R77 and R133 call a closed
entry no longer the write segment, also where no new segment followed it (an allocation that failed, a SEAL that
stopped), while R64 excepts a SEALED newest entry alone: the model follows R77 and R133 (DESIGN CHOICE, log 44). -/
def writeEntry (s : State) (t : Stream) : Option ChainEntry :=
  match t.chain.getLast? with
  | some e => if !e.isSealed && (segOf s e.segment).isOpen then some e else none
  | none => none

/-- The tail of a stream whose chain became this: NONE when it owns no segment (R76). -/
def tailOf (chain : List ChainEntry) (tail : Tail) : Tail := if chain.isEmpty then .none else tail

/-- A segment leaves the pool, the others keep their order (R99). -/
def leavePool (g : Nat) (s : State) : State :=
  { s with segments := { s.segments with pool := s.segments.pool.filter (fun x => x ≠ g) } }

/-- A segment joins the pool at its tail (R99). -/
def joinPool (g : Nat) (s : State) : State :=
  { s with segments := { s.segments with pool := s.segments.pool ++ [g] } }

/-- A segment is taken by allocation or as a relocation target (R101, R106). -/
def takeSegment (g : Nat) (s : State) : State := updSeg g (fun e => { e with state := .taken }) (leavePool g s)

/-- A segment is released to the pool tail as FREE_STALE (R103, R104). Its weak mark stays (R98). -/
def releaseSegment (g : Nat) (s : State) : State :=
  joinPool g (updSeg g (fun e => { SegEntry.free with state := .freeStale, weak := e.weak }) s)

/-- A user segment becomes RETIRED and leaves the pool if it is still a member (R102, R107, R108, R110). It is no longer
open, also where it was its stream's write segment and stays in the chain (DESIGN CHOICE, log 65). -/
def retireSegment (g : Nat) (s : State) : State :=
  leavePool g (updSeg g (fun e => { e with state := .retired, failing := false, isOpen := false }) s)

/-- The erase of a user segment has passed: the weak mark is gone (R98). -/
def clearWeak (g : Nat) (s : State) : State := updSeg g (fun e => { e with weak := false }) s

/-- The segment a job will be performed in: while a relocation waits for its catalogue version the jobs still named
for S count as jobs for T, to which they are retargeted at its end (R107, R109, log 27). -/
def aliasSegment (s : State) (g : Nat) : Nat :=
  match s.engine.reloc with
  | some r => if r.stage = .retiring ∧ g = r.segment then r.target else g
  | none => g

/-- The Program Queue holds a job targeting this segment. -/
def hasJobInto (s : State) (g : Nat) : Bool := s.write.jobs.any (fun j => aliasSegment s j.segment = g)

/-- The Program Queue holds a job of this stream. -/
def hasJobOf (s : State) (n : Nat) : Bool := s.write.jobs.any (fun j => j.stream = some n)

/-! ### Program results -/

/-- Every PROGRAM that ends shifts LASTFAIL into PREVFAIL (R60). -/
def noteProgram (failed : Bool) (s : State) : State :=
  { s with engine := { s.engine with prevFail := s.engine.lastFail, lastFail := failed } }

/-! ### Jobs and Tail Frames -/

/-- A job joins the tail of the Program Queue (R59, R76). -/
def emitJob (j : Job) (s : State) : State := { s with write := { s.write with jobs := s.write.jobs ++ [j] } }

/-- The sequences of the records that end in a job's range, in ascending order (R76). -/
def endedSeqs (p : TailPos) : List Nat := p.ends.map (fun e => e.2)

/-- The label a tail's job carries: only portion 0 has one (R48). -/
def tailLabel (stream incarnation generation : Nat) (p : TailPos) : Option Label :=
  if p.portions = 0 then
    some { kind := .data, stream := stream, frameIndex := p.frame, incarnation := incarnation,
           generation := generation, firstOffset := p.header.map (fun h => h.1),
           firstSeq := (p.header.map (fun h => h.2)).getD 0, checkGood := true }
  else none

/-- The job over a tail's unprogrammed range up to `hi`, its pending bytes followed by 0x00 (R76, R77). -/
def tailJob (stream incarnation generation : Nat) (p : TailPos) (kind : JobKind) (hi : Nat) (pad : Bool) : Job :=
  { kind := kind, stream := some stream, segment := p.segment, frame := p.frame, portion := p.portions,
    lo := p.unprog, hi := hi, image := fitBytes 0 (hi - p.unprog) (p.image.drop p.unprog), pad := pad,
    damaged := false, label := tailLabel stream incarnation generation p, seqs := endedSeqs p, released := [] }

/-- A tail at the start of a frame (R76). -/
def tailAt (segment frame : Nat) : TailPos :=
  { segment := segment, frame := frame, offset := 0, portions := 0, unprog := 0, image := [], header := none,
    ends := [] }

/-- The tail after its frame is completed: the next frame, or EXHAUSTED after frame 31 (R76). -/
def nextFrame (p : TailPos) : Tail := if p.frame < 31 then .pos (tailAt p.segment (p.frame + 1)) else .exhausted

/-- The job that carries a tail's pending bytes without a full frame, and the tail after it: a PORTION job, or as the
frame's fourth portion a FRAME job with PAD (R77). -/
def remainderJob (stream incarnation generation : Nat) (p : TailPos) : Job × Tail :=
  if p.portions < 3 then
    (tailJob stream incarnation generation p .portion p.offset false,
     .pos { p with portions := p.portions + 1, unprog := p.offset, ends := [] })
  else (tailJob stream incarnation generation p .frame 512 true, nextFrame p)

/-- The FRAME job with PAD that closes a write segment (R77). -/
def closingJob (stream incarnation generation : Nat) (p : TailPos) : Job :=
  tailJob stream incarnation generation p .frame 512 true

/-- The incarnation of a stream's definition. -/
def incarnationOf (t : Stream) : Nat := (t.defn.map (fun d => d.incarnation)).getD 0

/-- The generation of the newest chain entry; 0 for an empty chain. -/
def topGeneration (t : Stream) : Nat := (t.chain.getLast?.map (fun e => e.generation)).getD 0

/-- The tail of a stream is synced: its pending bytes become one job; nothing when it has none (R77, R81). -/
def syncTail (n : Nat) (s : State) : State :=
  let t := streamOf s n
  match t.tail with
  | .pos p =>
    if p.unprog < p.offset then
      let r := remainderJob n (incarnationOf t) (topGeneration t) p
      emitJob r.1 (setStream n { t with tail := r.2 } s)
    else s
  | _ => s

/-- Several tails are synced in the order given (R81). -/
def syncTails : List Nat → State → State
  | [], s => s
  | n :: ns, s => syncTails ns (syncTail n s)

/-- The streams whose tails hold pending bytes, ascending (R81). -/
def pendingStreams (s : State) : List Nat := (List.range 8).filter (fun n => 0 < pendingBytes (streamOf s n).tail)

/-- The tail filled with bytes up to the end of its frame (R76). `seq` is the sequence of the record whose last bytes
these are; it ends where the last of them lies. -/
def fillTail (seq : Nat) (bytes : List Byte) (p : TailPos) : TailPos :=
  let room := 512 - p.offset
  { p with
    offset := p.offset + (bytes.take room).length
    image := p.image ++ bytes.take room
    ends := if !bytes.isEmpty && bytes.length ≤ room then p.ends ++ [(p.offset + bytes.length, seq)] else p.ends }

/-- What one internal event does of the copying and emission of a record (R76, R77): the job it emits, the tail it
leaves, and the bytes still to be copied; `left` is none when the record is copied and nothing of it is to be emitted. -/
structure Stride where
  job : Option Job
  tail : Tail
  left : Option (List Byte)
  deriving DecidableEq, Repr

/-- All the record's bytes are in the tail: under EAGER its pending bytes become one more job (R77), in this event if it
is `free` to emit one. -/
def strideEnd (eager free : Bool) (stream incarnation generation : Nat) (p : TailPos) : Stride :=
  if eager ∧ p.unprog < p.offset then
    if free then
      let r := remainderJob stream incarnation generation p
      { job := some r.1, tail := r.2, left := none }
    else { job := none, tail := .pos p, left := some [] }
  else { job := none, tail := .pos p, left := none }

/-- Bytes are copied into a tail up to the end of its frame; a frame that is then full waits to be emitted, with the
bytes beyond it. -/
def strideFill (eager free : Bool) (stream incarnation generation seq : Nat) (bytes : List Byte) (p : TailPos) : Stride :=
  let q := fillTail seq bytes p
  if q.offset < 512 then strideEnd eager free stream incarnation generation q
  else { job := none, tail := .pos q, left := some (bytes.drop (512 - p.offset)) }

/-- The copying of bytes at a tail in one internal event, which begins in the event that assigns the sequence (R75).
Emission is one internal event per job (R76): where the event is `free` it emits the frame it fills and goes on in the
next one; a frame filled when it has emitted a job already is full until the next event emits it (log 15). -/
def stride (eager free : Bool) (stream incarnation generation seq : Nat) (bytes : List Byte) (p : TailPos) : Stride :=
  let q := fillTail seq bytes p
  if free ∧ 512 ≤ q.offset then
    let job := tailJob stream incarnation generation q .frame 512 false
    match nextFrame p with
    | .pos r =>
      { strideFill eager false stream incarnation generation seq (bytes.drop (512 - p.offset)) r with job := some job }
    | t => { job := some job, tail := t, left := none }
  else strideFill eager free stream incarnation generation seq bytes p

/-- A tail in which a record's header begins: it is the frame's lowest if there is none yet (R76). -/
def markHeader (seq : Nat) (p : TailPos) : TailPos := { p with header := p.header.or (some (p.offset, seq)) }

/-! ### Deferred commands -/

/-- A command waits on a job that names it (R60). -/
def stillNamed (s : State) (id : Nat) : Bool := s.write.jobs.any (fun j => j.released.contains id)

/-- What a deferred command completes with when its last job has finished or was discarded (R31, R78, R83, R136). -/
def deferredOutcome (s : State) (d : Deferred) : Outcome :=
  let result : Result := if d.spoiled then .medium else .done
  match d.kind with
  | .commit n seq =>
    { result := result, durable := !d.spoiled, value := seq, aux := (streamOf s n).durable }
  | .sync emitted => { result := result, durable := !d.spoiled, value := emitted }
  | .vaultWrite slot => { result := result, durable := !d.spoiled, value := slot }

/-- The stream parameter of a deferred command (R34). -/
def deferredDetail : DeferredKind → Nat
  | .commit n _ => n
  | .sync _ => 0
  | .vaultWrite _ => 0

/-- A deferred command posts. A COMMIT whose DONE assigns the last sequence puts its stream in FULL (R75, R79). -/
def postDeferred (d : Deferred) (s : State) : State :=
  let s' := postRecord (d.id + 1)
    (completionOf d.tag d.opcode (deferredDetail d.kind) d.abortLate (deferredOutcome s d)) s
  match d.kind with
  | .commit n seq => if !d.spoiled && seq = 4294967295 then enterFull n .sequenceEnd s' else s'
  | .sync _ => s'
  | .vaultWrite _ => s'

/-- Several deferred commands post in turn. -/
def postAll : List Deferred → State → State
  | [], s => s
  | d :: ds, s => postAll ds (postDeferred d s)

/-- Every deferred command that no job names any more posts and leaves the list (R31). -/
def releaseDeferred (s : State) : State :=
  let ready := s.sequencer.deferred.filter (fun d => !stillNamed s d.id)
  let kept := s.sequencer.deferred.filter (fun d => stillNamed s d.id)
  postAll ready { s with sequencer := { s.sequencer with deferred := kept } }

/-- Deferred commands named by these jobs learn that a job of theirs was discarded or, for a vault slot, failed. -/
def spoilNamed (jobs : List Job) (s : State) : State :=
  { s with sequencer := { s.sequencer with
      deferred := s.sequencer.deferred.map (fun d =>
        if jobs.any (fun j => j.released.contains d.id) then { d with spoiled := true } else d) } }

/-- A passed job's sequences advance its stream's durable-through (R80). -/
def advanceDurable (j : Job) (s : State) : State :=
  match j.stream with
  | some n => updStream n (fun t => { t with durable := j.seqs.foldl Nat.max t.durable }) s
  | none => s

/-! ### Faulting a stream (R110 without its step 1) -/

/-- The jobs and the tail of a stream are discarded and it enters FAULTED; `segment` and `cause` go into the FAULTED
notice (R110 steps 2 to 5, R125). -/
def faultStream (n segment cause : Nat) (s : State) : State :=
  let lost := s.write.jobs.filter (fun j => j.stream = some n)
  let kept := s.write.jobs.filter (fun j => j.stream ≠ some n)
  let s := spoilNamed lost { s with write := { s.write with jobs := kept } }
  let s := updStream n (fun t => { t with tail := .exhausted, state := .faulted }) s
  let s := addNotice { kind := .faulted, stream := n, segment := segment, value := cause, value2 := lost.length } s
  releaseDeferred (raise .media s)

/-! ### RESTRICTED and the retired list (R111, R113) -/

/-- READY or RESTRICTED as the device is, none in every other state. -/
def awakeOf (s : State) : Option Awake :=
  match s.power.state with
  | .awake a => some a
  | _ => none

/-- The device enters RESTRICTED with cause WORN_OUT; one that is there stays there (R113). -/
def enterWornOut (why : Nat) (s : State) : State :=
  if awakeOf s = some (.restricted .wornOut) then s
  else
    raise .media (addNotice
      { kind := .restricted, stream := 0xFF, segment := 0xFFFF, value := 2, value2 := why }
      { s with power := { s.power with state := .awake (.restricted .wornOut) } })

/-- A retirement is held for this mount only (R111). -/
def holdForMount (g : Nat) (s : State) : State := updSeg g (fun e => { e with mountOnly := true }) s

/-! ### Building and placing a catalogue version (R46) -/

/-- The definition a DELETE STREAM or a FORMAT leaves of a stream: archived when it holds a sealed segment or was
archived already (R68, R134). -/
def keptDefinition (t : Stream) : Option Definition :=
  match t.defn with
  | none => none
  | some d => if d.archived || t.chain.any (fun e => e.isSealed) then some { d with archived := true } else none

/-- The definitions a version holds (R46, R67, R68, R134). -/
def versionDefs (v : VersionFor) (generation : Nat) (s : State) : List (Option Definition) :=
  let now := s.streams.map (fun t => t.defn)
  match v with
  | .define n mode quota name =>
    now.set n (some { mode := mode, quota := quota, name := name, incarnation := generation, archived := false })
  | .delete n => now.set n (keptDefinition (streamOf s n))
  | .format => s.streams.map keptDefinition
  | .retire _ _ => now

/-- The generation of the next version: one above the last written, or by R135 in CATALOGUE_LOST. -/
def nextGeneration (s : State) : Nat :=
  if awakeOf s = some (.restricted .catalogueLost) then s.catalogue.dataIncarnation + 1
  else s.catalogue.generation + 1

/-- A version as it is built from the definitions and the retired list as they stand (R46). -/
def buildVersion (v : VersionFor) (s : State) : Version :=
  { generation := nextGeneration s, defs := versionDefs v (nextGeneration s) s, retired := s.catalogue.retired }

/-- Where a version is first placed, and the segment tried next if that fails (R46, R112, R135). -/
def startWork (v : VersionFor) (s : State) : CatWork :=
  let version := buildVersion v s
  let other := 1 - s.catalogue.active
  if awakeOf s = some (.restricted .catalogueLost) then
    { version := version, erasing := true, segment := 0, frame := 0, fallback := some 1 }
  else
    match s.catalogue.top with
    | none => { version := version, erasing := false, segment := s.catalogue.active, frame := 0, fallback := some other }
    | some t =>
      if t < 31 then
        { version := version, erasing := false, segment := s.catalogue.active, frame := t + 1, fallback := some other }
      else { version := version, erasing := true, segment := other, frame := 0, fallback := none }

/-- The version at the head of the writer's queue is built as its first operation is handed to the Array Engine, unless
it is under way already (R46). -/
def handVersion (s : State) : State :=
  { s with catalogue := { s.catalogue with
      work := s.catalogue.work.or (s.catalogue.queue.head?.map (fun v => startWork v s)) } }

/-- A catalogue version is requested of the catalogue writer (R46). -/
def requestVersion (v : VersionFor) (s : State) : State :=
  handVersion { s with catalogue := { s.catalogue with queue := s.catalogue.queue ++ [v] } }

/-- A segment joins the in-RAM retired list (R111). -/
def listRetired (g : Nat) (s : State) : State :=
  { s with catalogue := { s.catalogue with retired := s.catalogue.retired ++ [g] } }

/-- A retirement is recorded, by the device's state and the room in the list (R111). One found in CATALOGUE_LOST after
FORMAT's version was built joins the in-RAM list and no version is requested for it (DESIGN CHOICE, log 64). -/
def recordRetirement (g : Nat) (byRelocation : Bool) (s : State) : State :=
  match awakeOf s with
  | some .ready =>
    if s.catalogue.retired.length < 40 then requestVersion (.retire g byRelocation) (listRetired g s)
    else enterWornOut 1 (holdForMount g s)
  | some (.restricted .catalogueLost) =>
    if s.catalogue.retired.length < 40 then listRetired g s else holdForMount g s
  | some (.restricted .wornOut) => holdForMount g s
  | none => holdForMount g s

/-- An erase of a user segment has failed (R102): it is retired, with its notice of cause ERASE and MEDIA. -/
def retireErased (g : Nat) (byRelocation : Bool) (s : State) : State :=
  let s := recordRetirement g byRelocation (retireSegment g s)
  raise .media (addNotice { kind := .retired, stream := 0xFF, segment := g, value := 1, value2 := 0 } s)

end Sys2Proof.Machine
end

