-- ==== Sys2Proof/Machine/Relocation.lean ====
section
/-!
DEFINITION. Relocation (R105 to R110): its start, its targets, the programs it copies with, its completion with the
retargeting of jobs and tail, and its giving up.
-/

namespace Sys2Proof.Machine

open Sys2Proof

def setReloc (r : Option Reloc) (s : State) : State := { s with engine := { s.engine with reloc := r } }

/-- The label fields as a READ returned them, the label check as read (R107, R115). -/
def labelAsRead : LabelRead → Option Label
  | .erased => none
  | .valid l => some l
  | .failing l => l

/-- A portion that relocation must copy with DAMAGED (R107). -/
def portionSpoilt (p : PortionRead) : Bool := p.grade = .broken || p.damaged

/-- The copy of a frame of S below f into the target (R107). -/
def frameCopy (target frame : Nat) (f : FrameRead) : Program :=
  match f.portions.getLast? with
  | none =>
    { segment := target, frame := frame, portion := 0, lo := 0, hi := 512, bytes := zeros 512, damaged := true,
      pad := true, label := labelAsRead f.label }
  | some last =>
    { segment := target, frame := frame, portion := 0, lo := 0, hi := last.hi, bytes := portionsBytes f.portions,
      damaged := f.portions.any portionSpoilt, pad := last.pad, label := labelAsRead f.label }

/-- The merged program of frame f (R107): the bytes read of S below the failed job's range, those of its portions 0 to
k−1 after correction and any other as read (R52), followed by the failed job's image. When k is 0 nothing is read and the
label is the job's. A portion below k that does not read programmed has no class (R116); the copy counts it as BROKEN and
carries DAMAGED (DESIGN CHOICE, log 57). -/
def mergedCopy (target : Nat) (j : Job) (f : Option FrameRead) : Program :=
  match f with
  | none =>
    { segment := target, frame := j.frame, portion := 0, lo := 0, hi := j.hi, bytes := j.image, damaged := false,
      pad := j.pad, label := j.label }
  | some f =>
    let kept := f.portions.take j.portion
    { segment := target, frame := j.frame, portion := 0, lo := 0, hi := j.hi,
      bytes := f.bytes.take j.lo ++ j.image,
      damaged := kept.any portionSpoilt || kept.length < j.portion, pad := j.pad, label := labelAsRead f.label }

/-- The step with which frame `i` of S is copied: a READ, but for frame f when it holds no earlier portion (R107). -/
def copyStage (s : State) (r : Reloc) (i : Nat) : RelocStage :=
  if i < r.frame ∨ 0 < r.portion then .readFrame i
  else
    match s.write.jobs with
    | j :: _ => .copyFrame i (mergedCopy r.target j none)
    | [] => .readFrame i

/-- Relocation cannot succeed (R110): S is RETIRED and stays in the chain, and the stream is faulted. -/
def giveUp (r : Reloc) (s : State) : State :=
  let s := retireSegment r.segment s
  let s := updStream r.stream
    (fun t => { t with chain := t.chain.map (fun e => if e.segment = r.segment then { e with isRetired := true } else e) }) s
  faultStream r.stream r.segment 1 (setReloc none (recordRetirement r.segment true s))

/-- Relocation takes its next target, or gives up when it has tried two or none is available (R106). -/
def takeTarget (r : Reloc) (s : State) : State :=
  if 2 ≤ r.tried then giveUp r s
  else
    match availableSegs s with
    | [] => giveUp r s
    | g :: _ =>
      let next := { r with target := g, tried := r.tried + 1, damagedFrames := 0 }
      let stage := if (segOf s g).state = .freeStale then RelocStage.eraseTarget else copyStage s next 0
      setReloc (some { next with stage := stage }) (takeSegment g s)

/-- A failed job into a user segment begins a relocation (R105). -/
def startRelocation (j : Job) (s : State) : State :=
  takeTarget
    { segment := j.segment, frame := j.frame, portion := j.portion, stream := j.stream.getD 0xFF, target := 0,
      tried := 0, stage := .eraseTarget, damagedFrames := 0 }
    (updSeg j.segment (fun e => { e with failing := true }) s)

/-- Jobs aimed at S are retargeted to T; those for frame f are renumbered from `k` (R109). -/
def retargetJobs (r : Reloc) : Nat → List Job → List Job
  | _, [] => []
  | k, j :: js =>
    if j.segment = r.segment then
      if j.frame = r.frame then { j with segment := r.target, portion := k, label := none } :: retargetJobs r (k + 1) js
      else { j with segment := r.target } :: retargetJobs r k js
    else j :: retargetJobs r k js

/-- The stream's tail is retargeted; in frame f its portion count follows the jobs `js` (R109). -/
def retargetTail (r : Reloc) (js : List Job) : Tail → Tail
  | .pos p =>
    if p.segment = r.segment then
      .pos { p with segment := r.target
                    portions := if p.frame = r.frame then
                        1 + (js.filter (fun j => j.segment = r.segment && j.frame = r.frame)).length
                      else p.portions }
    else .pos p
  | t => t

/-- Steps 3 to 7 of R107: the failed job counts as passed, jobs and tail are retargeted, the notices are added and the
Program Queue resumes. -/
def finishRelocation (r : Reloc) (s : State) : State :=
  match s.write.jobs with
  | [] => setReloc none s
  | j :: js =>
    let s := advanceDurable j { s with write := { s.write with jobs := retargetJobs r 1 js } }
    let s := updStream r.stream (fun t => { t with tail := retargetTail r js t.tail }) s
    let s := releaseDeferred (setReloc none s)
    let s := addNotice { kind := .retired, stream := r.stream, segment := r.segment, value := 2, value2 := 0 } s
    let s := addNotice
      { kind := .relocated, stream := r.stream, segment := r.segment, value := r.target, value2 := r.damagedFrames } s
    raise .media s

/-- The last copy has passed (R107 steps 1 and 2): T takes S's place in the chain, S is RETIRED and its retirement is
recorded; the rest follows when the catalogue version is written, or at once when none will be. -/
def completeCopy (r : Reloc) (s : State) : State :=
  let old := segOf s r.segment
  let s := updSeg r.target (fun e => { e with state := .owned, owner := some r.stream, generation := old.generation,
                                              isOpen := old.isOpen }) s
  let s := updStream r.stream
    (fun t => { t with chain := t.chain.map (fun e => if e.segment = r.segment then { e with segment := r.target } else e) }) s
  let s := updSeg r.segment (fun e => { e with owner := none, generation := 0 }) (retireSegment r.segment s)
  let s := recordRetirement r.segment true s
  if s.catalogue.queue.contains (.retire r.segment true) then setReloc (some { r with stage := .retiring }) s
  else finishRelocation r s

/-- A program into the target has failed (R108): the target is retired and another is taken. -/
def abandonTarget (r : Reloc) (s : State) : State :=
  let s := recordRetirement r.target true (retireSegment r.target s)
  let s := addNotice { kind := .retired, stream := r.stream, segment := r.target, value := 2, value2 := 0 } s
  takeTarget r (raise .media s)

/-- The target's erase has passed or its segment was erased already: the copy begins at frame 0 (R106, R107). -/
def beginCopy (r : Reloc) (s : State) : State :=
  setReloc (some { r with stage := copyStage s r 0 }) (clearWeak r.target s)

/-- The target's erase has failed (R102, R106). -/
def targetEraseFailed (r : Reloc) (s : State) : State := takeTarget r (retireErased r.target true s)

/-- A READ of S has ended: the copy program of that frame is the next step (R107). -/
def copyAfterRead (r : Reloc) (i : Nat) (f : FrameRead) (s : State) : State :=
  let p :=
    if i < r.frame then frameCopy r.target i f
    else
      match s.write.jobs with
      | j :: _ => mergedCopy r.target j (some f)
      | [] => frameCopy r.target i f
  setReloc (some { r with stage := .copyFrame i p }) s

/-- A copy program has passed: the next frame, or the completion after frame f (R107). -/
def copyPassed (r : Reloc) (i : Nat) (p : Program) (s : State) : State :=
  let r := { r with damagedFrames := r.damagedFrames + bitOf p.damaged }
  if i < r.frame then setReloc (some { r with stage := copyStage s r (i + 1) }) s else completeCopy r s

end Sys2Proof.Machine
end

