-- ==== Sys2Proof/Machine/Catalogue.lean ====
section
/-!
DEFINITION. The catalogue writer (R46, R112, R135): the operations of a version, what follows when it is written
(DEFINE STREAM, DELETE STREAM, FORMAT, a retirement), and the catalogue lost for writing.
-/

namespace Sys2Proof.Machine

open Sys2Proof

/-! ### The operations of a version -/

/-- The label of a system frame (R48). -/
def systemLabel (kind : FrameKind) (frame : Nat) : Label :=
  { kind := kind, stream := 0xFF, frameIndex := frame, incarnation := 0, generation := 0, firstOffset := none,
    firstSeq := 0, checkGood := true }

/-- A whole system frame as one portion (R45). -/
def systemProgram (kind : FrameKind) (segment frame : Nat) (bytes : List Byte) : Program :=
  { segment := segment, frame := frame, portion := 0, lo := 0, hi := 512, bytes := bytes, damaged := false,
    pad := false, label := some (systemLabel kind frame) }

/-- The operation a version stands at. -/
def workOp (w : CatWork) : Op :=
  if w.erasing then .erase w.segment
  else .program (systemProgram .catalogue w.segment w.frame (versionBytes w.version))

/-! ### Leaving streams (R68, R104, R134) -/

/-- The entries of a chain that a DELETE STREAM or a FORMAT releases, oldest first (R104). -/
def releasable (t : Stream) : List ChainEntry := t.chain.filter (fun e => !e.isSealed && !e.isRetired)

/-- Segments are released one after another. -/
def releaseAll : List ChainEntry → State → State
  | [], s => s
  | e :: es, s => releaseAll es (releaseSegment e.segment s)

/-- RETIRED entries leave a chain and stay RETIRED, owned by no stream (R68, Table 8-1). -/
def dropRetired : List ChainEntry → State → State
  | [], s => s
  | e :: es, s => dropRetired es (updSeg e.segment (fun g => { g with owner := none, generation := 0 }) s)

/-- A stream's entry after it was deleted or formatted away: UNDEFINED, or ARCHIVED with its sealed segments alone
(R68, R87, R94). -/
def leftStream (t : Stream) : Stream :=
  match keptDefinition t with
  | none => Stream.blank
  | some d =>
    let kept := t.chain.filter (fun e => e.isSealed)
    let newest := (kept.getLast?.map (fun e => e.last)).getD 0
    let a : Stream :=
      { defn := some d, state := .archived, chain := kept, oldest := (kept.head?.map (fun e => e.first)).getD 0,
        newest := newest, durable := newest, cursor := 0, resumed := t.resumed, tail := .none }
    { a with cursor := cursorAtOldest a }

/-- A stream gives up its unsealed segments and becomes UNDEFINED or ARCHIVED (R68 steps 5 to 7). -/
def leaveStream (n : Nat) (s : State) : State :=
  let t := streamOf s n
  setStream n (leftStream t) (dropRetired (t.chain.filter (fun e => e.isRetired)) (releaseAll (releasable t) s))

/-- Streams in ascending order (R104). -/
def leaveStreams : List Nat → State → State
  | [], s => s
  | n :: ns, s => leaveStreams ns (leaveStream n s)

/-- The Staging Buffer is emptied of a stream's record (R68). -/
def unstage (n : Nat) (s : State) : State :=
  match s.write.staging with
  | some g => if g.stream = n then { s with write := { s.write with staging := none } } else s
  | none => s

/-! ### A version written or given up -/

/-- The DISPATCHED command completes with what its version came to. -/
def completeDispatched (o : Outcome) (s : State) : State :=
  match s.sequencer.dispatched with
  | some d => complete d o s
  | none => s

/-- A stream as DEFINE STREAM leaves it (R67). -/
def definedStream (mode : Mode) (quota : Nat) (name : List Byte) (incarnation : Nat) : Stream :=
  { Stream.blank with
    defn := some { mode := mode, quota := quota, name := name, incarnation := incarnation, archived := false }
    state := .opened
    cursor := 1 }

/-- How many segments these streams release. -/
def releaseCount (ts : List Stream) : Nat := (ts.map (fun t => (releasable t).length)).sum

/-- FORMAT's one sequence (R134 step 5). In CATALOGUE_LOST the device enters READY (R135). -/
def formatted (s : State) : State :=
  let s := leaveStreams (List.range 8) { s with write := { s.write with staging := none } }
  if awakeOf s = some (.restricted .catalogueLost) then { s with power := { s.power with state := .awake .ready } } else s

/-- What follows when a version is written (R67, R68, R107, R134, R135). -/
def versionWritten (v : VersionFor) (version : Version) (s : State) : State :=
  match v with
  | .define n mode quota name =>
    completeDispatched { result := .done, value := version.generation }
      (setStream n (definedStream mode quota name version.generation) s)
  | .delete n =>
    let released := (releasable (streamOf s n)).length
    let archived := (keptDefinition (streamOf s n)).isSome
    completeDispatched { result := .done, value := released, aux := bitOf archived } (leaveStream n (unstage n s))
  | .format =>
    let released := releaseCount s.streams
    let s := formatted s
    completeDispatched
      { result := .done, value := released, aux := (s.streams.filter (fun t => t.state = .archived)).length } s
  | .retire g byRelocation =>
    match s.engine.reloc with
    | some r => if byRelocation ∧ r.stage = .retiring ∧ r.segment = g then finishRelocation r s else s
    | none => s

/-- What follows when a version is given up: MEDIUM for a command, a retirement for this mount only (R112). -/
def versionGivenUp (v : VersionFor) (s : State) : State :=
  match v with
  | .define _ _ _ _ => completeDispatched { result := .medium } s
  | .delete _ => completeDispatched { result := .medium } s
  | .format => completeDispatched { result := .medium } s
  | .retire g byRelocation =>
    let s := holdForMount g { s with catalogue := { s.catalogue with retired := s.catalogue.retired.filter (fun x => x ≠ g) } }
    match s.engine.reloc with
    | some r => if byRelocation ∧ r.stage = .retiring ∧ r.segment = g then finishRelocation r s else s
    | none => s

def giveUpVersions : List VersionFor → State → State
  | [], s => s
  | v :: vs, s => giveUpVersions vs (versionGivenUp v s)

/-- The catalogue is lost for writing (R112): WORN_OUT, and every version requested is given up (log 30). -/
def loseCatalogue (s : State) : State :=
  let vs := s.catalogue.queue
  giveUpVersions vs (enterWornOut 2 { s with catalogue := { s.catalogue with queue := [], work := none } })

/-- A program or an erase of the version being written has failed (R112, R135). -/
def workFailed (w : CatWork) (s : State) : State :=
  match w.fallback with
  | some g =>
    { s with catalogue := { s.catalogue with
        work := some { w with erasing := true, segment := g, frame := 0, fallback := none } } }
  | none => loseCatalogue s

/-- The erase of a catalogue segment has ended (R46, R112). -/
def catalogueErased (w : CatWork) (r : EraseResult) (s : State) : State :=
  match r with
  | .pass => { s with catalogue := { s.catalogue with work := some { w with erasing := false } } }
  | .fail _ => workFailed w s

/-- The program of a version has ended (R46, R112). A failed frame of the active segment counts as programmed. -/
def catalogueProgrammed (w : CatWork) (r : ProgramResult) (s : State) : State :=
  match r with
  | .pass =>
    let c := s.catalogue
    let v := c.queue.head?
    let s := { s with catalogue := { c with
      active := w.segment, top := some w.frame, generation := w.version.generation, queue := c.queue.drop 1,
      work := none } }
    match v with
    | some v => handVersion (versionWritten v w.version s)
    | none => s
  | .fail _ =>
    workFailed w
      { s with catalogue := { s.catalogue with
          top := if w.segment = s.catalogue.active then some w.frame else s.catalogue.top } }

end Sys2Proof.Machine
end

