-- ==== Sys2Proof/Machine/Commit.lean ====
section
/-!
DEFINITION. COMMIT (Figure 4-1, R73 to R79) with allocation and reclaim (R101, R103): its judgement, its count of
program jobs, its commit point, and the placing of the record.
-/

namespace Sys2Proof.Machine

open Sys2Proof

/-! ### Steps 1 to 6 -/

/-- What step 4 decides (R73). -/
inductive Placement where
  | inPlace
  | newSegment (reclaim : Bool)
  | full (r : FullReason)
  deriving DecidableEq, Repr

/-- What steps 1 to 5 decide. -/
inductive Judgement where
  | refuse (r : Result)
  | full (r : FullReason)
  | place (p : Placement)
  deriving DecidableEq, Repr

/-- The payload a COMMIT places: the staged bytes, or none for a marker (R73). -/
def stagedPayload (s : State) : List Byte := (s.write.staging.map (fun g => g.bytes)).getD []

/-- The space left in a write segment (R73). -/
def spaceLeft (t : Stream) : Nat :=
  match t.tail with
  | .pos p => (512 - p.offset) + 512 * (31 - p.frame)
  | _ => 0

/-- The reclaim candidate of a RING stream (R74). -/
def reclaimCandidate (s : State) (t : Stream) : Option ChainEntry :=
  match t.chain with
  | [] => none
  | e :: _ =>
    let relocating :=
      match s.engine.reloc with
      | some r => e.segment = r.segment || e.segment = r.target
      | none => false
    if !e.isSealed && writeEntry s t ≠ some e && !hasJobInto s e.segment && !relocating then some e else none

/-- The pool would be allocatable after the candidate's release (R74). -/
def allocatableAfter (s : State) (e : ChainEntry) : Bool :=
  3 ≤ (availableSegs s).length + (if locked s e.segment then 0 else 1)

/-- A reclaim candidate exists and its release makes the pool allocatable. -/
def canReclaim (s : State) (t : Stream) : Bool :=
  match reclaimCandidate s t with
  | some e => allocatableAfter s e
  | none => false

/-- Table 4-4: placement when a new segment is needed. -/
def newPlacement (s : State) (t : Stream) (d : Definition) : Placement :=
  if d.quota ≤ ownedCount t then
    match d.mode with
    | .linear => .full .quota
    | .ring =>
      if (t.chain.head?.map (fun e => e.isSealed)).getD false then .full .sealedHead
      else if t.chain.head? = writeEntry s t then .full .quota
      else if canReclaim s t then .newSegment true
      else .full .noSpace
  else if 3 ≤ (availableSegs s).length then .newSegment false
  else if d.mode = .ring ∧ 2 ≤ ownedCount t ∧ canReclaim s t then .newSegment true
  else .full .noSpace

/-- Steps 1 to 5 of Figure 4-1 (R73, R75). -/
def judgeCommit (s : State) (n : Nat) : Judgement :=
  let t := streamOf s n
  match t.defn with
  | none => .refuse .noStream
  | some d =>
    if t.state = .archived ∨ t.state = .faulted then .refuse .refusedState
    else if s.write.staging.any (fun g => g.stream ≠ n) then .refuse .stageBusy
    else if guarded s then .refuse .writeProtected
    else if t.newest = 4294967295 then .full .sequenceEnd
    else
      let lockedWrite := (writeEntry s t).any (fun e => locked s e.segment)
      if 16 + (stagedPayload s).length ≤ spaceLeft t then
        if lockedWrite then .refuse .writeProtected else .place .inPlace
      else
        match newPlacement s t d with
        | .full r => .full r
        | p => if lockedWrite && 0 < pendingBytes t.tail then .refuse .writeProtected else .place p

/-- The byte offset at which the record's header will stand. -/
def startOffset (t : Stream) : Placement → Nat
  | .inPlace => match t.tail with | .pos p => p.offset | _ => 0
  | _ => 0

/-- The program jobs a COMMIT will emit (R75 step 6): the closing pad, the frames completed, the eager remainder. -/
def commitJobs (s : State) (n : Nat) (eager : Bool) (p : Placement) : Nat :=
  let t := streamOf s n
  let stop := startOffset t p + 16 + (stagedPayload s).length
  (if p ≠ .inPlace ∧ 0 < pendingBytes t.tail then 1 else 0) + stop / 512 +
    (if eager ∧ stop % 512 ≠ 0 then 1 else 0)

/-! ### Steps 7 to 11 -/

/-- The record's header with the time as it stands (R75, R146, R84). -/
def buildHeader (s : State) (n seq : Nat) (attr : Byte) : List Byte :=
  recordHeader (stagedPayload s).length attr s.time.epoch seq s.time.counter (!s.time.valid) (streamOf s n).resumed n

/-- The job that holds the new sequence names the COMMIT (R78). -/
def nameCommit (eager : Bool) (id seq : Nat) (j : Job) : Job :=
  if eager ∧ j.seqs.contains seq then { j with released := [id] } else j

/-- The stream's state once its record is placed: FULL returns to OPEN unless the last sequence was assigned (R75). -/
def stateAfterPlacing (seq : Nat) (x : StreamState) : StreamState :=
  if isFull x ∧ seq ≠ 4294967295 then .opened else x

/-- Steps 10 and 11 (R75, R78): the record is copied, the Staging Buffer becomes EMPTY, and the COMMIT posts under LAZY
or defers under EAGER. -/
def finishCommit (d : Dispatched) (n seq : Nat) (s : State) : State :=
  let s := updStream n (fun t => { t with state := stateAfterPlacing seq t.state })
    { s with write := { s.write with staging := none } }
  if d.eager then defer d (.commit n seq) s
  else
    let s := complete d { result := .done, value := seq, aux := (streamOf s n).durable } s
    if seq = 4294967295 then enterFull n .sequenceEnd s else s

/-- The stream was FAULTED, and its tail discarded, between two jobs of the record (R110): what is left of the record is
dropped. Under EAGER the COMMIT posts MEDIUM, as R78 says of a job discarded so; under LAZY it completes as if its bytes
had been lost after it (DESIGN CHOICE, log 45). -/
def placingLost (d : Dispatched) (n seq : Nat) (s : State) : State :=
  if d.eager then
    complete d { result := .medium, value := seq, aux := (streamOf s n).durable }
      { s with write := { s.write with staging := none } }
  else finishCommit d n seq s

/-- One internal event of steps 8 to 11 (R76): bytes are copied and a job is emitted; the COMMIT goes on in the next
event when more is to be emitted. -/
def copyRecord (d : Dispatched) (n seq : Nat) (free : Bool) (bytes : List Byte) (s : State) : State :=
  let t := streamOf s n
  match t.tail with
  | .pos p =>
    let x := stride d.eager free n (incarnationOf t) (topGeneration t) seq bytes p
    let s := setStream n { t with tail := x.tail } s
    let s := { s with write := { s.write with
      jobs := s.write.jobs ++ (x.job.map (nameCommit d.eager d.id seq)).toList } }
    match x.left with
    | some rest => setPhase d (.placing seq rest) s
    | none => finishCommit d n seq s
  | _ => placingLost d n seq s

/-- Steps 7.4 to 11 (R75 to R78): the sequence is assigned, the header built, and the record copied into the tail. -/
def assignAndPlace (d : Dispatched) (n : Nat) (attr : Byte) (free : Bool) (s : State) : State :=
  let t := streamOf s n
  let seq := t.newest + 1
  match t.tail with
  | .pos p =>
    copyRecord d n seq free (buildHeader s n seq attr ++ stagedPayload s)
      (setStream n { t with newest := seq, resumed := false, tail := .pos (markHeader seq p) } s)
  | _ => s

/-- A chain whose newest entry now holds the given last sequence. -/
def setLast (seq : Nat) : List ChainEntry → List ChainEntry
  | [] => []
  | [e] => [{ e with last := seq }]
  | e :: es => e :: setLast seq es

/-- The record goes into the write segment as it stands. -/
def placeInWriteSegment (d : Dispatched) (n : Nat) (attr : Byte) (s : State) : State :=
  assignAndPlace d n attr true (updStream n (fun t => { t with chain := setLast (t.newest + 1) t.chain }) s)

/-- A taken segment becomes the stream's new write segment (R101 step 3) and takes the record. -/
def placeInNewSegment (d : Dispatched) (n : Nat) (attr : Byte) (generation g : Nat) (free : Bool) (s : State) : State :=
  let t := streamOf s n
  let seq := t.newest + 1
  let s := updSeg g (fun e => { e with state := .owned, owner := some n, generation := generation, isOpen := true }) s
  let s := setStream n
    { t with
      chain := t.chain ++ [{ segment := g, generation := generation, first := seq, last := seq, isSealed := false,
                             isRetired := false }]
      oldest := if t.chain.isEmpty then seq else t.oldest
      tail := .pos (tailAt g 0) } s
  assignAndPlace d n attr free s

/-- No available segment is left for an allocation past its commit point (R75, R101 step 5): the record stays
staged. -/
def allocationFailed (d : Dispatched) (n : Nat) (s : State) : State :=
  let s := { s with write := { s.write with staging := s.write.staging.map (fun g => { g with owned := false }) } }
  let s := complete d { result := .medium, value := 0, aux := (streamOf s n).durable } s
  enterFull n .noSpace s

/-- Allocation takes the first available segment in pool order and erases it if it is stale (R101). `free`: the event
has emitted no job. -/
def allocate (d : Dispatched) (n : Nat) (attr : Byte) (generation : Nat) (free : Bool) (s : State) : State :=
  match availableSegs s with
  | [] => allocationFailed d n s
  | g :: _ =>
    if (segOf s g).state = .freeStale then
      setPhase d (.allocating g generation)
        (let s := takeSegment g s
         { s with engine := { s.engine with request := some { who := .sequencer, op := .erase g } } })
    else placeInNewSegment d n attr generation g free (takeSegment g s)

/-- The write segment is left for a new one (R77): a closing pad for its pending bytes, then it is closed. -/
def closeWriteSegment (n : Nat) (s : State) : State :=
  let t := streamOf s n
  let s :=
    match writeEntry s t with
    | some e => updSeg e.segment (fun g => { g with isOpen := false }) s
    | none => s
  match t.tail with
  | .pos p =>
    let s := setStream n { t with tail := .exhausted } s
    if p.unprog < p.offset then emitJob (closingJob n (incarnationOf t) (topGeneration t) p) s else s
  | _ => s

/-- The oldest chain entry is reclaimed (R103). -/
def reclaimOldest (n : Nat) (s : State) : State :=
  let t := streamOf s n
  match t.chain with
  | [] => s
  | e :: rest =>
    let oldest := (rest.head?.map (fun x => x.first)).getD 0
    let s := releaseSegment e.segment
      (setStream n { t with chain := rest, oldest := oldest, tail := tailOf rest t.tail } s)
    raise .space (addNotice
      { kind := .reclaimed, stream := n, segment := e.segment, value := e.last, value2 := oldest } s)

/-- The generation of a stream's next segment (R101, R133): one above its newest chain entry's before this COMMIT, 1
where it owns no segment (log 44). -/
def newGeneration (t : Stream) : Nat := topGeneration t + 1

/-- Step 7 (R75): from here the staged record is owned and the stream is the last-commit stream. -/
def commitPoint (d : Dispatched) (n : Nat) (attr : Byte) (p : Placement) (s : State) : State :=
  let s := { s with
    write := { s.write with staging := s.write.staging.map (fun g => { g with owned := true }) }
    power := { s.power with lastCommit := some n } }
  let t := streamOf s n
  match p with
  | .newSegment reclaim =>
    let s := closeWriteSegment n s
    allocate d n attr (newGeneration t) (pendingBytes t.tail = 0) (if reclaim then reclaimOldest n s else s)
  | _ => placeInWriteSegment d n attr s

/-- COMMIT from its step 1, at dispatch and again after a wait for room (R73 to R79). -/
def runCommit (d : Dispatched) (n : Nat) (attr : Byte) (s : State) : State :=
  match judgeCommit s n with
  | .refuse r => complete d { result := r } s
  | .full r =>
    enterFull n r (complete d { result := .full, value := fullCode r, aux := (streamOf s n).durable } s)
  | .place p =>
    let need := commitJobs s n d.eager p
    if programRoom s < need then setPhase d (.waitRoom need) s else commitPoint d n attr p s

/-- The erase of an allocated segment has ended (R101 steps 3 and 4). A COMMIT is past its commit point here, and places
its record also where its stream became FAULTED while the erase was pending: such a stream's tail may then hold pending
bytes, which R81 says it never does (DESIGN CHOICE, log 45). -/
def allocationErased (d : Dispatched) (n : Nat) (attr : Byte) (generation g : Nat) (failed : Bool) (s : State) :
    State :=
  if failed then allocate d n attr generation true (retireErased g false s)
  else placeInNewSegment d n attr generation g true (clearWeak g s)

end Sys2Proof.Machine
end

