-- ==== Sys2Proof/Machine/Reading.lean ====
section
/-!
DEFINITION. Reading records (R86 to R97): the current view of a frame, the walk over record headers, a lookup with its
array READs, the record image, and the outcomes of READ RECORD and READ NEXT. The walk also serves mount (R166).
-/

namespace Sys2Proof.Machine

open Sys2Proof

/-! ### Views (R86) -/

/-- What a lookup needs of a frame's medium portions: whether DAMAGED counts as BROKEN (R91; not for mount). -/
def stretchGrade (countDamaged : Bool) (p : PortionRead) : Grade :=
  if countDamaged && p.damaged then .broken else p.grade

/-- The parts of a medium portion outside the range a job image covers. -/
def outside (countDamaged : Bool) (jlo jhi : Nat) (p : PortionRead) : List Stretch :=
  let g := stretchGrade countDamaged p
  (if p.lo < min p.hi jlo then [{ lo := p.lo, hi := min p.hi jlo, grade := g }] else []) ++
  (if max p.lo jhi < p.hi then [{ lo := max p.lo jhi, hi := p.hi, grade := g }] else [])

/-- A label's start point (R86). -/
def labelStart (l : Label) : Option (Nat × Nat) := l.firstOffset.map (fun o => (o, l.firstSeq))

/-- The start point a label read from the medium supplies: only a valid one does (R86, R118). -/
def mediumStart : LabelRead → Option (Nat × Nat)
  | .valid l => labelStart l
  | _ => none

/-- A frame of the medium alone. -/
def mediumView (countDamaged : Bool) (f : FrameRead) : View :=
  { bytes := portionsBytes f.portions
    start := mediumStart f.label
    lastPad := (f.portions.getLast?.map (fun p => p.pad)).getD false
    stretches := f.portions.map (fun p => { lo := p.lo, hi := p.hi, grade := stretchGrade countDamaged p }) }

/-- Bytes laid over a list from offset `lo`; a gap between is filled with 0xFF (log 17). -/
def overlay (base : List Byte) (lo : Nat) (image : List Byte) : List Byte :=
  fitBytes 0xFF lo base ++ image ++ base.drop (lo + image.length)

/-- A gap below the first job image counts as BROKEN (log 17). -/
def gapStretch (stop jlo : Nat) : List Stretch :=
  if stop < jlo then [{ lo := stop, hi := jlo, grade := .broken }] else []

/-- Queued job images over the medium (R86 points 2 and 3). -/
def jobsView (base : View) (portions : List PortionRead) (jobs : List Job) : View :=
  match jobs with
  | [] => base
  | j :: _ =>
    let jlo := j.lo
    let jhi := (jobs.getLast?.map (fun x => x.hi)).getD j.hi
    let stop := base.bytes.length
    let bytes := jobs.foldl (fun b x => overlay b x.lo x.image) base.bytes
    let label := (jobs.find? (fun x => x.portion = 0)).bind (fun x => x.label)
    { bytes := bytes
      start := (label.bind labelStart).or base.start
      lastPad := if jhi = bytes.length then (jobs.getLast?.map (fun x => x.pad)).getD false else base.lastPad
      stretches := portions.flatMap (outside true jlo jhi) ++ gapStretch stop jlo }

/-- A frame nothing was read of: no content. -/
def emptyRead : FrameRead :=
  { label := .erased, portions := [], entryZero := false, implausible := false, grade := .clean, bytes := [] }

/-- The view of the frame in which the tail stands: all its bytes are in the tail image (R76, R86). -/
def tailView (p : TailPos) : View := { bytes := p.image, start := p.header, lastPad := false, stretches := [] }

/-- The captured jobs of a lookup for one frame. -/
def jobsAt (l : Lookup) (frame : Nat) : List Job := l.jobs.filter (fun j => j.frame = frame)

/-- The current view of a frame from what the lookup captured and what was read (R86). -/
def composeView (l : Lookup) (frame : Nat) (f : FrameRead) : View :=
  let base := jobsView (mediumView true f) f.portions (jobsAt l frame)
  match l.tail with
  | some p => if p.frame = frame then { tailView p with start := p.header.or base.start } else base
  | none => base

/-- A frame whose view needs no array READ: the tail's frame, and one whose queued portion 0 carries it from offset
0. -/
def needsNoRead (l : Lookup) (frame : Nat) : Bool :=
  l.tail.any (fun p => p.frame = frame) || (jobsAt l frame).any (fun j => j.portion = 0)

/-! ### The walk (R89, R90) -/

/-- A stretch of bytes gathered from one frame. -/
structure Piece where
  frame : Nat
  lo : Nat
  hi : Nat
  deriving DecidableEq, Repr

/-- Bytes gathered from a position on. -/
structure Gathered where
  bytes : List Byte
  pieces : List Piece
  frame : Nat
  offset : Nat
  deriving DecidableEq, Repr

/-- The view of a frame, if it was gathered. -/
def viewOf (vs : List (Nat × View)) (frame : Nat) : Option View := (vs.find? (fun e => e.1 = frame)).map (fun e => e.2)

/-- `n` bytes from an offset of a frame, carried into the next frame wherever a view ends at 512 (R89); none where
they run past a view that ends below 512 or into a frame without content. -/
def gather (vs : List (Nat × View)) : Nat → Nat → Nat → Nat → Option Gathered
  | 0, _, _, _ => none
  | fuel + 1, frame, offset, n =>
    match viewOf vs frame with
    | none => none
    | some v =>
      let here := v.bytes.length - offset
      if n ≤ here then
        some { bytes := (v.bytes.drop offset).take n,
               pieces := if n = 0 then [] else [{ frame := frame, lo := offset, hi := offset + n }],
               frame := frame, offset := offset + n }
      else if v.bytes.length = 512 then
        match gather vs fuel (frame + 1) 0 (n - here) with
        | none => none
        | some g =>
          some { g with bytes := v.bytes.drop offset ++ g.bytes
                        pieces := (if here = 0 then [] else [{ frame := frame, lo := offset, hi := 512 }]) ++ g.pieces }
      else none

/-- A header a walk found valid: its place, its sequence, and its record if all its bytes are in the views. -/
structure Hit where
  frame : Nat
  offset : Nat
  seq : Nat
  record : Option Gathered
  deriving DecidableEq, Repr

/-- How a walk ended: past the last record, or at a break in a frame (R90). -/
inductive WalkEnd where
  | ended
  | broke (frame : Nat)
  deriving DecidableEq, Repr

/-- Sixteen 0x00 bytes at an offset. -/
def sixteenZeros (v : View) (offset : Nat) : Bool :=
  let h := (v.bytes.drop offset).take 16
  h.length = 16 && h.all (fun b => b = 0)

/-- The records of a frame end at this offset of its view (R89). -/
def recordsEnd (v : View) (offset : Nat) : Bool :=
  v.bytes.length ≤ offset || (v.lastPad && (sixteenZeros v offset || 512 < offset + 16))

/-- The walk over record headers from a position with an expected sequence (R89, R90). A break at a record that began in
one frame and runs out in a later one counts as in the frame of its header: R90 names no frame for it (DESIGN CHOICE,
log 47). -/
def walk (vs : List (Nat × View)) (stream : Nat) : Nat → Nat → Nat → Nat → List Hit × WalkEnd
  | 0, _, _, _ => ([], .ended)
  | fuel + 1, frame, offset, expected =>
    match viewOf vs frame with
    | none => ([], .ended)
    | some v =>
      if v.bytes.isEmpty then ([], .ended)
      else if recordsEnd v offset then walk vs stream fuel (frame + 1) 0 expected
      else
        match gather vs 34 frame offset 16 with
        | none => ([], .broke frame)
        | some h =>
          if headerValid stream expected h.bytes then
            match gather vs 34 frame offset (16 + headerLength h.bytes) with
            | none => ([{ frame := frame, offset := offset, seq := expected, record := none }], .broke frame)
            | some g =>
              let rest := walk vs stream fuel g.frame g.offset (expected + 1)
              ({ frame := frame, offset := offset, seq := expected, record := some g } :: rest.1, rest.2)
          else ([], .broke frame)

/-- More steps than a segment has records and frames (R44: 16384 bytes, 16 a header). -/
def walkFuel : Nat := 1100

/-- The lowest frame from `frame` on, of those left to try, whose start point has a sequence above `last` (R90). -/
def nextStart (vs : List (Nat × View)) (last : Nat) : Nat → Nat → Option (Nat × Nat × Nat)
  | 0, _ => none
  | fuel + 1, frame =>
    match (viewOf vs frame).bind (fun v => v.start) with
    | some (o, q) => if last < q then some (frame, o, q) else nextStart vs last fuel (frame + 1)
    | none => nextStart vs last fuel (frame + 1)

/-- The record with sequence `seq` by walks from start points, resumed after a break where R90 allows. Where a walk found
no valid header, the last valid sequence is taken as the one below the sequence expected (DESIGN CHOICE, log 47). -/
def findRecord (vs : List (Nat × View)) (stream seq : Nat) : Nat → Nat → Nat → Nat → Option Gathered
  | 0, _, _, _ => none
  | fuel + 1, frame, offset, expected =>
    let w := walk vs stream walkFuel frame offset expected
    match w.1.find? (fun h => h.seq = seq && h.record.isSome) with
    | some h => h.record
    | none =>
      match w.2 with
      | .ended => none
      | .broke at_ =>
        let last := (w.1.getLast?.map (fun h => h.seq)).getD (expected - 1)
        match nextStart vs last 32 (at_ + 1) with
        | some (f, o, q) => if q ≤ seq then findRecord vs stream seq fuel f o q else none
        | none => none

/-! ### The class of a record (R91) -/

/-- The worst class of the medium stretches that a piece overlaps. -/
def pieceGrade (vs : List (Nat × View)) (p : Piece) : Grade :=
  match viewOf vs p.frame with
  | none => .clean
  | some v => v.stretches.foldl (fun g x => if x.lo < p.hi ∧ p.lo < x.hi then worse g x.grade else g) .clean

/-- A record's integrity class (R91). -/
def recordGrade (vs : List (Nat × View)) (g : Gathered) : Grade :=
  g.pieces.foldl (fun c p => worse c (pieceGrade vs p)) .clean

/-! ### Outcomes of a lookup -/

/-- A record that was found: MAJOR sets the weak mark once, BROKEN is DAMAGED (R91); the image is that of R92. -/
def deliver (d : Dispatched) (l : Lookup) (g : Gathered) (grade : Grade) (s : State) : State :=
  let aux := match d.cmd with | .readRecord _ _ => gradeCode grade | _ => 0
  match grade with
  | .broken =>
    let s := raise .media (addNotice
      { kind := .damaged, stream := l.stream, segment := l.segment, value := l.seq, value2 := 0 } s)
    respond d { result := .damaged, value := l.seq, aux := aux }
      (if s.options.damagedReads = 0 then g.bytes else g.bytes.take 16) s
  | _ =>
    let s :=
      if grade = .major ∧ (segOf s l.segment).weak = false then
        raise .media (addNotice { kind := .weak, stream := l.stream, segment := l.segment, value := l.seq, value2 := 0 }
          (updSeg l.segment (fun e => { e with weak := true }) s))
      else s
    if l.skip = 0 then respond d { result := .done, value := l.seq, aux := aux } g.bytes s
    else respond d { result := .skipped, value := l.seq, aux := l.skip } g.bytes s

/-- A lookup whose views are gathered, or that found no start point (Figure 5-1 steps 3 to 6). -/
def concludeLookup (d : Dispatched) (l : Lookup) (start : Option (Nat × Nat × Nat)) (s : State) : State :=
  let found := start.bind (fun (f, o, q) => findRecord l.views l.stream l.seq 33 f o q)
  match found with
  | some g => deliver d l g (recordGrade l.views g) s
  | none => complete d { result := .lost, value := l.seq } s

/-- Frames are examined from the highest down until one has a start point at or below the sequence sought (R89); a
frame that needs an array READ requests it (log 16). `left` frames remain, the next is number `left` less one. -/
def searchFrames (d : Dispatched) (l : Lookup) : Nat → State → State
  | 0, s => concludeLookup d l none s
  | left + 1, s =>
    if needsNoRead l left then
      let v := composeView l left emptyRead
      let l := { l with views := (left, v) :: l.views }
      match v.start with
      | some (o, q) => if q ≤ l.seq then concludeLookup d l (some (left, o, q)) s else searchFrames d l left s
      | none => searchFrames d l left s
    else
      setPhase d (.lookup { l with frame := left })
        { s with engine := { s.engine with
            request := some { who := .sequencer, op := .read l.segment left 0 512 } } }

/-- A lookup's array READ has ended (R52, R89). -/
def lookupRead (d : Dispatched) (l : Lookup) (f : FrameRead) (s : State) : State :=
  let v := composeView l l.frame f
  let l := { l with views := (l.frame, v) :: l.views }
  match v.start with
  | some (o, q) => if q ≤ l.seq then concludeLookup d l (some (l.frame, o, q)) s else searchFrames d l l.frame s
  | none => searchFrames d l l.frame s

/-- Steps 2 and 3 of Figure 5-1: the chain entry, and what the lookup captures as it begins (R86, R88). -/
def startLookup (d : Dispatched) (n seq skip : Nat) (s : State) : State :=
  let t := streamOf s n
  match t.chain.find? (fun e => e.first ≤ seq && seq ≤ e.last) with
  | none => complete d { result := .lost, value := seq } s
  | some e =>
    let tail := match t.tail with
      | .pos p => if aliasSegment s p.segment = e.segment then some p else none
      | _ => none
    let l : Lookup :=
      { stream := n, seq := seq, skip := skip, segment := e.segment, tail := tail,
        jobs := s.write.jobs.filter (fun j => j.stream = some n && aliasSegment s j.segment = e.segment),
        frame := 0, views := [] }
    searchFrames d l ((tail.map (fun p => p.frame + 1)).getD 32) s

/-- READ RECORD past its wait (R93). -/
def runReadRecord (d : Dispatched) (n seq : Nat) (s : State) : State :=
  let t := streamOf s n
  if t.defn.isNone then complete d { result := .noStream } s
  else if holdsRecord t && seq < t.oldest then complete d { result := .gone } s
  else if !holdsRecord t || t.newest < seq then complete d { result := .notYet } s
  else startLookup d n seq 0 s

/-- READ NEXT past its wait (R96). The cursor advances in the event in which the lookup begins: R96 names no event for
it, and no command can see the cursor while the lookup's READs run (DESIGN CHOICE, log 46). -/
def runReadNext (d : Dispatched) (n : Nat) (s : State) : State :=
  let t := streamOf s n
  if t.defn.isNone then complete d { result := .noStream } s
  else if t.cursor = 0 || t.newest < t.cursor || !holdsRecord t then complete d { result := .notYet } s
  else
    let seq := if t.cursor < t.oldest then t.oldest else t.cursor
    let skip := t.oldest - t.cursor
    startLookup d n seq skip
      (setStream n { t with cursor := if seq = 4294967295 then 0 else seq + 1 } s)

/-- SEEK (R95). -/
def runSeek (d : Dispatched) (n origin seq : Nat) (s : State) : State :=
  let t := streamOf s n
  let place (c : Nat) : State := complete d { result := .done, value := c } (setStream n { t with cursor := c } s)
  if t.defn.isNone then complete d { result := .noStream } s
  else if origin = 0 then place (cursorAtOldest t)
  else if origin = 1 then place (if holdsRecord t then t.newest else t.newest + 1)
  else if holdsRecord t && seq < t.oldest then complete d { result := .gone } s
  else if !holdsRecord t || t.newest < seq then complete d { result := .notYet } s
  else place seq

end Sys2Proof.Machine
end

