-- ==== Sys2Proof/Machine/Protection.lean ====
section
/-!
DEFINITION. The barriers (R81 to R83) and the commands of chapter 8: the lock commands (R126), SEAL and the ledger
(R132, R133), FORMAT (R134), the vault (R136 to R138), SEGMENT STATUS (R127); with DELETE STREAM's and SYNC's part of
the barriers, DESCRIBE and IDENTIFY (R122, R123), and the judgement of DOZE and HALT (R157, R159).
-/

namespace Sys2Proof.Machine

open Sys2Proof

/-! ### Ledger programs (R131, R133, R138) -/

/-- A ledger frame is handed to the Array Engine at the next unused ledger frame (R47). -/
def requestLedger (content : LedgerFrame) (s : State) : State :=
  { s with engine := { s.engine with
      request := some { who := .ledger
                        op := .program (systemProgram .ledger 2 s.vault.used (ledgerBytes content)) } } }

/-- Groups of 31 in order, the last holding the remainder (R133). -/
def groupsOf : Nat → List SealEntry → List (List SealEntry)
  | 0, _ => []
  | fuel + 1, es => if es.isEmpty then [] else es.take 31 :: groupsOf fuel (es.drop 31)

/-- The set to seal (R132 step 4), in ascending generation. -/
def sealSet (n seq : Nat) (t : Stream) : List SealEntry :=
  (t.chain.filter (fun e => !e.isSealed && !e.isRetired && e.first ≤ seq)).map
    (fun e => { segment := e.segment, stream := n, incarnation := incarnationOf t, generation := e.generation })

/-- The write segment is closed when it is in the set: the tail becomes EXHAUSTED (R133). -/
def closeForSeal (n : Nat) (set : List SealEntry) (s : State) : State :=
  let t := streamOf s n
  match writeEntry s t with
  | some e =>
    if set.any (fun x => x.segment = e.segment) then
      setStream n { t with tail := .exhausted } (updSeg e.segment (fun g => { g with isOpen := false }) s)
    else s
  | none => s

/-- SEAL after its barrier (R132 steps 3 and 4, R133). -/
def sealAfterBarrier (d : Dispatched) (n seq : Nat) (s : State) : State :=
  let t := streamOf s n
  let set := sealSet n seq t
  if t.state = .faulted then complete d { result := .refusedState } s
  else if guarded s then complete d { result := .writeProtected } s
  else if set.isEmpty then complete d { result := .done } s
  else if 32 - s.vault.used < (set.length + 30) / 31 then complete d { result := .ledgerFull } s
  else
    let groups := groupsOf set.length set
    requestLedger (.seals (groups.headD []))
      (setPhase d (.sealing groups 0 set.length) (closeForSeal n set s))

/-- The chain entries of a passed group are marked SEALED (R133). -/
def markSealed (group : List SealEntry) (t : Stream) : Stream :=
  { t with chain := t.chain.map (fun e => if group.any (fun x => x.segment = e.segment) then { e with isSealed := true } else e) }

/-- Segments become SEALED in the Segment Map (R133). -/
def sealSegments : List SealEntry → State → State
  | [], s => s
  | x :: xs, s => sealSegments xs (updSeg x.segment (fun g => { g with state := .segSealed, isOpen := false }) s)

/-- A ledger frame now counts as used (R47), of the 32 there are (R131). -/
def useLedgerFrame (s : State) : State := { s with vault := { s.vault with used := min 32 (s.vault.used + 1) } }

/-- A seal-form ledger frame's program has ended (R133). Where no unused frame is left for the same group or for the next
one the command stops (a next group without a frame: DEDUCED, log 53). -/
def sealProgrammed (d : Dispatched) (n : Nat) (groups : List (List SealEntry)) (programmed total : Nat) (failed : Bool)
    (s : State) : State :=
  let s := useLedgerFrame s
  if failed then
    if s.vault.used < 32 then
      requestLedger (.seals (groups.headD [])) (setPhase d (.sealing groups (programmed + 1) total) s)
    else complete d { result := .medium } s
  else
    let group := groups.headD []
    let s := updStream n (markSealed group) (sealSegments group s)
    let s := { s with vault := { s.vault with sealedSet := s.vault.sealedSet ++ group.map (fun x => x.segment) } }
    match groups.drop 1 with
    | [] => complete d { result := .done, value := total, aux := programmed + 1 } s
    | next :: rest =>
      if s.vault.used < 32 then
        requestLedger (.seals next) (setPhase d (.sealing (next :: rest) (programmed + 1) total) s)
      else complete d { result := .medium } s

/-- VAULT CLOSE (R138). -/
def runVaultClose (d : Dispatched) (s : State) : State :=
  if s.vault.closed then complete d { result := .closed } s
  else if guarded s then complete d { result := .writeProtected } s
  else if 32 ≤ s.vault.used then complete d { result := .ledgerFull } s
  else requestLedger .closing (setPhase d .closing s)

/-- The vault-closing ledger frame's program has ended (R138). -/
def closingProgrammed (d : Dispatched) (failed : Bool) (s : State) : State :=
  let frame := s.vault.used
  let s := useLedgerFrame s
  if failed then
    if s.vault.used < 32 then requestLedger .closing (setPhase d .closing s) else complete d { result := .medium } s
  else complete d { result := .done, value := frame } { s with vault := { s.vault with closed := true } }

/-- A ledger program has ended, for the command that is DISPATCHED (R133, R138). -/
def ledgerProgrammed (failed : Bool) (s : State) : State :=
  match s.sequencer.dispatched with
  | none => s
  | some d =>
    match d.phase, d.cmd with
    | .sealing groups programmed n, .sealStream stream _ => sealProgrammed d stream groups programmed n failed s
    | .closing, _ => closingProgrammed d failed s
    | _, _ => s

/-! ### The locks -/

/-- The update of the lock state at the commit point of a lock command (R126 step 4). -/
def lockUpdate (c : Cmd) (g : GuardUnit) : GuardUnit :=
  match c with
  | .lockAll => { g with range := none }
  | .unlockRange low high invert => { g with range := some { low := low, high := high, invert := invert = 1 } }
  | .freezeLocks => { g with frozen := true }
  | _ => g

/-- The completion of a lock command (Table 2-6). -/
def lockOutcome : Cmd → Outcome
  | .unlockRange low high invert => { result := .done, value := low + 65536 * high, aux := invert }
  | _ => { result := .done }

/-! ### DOZE and HALT -/

/-- The entry condition (R157): CMDFILL is 0 and the engine is idle with nothing in hand. -/
def entryCondition (s : State) : Bool := cmdFill s = 0 && engineClear s

/-- DOZE and HALT at their commit point (R157, R159). -/
def judgeEntry (d : Dispatched) (e : Entry) (s : State) : State :=
  if entryCondition s then
    complete d { result := .done } { s with power := { s.power with entryDue := some e } }
  else complete d { result := .done, notEntered := true } s

/-! ### Barriers (R81, R82) -/

/-- A barrier's ending condition (Table 4-5). -/
def barrierMet (c : Cmd) (s : State) : Bool :=
  match c with
  | .deleteStream n => !hasJobOf s n
  | .sealStream n _ => !hasJobOf s n
  | _ => s.write.jobs.isEmpty

/-- What a command does when its barrier has ended. A DELETE STREAM or a FORMAT whose barrier ends when the catalogue is
lost for writing (R112) requests its version all the same, and that version is tried anew: the spec does not say (DESIGN
CHOICE, log 48). -/
def afterBarrier (d : Dispatched) (s : State) : State :=
  match d.cmd with
  | .deleteStream n =>
    if guarded s then complete d { result := .writeProtected } s
    else requestVersion (.delete n) (setPhase d .version s)
  | .sealStream n seq => sealAfterBarrier d n seq s
  | .format =>
    if guarded s then complete d { result := .writeProtected } s
    else requestVersion .format (setPhase d .version s)
  | .doze => judgeEntry d .doze s
  | .halt => judgeEntry d .halt s
  | c => complete d (lockOutcome c) { s with guard := lockUpdate c s.guard }

/-- A barrier that drains (R82): wait, or go on when its condition holds already. -/
def drainBarrier (d : Dispatched) (s : State) : State :=
  if barrierMet d.cmd s then afterBarrier d s else setPhase d .waitBarrier s

/-- The tails in the scope of a syncing barrier (R81, Table 4-5). -/
def barrierScope (c : Cmd) (s : State) : List Nat :=
  match c with
  | .sealStream n _ => (pendingStreams s).filter (fun x => x = n)
  | _ => pendingStreams s

/-- A barrier that syncs tails (R81): room for its jobs, the jobs, then the drain. -/
def syncBarrier (d : Dispatched) (s : State) : State :=
  let ns := barrierScope d.cmd s
  if programRoom s < ns.length then setPhase d (.waitRoom ns.length) s else drainBarrier d (syncTails ns s)

/-- Every job in the queue names this command (R83). -/
def nameAll (id : Nat) (s : State) : State :=
  { s with write := { s.write with jobs := s.write.jobs.map (fun j => { j with released := j.released ++ [id] }) } }

/-- SYNC (R83). -/
def runSync (d : Dispatched) (s : State) : State :=
  let ns := pendingStreams s
  if programRoom s < ns.length then setPhase d (.waitRoom ns.length) s
  else
    let s := syncTails ns s
    if s.write.jobs.isEmpty then complete d { result := .done, durable := true } s
    else defer d (.sync ns.length) (nameAll d.id s)

/-! ### The vault -/

/-- One above the highest number of a list, or 0 when it is empty. -/
def oneAbove (l : List Nat) : Nat := l.foldl (fun m x => max m (x + 1)) 0

/-- The slots whose job is queued. -/
def queuedSlots (s : State) : List Nat := (s.write.jobs.filter (fun j => j.segment = 3)).map (fun j => j.frame)

/-- The next slot (R136). -/
def nextSlot (s : State) : Nat := oneAbove (s.vault.written ++ queuedSlots s)

/-- The job of a vault slot (R136 step 5). -/
def vaultJob (slot id : Nat) (data : List Byte) : Job :=
  { kind := .frame, stream := none, segment := 3, frame := slot, portion := 0, lo := 0, hi := 512,
    image := fitBytes 0xFF 512 data, pad := false, damaged := false, label := some (systemLabel .vault slot), seqs := [],
    released := [id] }

/-- VAULT WRITE, at dispatch and again after a wait for room (R136). -/
def runVaultWrite (d : Dispatched) (slot : Nat) (data : List Byte) (s : State) : State :=
  if s.vault.closed then complete d { result := .closed } s
  else if slot ≠ nextSlot s then complete d { result := .order } s
  else if guarded s then complete d { result := .writeProtected } s
  else if programRoom s < 1 then setPhase d (.waitRoom 1) s
  else defer d (.vaultWrite slot) (emitJob (vaultJob slot d.id data) s)

/-- The notice of a DAMAGED system read, and MEDIA (R119, R137). -/
def systemDamaged (segment value : Nat) (s : State) : State :=
  raise .media (addNotice { kind := .damaged, stream := 0xFF, segment := segment, value := value, value2 := 0 } s)

/-- A READ requested by the Sequencer (R55). -/
def requestRead (segment frame lo hi : Nat) (s : State) : State :=
  { s with engine := { s.engine with request := some { who := .sequencer, op := .read segment frame lo hi } } }

/-- VAULT READ past its wait (R137). -/
def runVaultRead (d : Dispatched) (slot : Nat) (s : State) : State :=
  match s.write.jobs.find? (fun j => j.segment = 3 && j.frame = slot) with
  | some j => respond d { result := .done, value := 512, aux := slot } j.image s
  | none =>
    if s.vault.written.contains slot then setPhase d .slotRead (requestRead 3 slot 0 512 s)
    else respond d { result := .blank, value := 512, aux := slot } (List.replicate 512 0xFF) s

/-- A vault slot's READ has ended (R137, R121). The bytes of a slot that only its label makes BROKEN, and of one with a
failed mark that does not read BROKEN, are those the READ returned, corrected (DESIGN CHOICE, log 58). -/
def slotReadEnd (d : Dispatched) (slot : Nat) (f : FrameRead) (s : State) : State :=
  if s.vault.failed.contains slot || slotGrade f = .broken then
    respond d { result := .damaged, value := 512, aux := slot } f.bytes (systemDamaged 3 slot s)
  else respond d { result := .done, value := 512, aux := slot } f.bytes s

/-! ### DESCRIBE and IDENTIFY -/

/-- A descriptor copy passes (R123). -/
def copyPasses (f : FrameRead) : Bool := labelKindIs .factory f && f.entryZero && firstGrade f.portions ≠ .broken

/-- A descriptor copy's READ has ended (R123, R174). Where no copy passes the response is what the READ of copy 0
returned, so that its bytes are corrected where only its label fails: "as read" may mean that or the bytes without
correction (DESIGN CHOICE, log 58). -/
def copyReadEnd (d : Dispatched) (copy : Nat) (first : List Byte) (f : FrameRead) (s : State) : State :=
  let first := if copy = 0 then f.bytes else first
  if copyPasses f then respond d { result := .done, value := 40, aux := copy } f.bytes s
  else if copy < 2 then setPhase d (.copies (copy + 1) first) (requestRead 4 (copy + 1) 0 40 s)
  else respond d { result := .damaged, value := 40, aux := 3 } first (systemDamaged 4 0x62 s)

/-- Identity copy `n` passes: each of its sixteen bytes is the complement of the byte 16 places after it (R122). -/
def identityPasses (bytes : List Byte) (n : Nat) : Bool :=
  (List.range 16).all (fun i => bytes.getD (32 * n + i) 0 = ~~~ bytes.getD (32 * n + 16 + i) 0)

/-- The identity record (Table 12-2). -/
def identityRecord (bytes : List Byte) (copy index : Nat) : List Byte :=
  fitBytes 0 16 (bytes.drop (32 * copy)) ++ leBytes 1 index ++ zeros 3

/-- The identity frame's READ has ended (R122, R173). -/
def identityReadEnd (d : Dispatched) (bytes : List Byte) (s : State) : State :=
  match (List.range 8).find? (identityPasses bytes) with
  | some n => respond d { result := .done, value := 20, aux := n } (identityRecord bytes n n) s
  | none => respond d { result := .damaged, value := 20, aux := 8 } (identityRecord bytes 0 8) (systemDamaged 4 0x63 s)

/-! ### SEGMENT STATUS -/

/-- A segment's position in the Free Pool, counting from 1; 0 when it is no member (Table 8-1). -/
def poolPosition (s : State) (g : Nat) : Nat :=
  if s.segments.pool.contains g then s.segments.pool.findIdx (fun x => x = g) + 1 else 0

/-- The segment status record is written (R127). -/
def writeSegmentStatus (d : Dispatched) (g count : Nat) (s : State) : State :=
  respond d { result := .done, value := 12, aux := g }
    (segmentStatusBytes g (segOf s g) (locked s g) count (poolPosition s g)) s

/-- SEGMENT STATUS past its wait (R127). R127 gives the READ of a frame's margin no byte range, where R52 wants one of 1
to 512 bytes: it is of the whole frame (DESIGN CHOICE, log 59). -/
def runSegmentStatus (d : Dispatched) (g : Nat) (s : State) : State :=
  if g = 4 then writeSegmentStatus d g 4 s
  else if isUser g && (segOf s g).state = .freeErased then writeSegmentStatus d g 0 s
  else setPhase d (.counting 0) (requestRead g 0 0 512 s)

/-- A margin read of SEGMENT STATUS has ended (R127); the next one is of the whole frame as well (DESIGN CHOICE, log
59). -/
def countingReadEnd (d : Dispatched) (g frame : Nat) (f : FrameRead) (s : State) : State :=
  if frameErased f then writeSegmentStatus d g frame s
  else if frame < 31 then setPhase d (.counting (frame + 1)) (requestRead g (frame + 1) 0 512 s)
  else writeSegmentStatus d g 32 s

/-! ### READ NOTICES -/

/-- READ NOTICES past its wait (R154). A notice added in the same internal event, before it or after it, is not in the
response and stays for the next READ NOTICES (DESIGN CHOICE, log 66). -/
def runReadNotices (d : Dispatched) (s : State) : State :=
  let bytes := noticeListBytes s.events.lost s.events.notices
  respond d { result := .done, value := bytes.length } bytes
    { s with events := { s.events with notices := [], lost := 0 } }

/-- QUERY STREAM past its wait (R70). -/
def runQueryStream (d : Dispatched) (n : Nat) (s : State) : State :=
  let staged := s.write.staging.bind (fun g => if g.stream = n then some g.bytes.length else none)
  respond d { result := .done, value := 48 } (streamStatus n (streamOf s n) staged) s

/-! ### The wait for the Response Buffer (R37) -/

/-- A response-producing command at its commit point: the buffer is empty. -/
def runResponding (d : Dispatched) (s : State) : State :=
  match d.cmd with
  | .queryStream n => runQueryStream d n s
  | .readRecord n seq => runReadRecord d n seq s
  | .readNext n => runReadNext d n s
  | .segmentStatus g => runSegmentStatus d g s
  | .vaultRead slot => runVaultRead d slot s
  | .describe => setPhase d (.copies 0 []) (requestRead 4 0 0 40 s)
  | .identify => setPhase d .identity (requestRead 4 3 0 256 s)
  | .readNotices => runReadNotices d s
  | _ => s

/-- A response-producing command at dispatch: it waits unless the buffer is empty (R37). -/
def awaitBuffer (d : Dispatched) (s : State) : State :=
  if s.rsp.bytes.isEmpty then runResponding d s else setPhase d .waitResponse s

/-- An array READ of the DISPATCHED command has ended (R52). -/
def sequencerRead (seg frame lo hi : Nat) (noise : ReadNoise) (s : State) : State :=
  let f := readFrame s.medium seg frame lo hi noise
  match s.sequencer.dispatched with
  | none => s
  | some d =>
    match d.phase, d.cmd with
    | .lookup l, _ => lookupRead d l f s
    | .counting k, .segmentStatus g => countingReadEnd d g k f s
    | .slotRead, .vaultRead slot => slotReadEnd d slot f s
    | .copies copy first, _ => copyReadEnd d copy first f s
    | .identity, _ => identityReadEnd d f.bytes s
    | _, _ => s

end Sys2Proof.Machine
end

