-- ==== Sys2Proof/Machine/Engine.lean ====
section
/-!
DEFINITION. The Array Engine's choice of work (Figure 3-1, R56 to R58) with the holds of the write guard (R128) and
jobs failed by a lock (R125); and what was due for an internal event before its own body (R39, R76, R157, R159, R170,
R171).
-/

namespace Sys2Proof.Machine

open Sys2Proof

/-! ### Candidates in the order of Figure 3-1 -/

/-- A candidate for the engine's next work: what it would start, and for a write what a GUARD_HOLD notice says of it
(R128, Table 10-3): the kind of write, the stream, the segment. -/
structure WorkItem where
  request : Request
  hold : Option (Nat × Nat × Nat)
  deriving DecidableEq, Repr

/-- The segment an operation works on. -/
def opSegment : Op → Nat
  | .read g _ _ _ => g
  | .program p => p.segment
  | .erase g => g

/-- An operation writes the medium (R57). -/
def opWrites : Op → Bool
  | .read _ _ _ _ => false
  | .program _ => true
  | .erase _ => true

/-- A candidate for an operation. -/
def candidate (who : Requester) (op : Op) (kind stream : Nat) : WorkItem :=
  { request := { who := who, op := op },
    hold := if opWrites op then some (kind, stream, opSegment op) else none }

/-- The head version's operation when its requests rank as `mine` says (R111). GUARD_HOLD tells a relocation step, an
erase and a program apart (log 31). -/
def catalogueCandidate (mine : VersionFor → Bool) (kind : Op → Nat) (stream : Nat) (s : State) : List WorkItem :=
  match s.catalogue.queue.head?, s.catalogue.work with
  | some v, some w =>
    if mine v then [candidate .catalogue (workOp w) (kind (workOp w)) stream] else []
  | _, _ => []

/-- The kind of a catalogue write that is no relocation step (Table 10-3). -/
def systemKind : Op → Nat
  | .erase _ => 3
  | _ => 2

/-- A version for a retirement that a relocation caused. -/
def forRelocation : VersionFor → Bool
  | .retire _ byRelocation => byRelocation
  | _ => false

/-- A version for a retirement that an erase failure caused. -/
def forErase : VersionFor → Bool
  | .retire _ byRelocation => !byRelocation
  | _ => false

/-- A version for a command. -/
def forCommand : VersionFor → Bool
  | .retire _ _ => false
  | _ => true

/-- The next step of a relocation as an operation (R106, R107). Each READ names the whole frame, offsets 0 to 512, and the
copy takes of it the range that R107 gives, which only the margin of that READ tells (DESIGN CHOICE, log 56). -/
def relocOp (r : Reloc) : Option Op :=
  match r.stage with
  | .eraseTarget => some (.erase r.target)
  | .readFrame i => some (.read r.segment i 0 512)
  | .copyFrame _ p => some (.program p)
  | .retiring => none

/-- Rank 1: the catalogue operations of a relocation, then its next step (R56, R111, log 26). Where the relocation has
given up before the version of its retirement is written, no stream is left for a GUARD_HOLD notice to name, and it names
0xFF (DESIGN CHOICE, log 31). -/
def rankOne (s : State) : List WorkItem :=
  let stream := (s.engine.reloc.map (fun r => r.stream)).getD 0xFF
  catalogueCandidate forRelocation (fun _ => 4) stream s ++
  match s.engine.reloc.bind relocOp with
  | some op => [candidate .relocation op 4 stream]
  | none => []

/-- The command that is DISPATCHED. -/
def dispatchedCmd (s : State) : Option Cmd := s.sequencer.dispatched.map (fun d => d.cmd)

/-- The stream a Sequencer ERASE is made for. -/
def allocationStream (s : State) : Nat :=
  match dispatchedCmd s with
  | some (.commit n _) => n
  | _ => 0xFF

/-- The request pending from the Sequencer or its ledger writer, when `reads` says whether it is a READ. -/
def sequencerCandidate (reads : Bool) (s : State) : List WorkItem :=
  match s.engine.request with
  | some r =>
    if opWrites r.op = reads then []
    else [candidate r.who r.op (systemKind r.op) (match r.op with | .erase _ => allocationStream s | _ => 0xFF)]
  | none => []

/-- The PROGRAM of a job (R53). -/
def jobProgram (j : Job) : Program :=
  { segment := j.segment, frame := j.frame, portion := j.portion, lo := j.lo, hi := j.hi, bytes := j.image,
    damaged := j.damaged, pad := j.pad, label := j.label }

/-- Rank 4: the head job, unless the queue is suspended by a relocation (R59). -/
def jobCandidate (s : State) : List WorkItem :=
  match s.engine.reloc, s.write.jobs with
  | none, j :: _ => [candidate .job (.program (jobProgram j)) 1 (j.stream.getD 0xFF)]
  | _, _ => []

/-- Ranks 1 to 4 of Figure 3-1. -/
def candidates (s : State) : List WorkItem :=
  rankOne s ++ sequencerCandidate true s ++ catalogueCandidate forErase systemKind 0xFF s ++
  catalogueCandidate forCommand systemKind 0xFF s ++ sequencerCandidate false s ++ jobCandidate s

/-! ### The choice -/

/-- A write is held: the first of an episode raises GUARD and adds GUARD_HOLD (R128). R128 speaks of the first write held
after GUARD_N falls; an episode begins here also where GUARD_N was low already at the entry into MOUNTING and no fall was
seen since (DESIGN CHOICE, log 60). -/
def holdWrite (h : Nat × Nat × Nat) (s : State) : State :=
  if s.guard.episode then s
  else
    raise .guardHeld (addNotice
      { kind := .guardHold, stream := h.2.1, segment := h.2.2, value := h.1, value2 := 0 }
      { s with guard := { s.guard with episode := true } })

/-- A candidate is started (R55). -/
def startWorkOn (c : WorkItem) (s : State) : State :=
  let request := if c.request.who = .sequencer ∨ c.request.who = .ledger then none else s.engine.request
  { s with engine := { s.engine with op := some c.request, request := request } }

/-- No DOZE or HALT is DISPATCHED (R58). -/
def noEntryCommand (s : State) : Bool :=
  match dispatchedCmd s with
  | some .doze => false
  | some .halt => false
  | _ => true

/-- The segment background erase would erase (R58). -/
def staleSegment (s : State) : Option Nat :=
  s.segments.pool.find? (fun g => (segOf s g).state = .freeStale && !locked s g)

/-- Rank 5 (R58); none in the interval before a DOZE or HALT entry and during a soft reset (R157, R170, log 14). -/
def startBackgroundErase (s : State) : State :=
  if s.options.backgroundErase = 1 ∧ !guarded s ∧ noEntryCommand s ∧ s.power.entryDue = none ∧ s.power.soft = none then
    match staleSegment s with
    | some g => { s with engine := { s.engine with op := some { who := .background, op := .erase g } } }
    | none => s
  else s

/-- The head job's segment is locked as the job is about to start (R125). -/
def lockedOut (c : WorkItem) (s : State) : Bool :=
  c.request.who = .job && s.write.jobs.head?.any (fun j => locked s j.segment)

/-- The head job is failed by its lock: its stream is faulted and GUARD is raised (R125). -/
def failByLock (s : State) : State :=
  match s.write.jobs with
  | [] => s
  | j :: _ => raise .guardHeld (faultStream (j.stream.getD 0xFF) j.segment 2 s)

/-- The candidates are tried in order: a held write is passed over, a job into a locked segment is failed and the
choice is made again, the first eligible one is started, and if there is none a background erase. -/
def tryCandidates (again : State → State) : List WorkItem → State → State
  | [], s => startBackgroundErase s
  | c :: cs, s =>
    match c.hold with
    | some h =>
      if guarded s then tryCandidates again cs (holdWrite h s)
      else if lockedOut c s then again (failByLock s)
      else startWorkOn c s
    | none => startWorkOn c s

/-- The choice of work of an idle engine in READY or RESTRICTED (R55, R56). `fuel` bounds the jobs that can be failed
by a lock in one event. -/
def chooseWork : Nat → State → State
  | 0, s => s
  | fuel + 1, s =>
    if isAwake s && s.engine.op.isNone then tryCandidates (chooseWork fuel) (candidates s) s else s

/-- The engine's choice at the end of an internal event. -/
def choose (s : State) : State := chooseWork 10 s

/-! ### What was due for the next internal event -/

/-- Steps 3 to 6 of Figure 2-2 (R39, R40). A command is in its wait until the row that ends the wait is taken, also where
what it waits for is there already: R27 and R28 end the wait at the access or event that fulfils it, R37 where the command
finds the buffer empty, and the model follows R37 for every wait (DESIGN CHOICE, log 68). -/
def abortSteps (s : State) : State :=
  let s :=
    match s.sequencer.dispatched with
    | none => s
    | some d =>
      match d.phase with
      | .waitResponse => complete d { result := .aborted } s
      | .waitRoom _ => complete d { result := .aborted } s
      | .waitBarrier => complete d { result := .aborted } s
      | _ => { s with sequencer := { s.sequencer with dispatched := some { d with abortLate := true } } }
  { s with
    write := { s.write with staging := s.write.staging.filter (fun g => g.owned) }
    rsp := ResponseBuffer.empty
    sequencer := { s.sequencer with arm := none } }

/-- ROOM is signalled when CMD_ROOM has become 1 (R11). -/
def signalRoom (before : Bool) (s : State) : State := if !before && cmdRoom s then raise .room s else s

/-- Steps 3 to 7 of Figure 2-2 (R39). -/
def endAbort (s : State) : State :=
  let s' := abortSteps s
  signalRoom (cmdRoom s) { s' with host := { s'.host with aborting := false } }

/-- The device's entry into DOZE (R157). -/
def enterDoze (s : State) : State :=
  { s with power := { s.power with state := .doze, remembered := awakeOf s, entryDue := none } }

/-- The Timebase's part of HALT entry (R147). -/
def haltTime (t : Timebase) : Timebase := { t with valid := false, armed := false, prescaler := 0, running := false }

/-- The device's entry into HALT (R147, R159). -/
def enterHalt (s : State) : State :=
  { s with
    power := { s.power with state := .halt, remembered := awakeOf s, entryDue := none }
    time := haltTime s.time
    events := { s.events with latched := s.events.latched &&& ~~~ Event.alarm.bit } }

/-- Steps 3 to 6 of an abort within a soft reset (R170). -/
def softAbort (s : State) : State :=
  let s := abortSteps s
  { s with power := { s.power with soft := some .judgeTails } }

/-- The soft reset goes on to this step. -/
def setSoft (x : Option SoftStep) (s : State) : State := { s with power := { s.power with soft := x } }

/-- A tail the soft reset cannot program (R171): guarded, or its segment locked. -/
def tailRefused (s : State) : Tail → Bool
  | .pos p => guarded s || locked s (aliasSegment s p.segment)
  | _ => false

/-- A tail's pending bytes are discarded, with a TAIL_DISCARDED notice (R171). -/
def discardTail (n : Nat) (s : State) : State :=
  let t := streamOf s n
  match t.tail with
  | .pos p =>
    addNotice { kind := .tailDiscarded, stream := n, segment := aliasSegment s p.segment, value := p.offset - p.unprog,
                value2 := p.frame }
      (setStream n { t with tail := .exhausted } s)
  | _ => s

/-- Several tails are discarded in turn. -/
def discardTails : List Nat → State → State
  | [], s => s
  | n :: ns, s => discardTails ns (discardTail n s)

/-- The jobs of these tails are emitted when there is room for all of them, and the drain begins (R171). -/
def softSync (ns : List Nat) (s : State) : State :=
  if programRoom s < ns.length then setSoft (some (.room ns)) s else setSoft (some .drain) (syncTails ns s)

/-- Every tail with pending bytes is judged, in ascending stream order (R171). -/
def judgeTails (s : State) : State :=
  let ns := pendingStreams s
  let bad := ns.filter (fun n => tailRefused s (streamOf s n).tail)
  let good := ns.filter (fun n => !tailRefused s (streamOf s n).tail)
  softSync good (discardTails bad s)

/-- What a soft reset owes of its tails: their judgement in the first internal event after the abort steps that finds no
command DISPATCHED, and their jobs in the first that finds room for them (R171, R81). -/
def tailsDue (s : State) : Option SoftStep :=
  if isAwake s && s.sequencer.dispatched.isNone then
    match s.power.soft with
    | some .judgeTails => some .judgeTails
    | some (.room ns) => if ns.length ≤ programRoom s then some (.room ns) else none
    | _ => none
  else none

/-- The soft reset's step over its tails (R171). -/
def softTails (s : State) : State :=
  match tailsDue s with
  | some .judgeTails => judgeTails s
  | some (.room ns) => softSync ns s
  | _ => s

/-- A COMMIT between two jobs of its record (R76): the command, its stream, the sequence and the bytes still to be
copied. -/
def placingDue (s : State) : Option (Dispatched × Nat × Nat × List Byte) :=
  match s.sequencer.dispatched with
  | some d =>
    match d.phase, d.cmd with
    | .placing seq rest, .commit n _ => some (d, n, seq, rest)
    | _, _ => none
  | none => none

/-- The next job of a record (R76). -/
def goOnPlacing (s : State) : State :=
  match placingDue s with
  | some (d, n, seq, rest) => copyRecord d n seq true rest s
  | none => s

/-- An entry into DOZE or HALT (R157, R159). -/
def takeEntry (s : State) : State :=
  match s.power.entryDue with
  | some .doze => enterDoze s
  | some .halt => enterHalt s
  | none => s

/-- What the next internal event brings with it: a soft reset's tails; the abort steps, or a soft reset's abort steps;
the next job of a record being placed; the entry into DOZE or HALT (R39, R76, R157, R159, R170, R171). -/
def due (s : State) : State :=
  if windowLive s then
    let s := softTails s
    let s := if s.host.aborting then endAbort s else s
    let s := if s.power.soft = some .abortSteps then softAbort s else s
    takeEntry (goOnPlacing s)
  else s

/-- Nothing stands between the Sequencer and its next step: no abort step, soft reset step, job of a record or entry is
due. -/
def nothingDue (s : State) : Bool :=
  !s.host.aborting && s.power.soft ≠ some .abortSteps && (tailsDue s).isNone && (placingDue s).isNone &&
  s.power.entryDue.isNone

end Sys2Proof.Machine
end

