-- ==== Sys2Proof/Machine/ProtectionCommands.lean ====
section
/-!
DEFINITION. The commands of chapter 8 from step 6 of Figure 2-1 on: the lock commands, ARM, SEAL, FORMAT and VAULT WRITE.
-/

namespace Sys2Proof.Machine

open Sys2Proof

/-- A lock command's own execution (R126 steps 1 to 3). -/
def runLock (d : Dispatched) (s : State) : State :=
  if s.guard.mode = .disabled then complete d { result := .lockDisabled } s
  else if s.guard.frozen then complete d { result := .frozen } s
  else syncBarrier d s

/-- ARM's own execution (R130). -/
def runArm (d : Dispatched) (s : State) : State :=
  match d.cmd with
  | .arm target _ =>
    complete d { result := .done, value := target.toNat }
      { s with sequencer := { s.sequencer with arm := some target } }
  | _ => s

/-- SEAL's step 1 (R132) and its barrier. -/
def runSeal (d : Dispatched) (s : State) : State :=
  match d.cmd with
  | .sealStream n seq =>
    let t := streamOf s n
    if t.defn.isNone then complete d { result := .noStream } s
    else if t.state = .archived ∨ t.state = .faulted then complete d { result := .refusedState } s
    else if t.newest < seq || !holdsRecord t then complete d { result := .badParam } s
    else syncBarrier d s
  | _ => s

/-- FORMAT's step 1 (R134) and its barrier. -/
def runFormat (d : Dispatched) (s : State) : State :=
  if guarded s then complete d { result := .writeProtected } s else drainBarrier d s

/-- VAULT WRITE's own execution (R136). -/
def runVaultWriteCommand (d : Dispatched) (s : State) : State :=
  match d.cmd with
  | .vaultWrite slot data => runVaultWrite d slot data s
  | _ => s

end Sys2Proof.Machine
end

