-- ==== Sys2Proof/Machine/StreamCommands.lean ====
section
/-!
DEFINITION. The commands of chapters 4 and 5 from step 6 of Figure 2-1 on: DEFINE STREAM, DELETE STREAM, TRIM STREAM,
APPEND, COMMIT, CANCEL and SEEK. (The responding ones stand in Protection.lean, as does SYNC.)
-/

namespace Sys2Proof.Machine

open Sys2Proof

/-- DEFINE STREAM's own execution (R67). -/
def runDefine (d : Dispatched) (s : State) : State :=
  match d.cmd with
  | .defineStream n mode quota name =>
    if (streamOf s n).defn.isSome then complete d { result := .streamExists } s
    else if guarded s then complete d { result := .writeProtected } s
    else
      requestVersion (.define n (if mode = 0 then .linear else .ring) quota name) (setPhase d .version s)
  | _ => s

/-- DELETE STREAM's own execution (R68). -/
def runDelete (d : Dispatched) (s : State) : State :=
  match d.cmd with
  | .deleteStream n =>
    let t := streamOf s n
    if t.defn.isNone then complete d { result := .noStream } s
    else if t.state = .archived then complete d { result := .refusedState } s
    else drainBarrier d s
  | _ => s

/-- How many entries of a chain TRIM STREAM releases from the oldest on, and whether it stops at a SEALED one that
meets the conditions (R69). A sequence of 0 or 1 releases nothing and stops at no seal, whatever the entries hold. -/
def trimWalk (s : State) (w : Option ChainEntry) (seq : Nat) : List ChainEntry → Nat × Bool
  | [] => (0, false)
  | e :: es =>
    if seq ≤ 1 ∨ w = some e ∨ hasJobInto s e.segment ∨ seq ≤ e.last then (0, false)
    else if e.isSealed then (0, true)
    else
      let r := trimWalk s w seq es
      (r.1 + 1, r.2)

/-- A stream's entry after its `k` oldest chain entries were released (R69). -/
def trimmedStream (k : Nat) (t : Stream) : Stream :=
  if k = 0 then t
  else
    { t with chain := t.chain.drop k, oldest := ((t.chain.drop k).head?.map (fun e => e.first)).getD 0,
             state := if t.state = .full .quota then .opened else t.state, tail := tailOf (t.chain.drop k) t.tail }

/-- The oldest sequence as TRIM STREAM reports it: 0 when the stream holds no record (Table 2-6). -/
def oldestHeld (t : Stream) : Nat := if holdsRecord t then t.oldest else 0

/-- TRIM STREAM's own execution (R69). -/
def runTrim (d : Dispatched) (s : State) : State :=
  match d.cmd with
  | .trimStream n seq =>
    let t := streamOf s n
    if t.defn.isNone then complete d { result := .noStream } s
    else if t.state = .archived ∨ t.state = .faulted then complete d { result := .refusedState } s
    else
      let r := trimWalk s (writeEntry s t) seq t.chain
      let t' := trimmedStream r.1 t
      if r.1 = 0 ∧ r.2 then complete d { result := .headSealed, value := 0, aux := oldestHeld t } s
      else
        complete d { result := .done, value := r.1, aux := oldestHeld t' }
          (setStream n t' (releaseAll (t.chain.take r.1) s))
  | _ => s

/-- APPEND's own execution (R71). -/
def runAppend (d : Dispatched) (s : State) : State :=
  match d.cmd with
  | .append n data =>
    let t := streamOf s n
    let bytes := stagedPayload s ++ data
    if t.defn.isNone then complete d { result := .noStream } s
    else if t.state = .archived ∨ t.state = .faulted then complete d { result := .refusedState } s
    else if s.write.staging.any (fun g => g.stream ≠ n) then complete d { result := .stageBusy } s
    else if 1536 < bytes.length then
      complete d { result := .tooLong } { s with write := { s.write with staging := none } }
    else
      complete d { result := .done, value := bytes.length }
        { s with write := { s.write with staging := some { stream := n, bytes := bytes, owned := false } } }
  | _ => s

/-- COMMIT's own execution (R73 to R79). -/
def runCommitCommand (d : Dispatched) (s : State) : State :=
  match d.cmd with
  | .commit n attr => runCommit d n attr s
  | _ => s

/-- CANCEL's own execution (R72). -/
def runCancel (d : Dispatched) (s : State) : State :=
  match d.cmd with
  | .cancel n =>
    match s.write.staging with
    | some g =>
      if g.stream = n then
        complete d { result := .done, value := g.bytes.length } { s with write := { s.write with staging := none } }
      else complete d { result := .nothingStaged } s
    | none => complete d { result := .nothingStaged } s
  | _ => s

/-- SEEK's own execution (R95). -/
def runSeekCommand (d : Dispatched) (s : State) : State :=
  match d.cmd with
  | .seek n origin seq => runSeek d n origin seq s
  | _ => s

end Sys2Proof.Machine
end

