-- ==== Sys2Proof/Machine/SystemCommands.lean ====
section
/-!
DEFINITION. The options (R175) and the time commands (R143 to R145) from step 6 of Figure 2-1 on.
-/

namespace Sys2Proof.Machine

open Sys2Proof

/-- The value of an option (Table 12-4). -/
def optionValue (o : Options) (id : Nat) : Nat :=
  match id with
  | 1 => o.commitPolicy
  | 2 => o.tickSource
  | 3 => o.tickDivider
  | 4 => o.holdupUse
  | 5 => o.damagedReads
  | _ => o.backgroundErase

/-- An option replaced (R175). -/
def withOption (id value : Nat) (o : Options) : Options :=
  match id with
  | 1 => { o with commitPolicy := value }
  | 2 => { o with tickSource := value }
  | 3 => { o with tickDivider := value }
  | 4 => { o with holdupUse := value }
  | 5 => { o with damagedReads := value }
  | _ => { o with backgroundErase := value }

/-- GET OPTION's own execution (R175). -/
def runGetOption (d : Dispatched) (s : State) : State :=
  match d.cmd with
  | .getOption id => complete d { result := .done, value := optionValue s.options id, aux := id } s
  | _ => s

/-- SET OPTION's own execution (R175); the tick options clear the prescaler count (R142). -/
def runSetOption (d : Dispatched) (s : State) : State :=
  match d.cmd with
  | .setOption id value =>
    complete d { result := .done, value := value, aux := optionValue s.options id }
      { s with
        options := withOption id value s.options
        time := if id = 2 ∨ id = 3 then { s.time with prescaler := 0 } else s.time }
  | _ => s

/-- SET TIME's own execution (R143). -/
def runSetTime (d : Dispatched) (s : State) : State :=
  match d.cmd with
  | .setTime epoch ticks =>
    complete d { result := .done, value := ticks.toNat, aux := epoch.toNat }
      { s with time := { s.time with counter := ticks, epoch := epoch, prescaler := 0, valid := true } }
  | _ => s

/-- GET TIME's own execution (R144). -/
def runGetTime (d : Dispatched) (s : State) : State :=
  complete d
    { result := .done, value := s.time.counter.toNat
      aux := s.time.epoch.toNat + 256 * bitOf s.time.valid + 65536 * s.options.tickSource +
        16777216 * s.options.tickDivider } s

/-- SET ALARM's own execution (R145). -/
def runSetAlarm (d : Dispatched) (s : State) : State :=
  match d.cmd with
  | .setAlarm action ticks =>
    if action = 1 then
      complete d { result := .done, value := ticks.toNat, aux := 1 }
        { s with time := { s.time with armed := true, alarm := ticks } }
    else complete d { result := .done } { s with time := { s.time with armed := false } }
  | _ => s

end Sys2Proof.Machine
end

