-- ==== Sys2Proof/Machine/Sequencer.lean ====
section
/-!
DEFINITION. Dispatch (R21 to R26, Figure 2-1): when the head of the Command Queue is dispatched, the checks every
command passes, and the hand-over to its own execution; the dispatch of the next frame in the event of a deferral (R30);
the shape of an internal event. Also the ends of the waits of R27.
-/

namespace Sys2Proof.Machine

open Sys2Proof

/-- The head of the Command Queue, if its form is good: the frame and the command it spells (R21). -/
def goodHead (s : State) : Option (CmdFrame × Cmd) :=
  match s.sequencer.queue with
  | [] => none
  | f :: _ => if f.oversize then none else (decodeCmd f.opcode f.payload).map (fun c => (f, c))

/-- The head of the Command Queue, if its form is bad (R21). -/
def badHead (s : State) : Option CmdFrame :=
  match s.sequencer.queue with
  | [] => none
  | f :: _ => if f.oversize || (decodeCmd f.opcode f.payload).isNone then some f else none

/-- A completion slot can be reserved (R24): the slots in use are those reserved, those of the records posted, and those of
the records that the event being taken posts. -/
def slotFree (s : State) : Bool := reservedCount s + s.cpl.records.length + s.cpl.fresh.length < 16

/-- The conditions of R23, with no abort step, soft reset or entry due. -/
def dispatchReady (s : State) : Bool :=
  isAwake s && s.sequencer.dispatched.isNone && nothingDue s && s.power.soft.isNone && slotFree s

/-- The frame leaves the queue and the arm state is taken (R23, R26); ROOM is signalled if CMD_ROOM became 1. -/
def takeHead (d : Option Dispatched) (s : State) : State :=
  signalRoom (cmdRoom s)
    { s with sequencer := { s.sequencer with
        queue := s.sequencer.queue.drop 1, dispatched := d, arm := none, nextId := s.sequencer.nextId + 1 } }

/-- Steps 3 to 5 of Figure 2-1 (R25): the outcome of the first that finds a fault. -/
def dispatchFault (s : State) (c : Cmd) : Option Result :=
  let refused :=
    match s.power.state with
    | .awake (.restricted cause) => refusedIn cause c
    | _ => false
  if refused then some .refusedState
  else if needsArm c && s.sequencer.arm ≠ some c.code then some .notArmed
  else if !paramsInRange c then some .badParam
  else none

/-- The command as it is DISPATCHED. The phase is a placeholder until the command waits or passes on. -/
def newDispatched (s : State) (f : CmdFrame) (c : Cmd) : Dispatched :=
  { id := s.sequencer.nextId, tag := f.tag, opcode := f.opcode, cmd := c, eager := s.options.commitPolicy = 1,
    abortLate := false, phase := .waitBarrier }

/-- Each command's own execution (step 6 of Figure 2-1). -/
def runOf (c : Cmd) : Dispatched → State → State :=
  match c with
  | .defineStream _ _ _ _ => runDefine
  | .deleteStream _ => runDelete
  | .queryStream _ => awaitBuffer
  | .trimStream _ _ => runTrim
  | .append _ _ => runAppend
  | .commit _ _ => runCommitCommand
  | .cancel _ => runCancel
  | .sync => runSync
  | .readRecord _ _ => awaitBuffer
  | .seek _ _ _ => runSeekCommand
  | .readNext _ => awaitBuffer
  | .lockAll => runLock
  | .unlockRange _ _ _ => runLock
  | .freezeLocks => runLock
  | .segmentStatus _ => awaitBuffer
  | .arm _ _ => runArm
  | .sealStream _ _ => runSeal
  | .format => runFormat
  | .vaultWrite _ _ => runVaultWriteCommand
  | .vaultRead _ => awaitBuffer
  | .vaultClose => runVaultClose
  | .getOption _ => runGetOption
  | .setOption _ _ => runSetOption
  | .describe => awaitBuffer
  | .identify => awaitBuffer
  | .readNotices => awaitBuffer
  | .setTime _ _ => runSetTime
  | .getTime => runGetTime
  | .setAlarm _ _ => runSetAlarm
  | .doze => drainBarrier
  | .halt => syncBarrier

/-- The completion of a malformed frame (R21). -/
def badCompletion (f : CmdFrame) : Completion := completionOf f.tag f.opcode 0 false { result := .badFrame }

/-- The head of the Command Queue is dispatched and judged (Figure 2-1). -/
def dispatchHead (s : State) : State :=
  match goodHead s with
  | some (f, c) =>
    let d := newDispatched s f c
    let taken := takeHead (some d) s
    match dispatchFault s c with
    | some r => complete d { result := r } taken
    | none => runOf c d taken
  | none =>
    match badHead s with
    | some f => postRecord (s.sequencer.nextId + 1) (badCompletion f) (takeHead none s)
    | none => s

/-- A command has deferred on the way from one state to the other. -/
def hasDeferred (s t : State) : Bool := s.sequencer.deferred.length < t.sequencer.deferred.length

/-- Where a command has deferred, the same internal event goes on with the next frame (R30). -/
def ifDeferred (goOn : State → State) (s t : State) : State := if hasDeferred s t then goOn t else t

/-- The Sequencer dispatches the head of the Command Queue where R23 allows it, and goes on with the next frame, in the
same internal event, while the commands it dispatches defer: where R30 says that it may, it always does (DEDUCED, log 63).
The number bounds the frames. -/
def dispatchNext : Nat → State → State
  | 0, s => s
  | n + 1, s => if dispatchReady s then ifDeferred (dispatchNext n) s (dispatchHead s) else s

/-- The Sequencer's dispatch within an internal event. -/
def dispatchFrames (s : State) : State := dispatchNext s.sequencer.queue.length s

/-- Dispatch of the head as an internal event when it is the command with this code (Figure 2-1); nothing when R23 does not
allow it or the head is another frame. -/
def dispatch (code : Byte) (s : State) : State :=
  match goodHead s with
  | none => s
  | some (f, _) => if dispatchReady s ∧ f.opcode = code then settle (choose (dispatchFrames s)) else s

/-- BAD_FRAME: dispatch of a malformed frame (R21). -/
def execBadFrame (s : State) : Answer :=
  .next (
    match badHead s with
    | none => s
    | some _ => if dispatchReady s then settle (choose (dispatchFrames s)) else s)

/-! ### An internal event -/

/-- An internal event: what was due, its own body, the dispatch of the next frame where a command has deferred (R30), the
engine's choice, and what was posted (R55). -/
def internalEvent (body : State → State) (s : State) : State :=
  let t := due s
  let u := body t
  settle (choose (if hasDeferred s t || hasDeferred t u then dispatchFrames u else u))

/-! ### The ends of the waits of R27 -/

/-- The DISPATCHED command, when the next internal event may move it on: the device is awake and no abort step or entry
is due. -/
def waiting (s : State) : Option Dispatched :=
  if isAwake s && nothingDue s then s.sequencer.dispatched else none

/-- RESPONSE_BUFFER_WAIT_END (R37): the buffer is found empty, the command reaches its commit point and executes. -/
def execResponseBufferWaitEnd (s : State) : Answer :=
  .next (
    match waiting s with
    | none => s
    | some d =>
      if d.phase = .waitResponse ∧ s.rsp.bytes.isEmpty then settle (choose (runResponding d s)) else s)

/-- A command that finds room judges and counts again (R27, R75, R81, R136). -/
def afterRoom (d : Dispatched) (s : State) : State :=
  match d.cmd with
  | .commit n attr => runCommit d n attr s
  | .sync => runSync d s
  | .vaultWrite slot data => runVaultWrite d slot data s
  | _ => syncBarrier d s

/-- PROGRAM_QUEUE_ROOM_WAIT_END (R27). -/
def execProgramQueueRoomWaitEnd (s : State) : Answer :=
  .next (
    match waiting s with
    | none => s
    | some d =>
      match d.phase with
      | .waitRoom need =>
        if need ≤ programRoom s then settle (choose (ifDeferred dispatchFrames s (afterRoom d s))) else s
      | _ => s)

/-- BARRIER_END (R81, R82). -/
def execBarrierEnd (s : State) : Answer :=
  .next (
    match waiting s with
    | none => s
    | some d =>
      if d.phase = .waitBarrier ∧ barrierMet d.cmd s then settle (choose (afterBarrier d s)) else s)

end Sys2Proof.Machine
end

