-- ==== Sys2Proof/Machine/CommandRows.lean ====
section
/-!
DEFINITION. The commands of Table 2-1, each as the row that dispatches it.
-/

namespace Sys2Proof.Machine

open Sys2Proof

/-! ### Streams and reading (chapters 4 and 5) -/

/-- DEFINE_STREAM (R67). -/
def execDefineStream (s : State) : Answer := .next (dispatch 0x10 s)

/-- DELETE_STREAM (R68). -/
def execDeleteStream (s : State) : Answer := .next (dispatch 0x11 s)

/-- QUERY_STREAM (R70). -/
def execQueryStream (s : State) : Answer := .next (dispatch 0x12 s)

/-- TRIM_STREAM (R69). -/
def execTrimStream (s : State) : Answer := .next (dispatch 0x13 s)

/-- APPEND (R71). -/
def execAppend (s : State) : Answer := .next (dispatch 0x20 s)

/-- COMMIT (R73). While one is placing its record, the row is the internal event of its next job (R76). -/
def execCommit (s : State) : Answer :=
  .next (if (placingDue s).isSome then internalEvent id s else dispatch 0x21 s)

/-- CANCEL (R72). -/
def execCancel (s : State) : Answer := .next (dispatch 0x22 s)

/-- SYNC (R83). -/
def execSync (s : State) : Answer := .next (dispatch 0x23 s)

/-- READ_RECORD (R93). -/
def execReadRecord (s : State) : Answer := .next (dispatch 0x30 s)

/-- SEEK (R95). -/
def execSeek (s : State) : Answer := .next (dispatch 0x31 s)

/-- READ_NEXT (R96). -/
def execReadNext (s : State) : Answer := .next (dispatch 0x32 s)

/-! ### Protection (chapter 8) -/

/-- LOCK_ALL (R126). -/
def execLockAll (s : State) : Answer := .next (dispatch 0x40 s)

/-- UNLOCK_RANGE (R126). -/
def execUnlockRange (s : State) : Answer := .next (dispatch 0x41 s)

/-- FREEZE_LOCKS (R126). -/
def execFreezeLocks (s : State) : Answer := .next (dispatch 0x42 s)

/-- SEGMENT_STATUS (R127). -/
def execSegmentStatus (s : State) : Answer := .next (dispatch 0x43 s)

/-- ARM (R130). -/
def execArm (s : State) : Answer := .next (dispatch 0x48 s)

/-- SEAL (R132). -/
def execSeal (s : State) : Answer := .next (dispatch 0x49 s)

/-- FORMAT (R134). -/
def execFormat (s : State) : Answer := .next (dispatch 0x4A s)

/-- VAULT_WRITE (R136). -/
def execVaultWrite (s : State) : Answer := .next (dispatch 0x50 s)

/-- VAULT_READ (R137). -/
def execVaultRead (s : State) : Answer := .next (dispatch 0x51 s)

/-- VAULT_CLOSE (R138). -/
def execVaultClose (s : State) : Answer := .next (dispatch 0x52 s)

/-! ### Options, identity, notices, time and power (chapters 9 to 12) -/

/-- GET_OPTION (R175). -/
def execGetOption (s : State) : Answer := .next (dispatch 0x60 s)

/-- SET_OPTION (R175). -/
def execSetOption (s : State) : Answer := .next (dispatch 0x61 s)

/-- DESCRIBE (R123). -/
def execDescribe (s : State) : Answer := .next (dispatch 0x62 s)

/-- IDENTIFY (R122). -/
def execIdentify (s : State) : Answer := .next (dispatch 0x63 s)

/-- READ_NOTICES (R154). -/
def execReadNotices (s : State) : Answer := .next (dispatch 0x64 s)

/-- SET_TIME (R143). -/
def execSetTime (s : State) : Answer := .next (dispatch 0x70 s)

/-- GET_TIME (R144). -/
def execGetTime (s : State) : Answer := .next (dispatch 0x71 s)

/-- SET_ALARM (R145). -/
def execSetAlarm (s : State) : Answer := .next (dispatch 0x72 s)

/-- DOZE (R157): a drain over the whole Program Queue. -/
def execDoze (s : State) : Answer := .next (dispatch 0x78 s)

/-- HALT (R159): a sync of all tails. -/
def execHalt (s : State) : Answer := .next (dispatch 0x79 s)

end Sys2Proof.Machine
end

