-- ==== Sys2Proof/Machine/HostRows.lean ====
section
/-!
DEFINITION. The rows of the Host Port (R1 to R19): the offset latch, the accesses with a side effect of their own, the
writes, and the four actions of HCTL. An access row applies when the latched offset is its register's; where the window
is dark a read returns 0xFF and nothing else happens.
-/

namespace Sys2Proof.Machine

open Sys2Proof

/-! ### How an access begins -/

/-- The device wakes from DOZE or HALT to the remembered state (R158, R159). -/
def wake (s : State) : State :=
  { s with power := { s.power with state := .awake (s.power.remembered.getD .ready) } }

/-- The first part of an access to a live window: in DOZE the device wakes, which is an internal event of its own; in
the interval before a DOZE entry the entry is abandoned (R19, R157). -/
def beginAccess (s : State) : State :=
  if s.power.state = .doze then internalEvent wake s
  else if s.power.entryDue = some .doze then { s with power := { s.power with entryDue := none } }
  else s

/-- AD7 to AD0 carry this byte for the duration of a read (R1). -/
def drive (b : Byte) (s : State) : State := { s with host := { s.host with dataOut := b } }

/-- A read of the latched offset when it is `off`: the byte before the access, then the side effect (R1, R3, R19). -/
def readAccess (off : BitVec 4) (effect : State → State) (s : State) : State :=
  if s.host.latch = off then
    if windowLive s then
      let s := beginAccess s
      effect (drive (hostRead s off) s)
    else drive 0xFF s
  else s

/-- A write to the latched offset when `mine` takes it; ignored while the window is dark (R19). -/
def writeAccess (mine : BitVec 4 → Bool) (effect : State → State) (s : State) : State :=
  if mine s.host.latch && windowLive s then effect (beginAccess s) else s

/-! ### The offset latch -/

/-- OFFSET_LATCH (R2): it wakes nothing and is never a host error. -/
def execOffsetLatch (hselN : Bool) (ad : Byte) (s : State) : Answer :=
  .next (if !hselN && windowLive s then { s with host := { s.host with latch := ad.setWidth 4 } } else s)

/-! ### CMDIN -/

/-- A complete frame enters the Command Queue and the assembler returns to IDLE (R9, R10); ROOM is signalled when
CMD_ROOM becomes 1 by it (R11). -/
def enqueueFrame (f : CmdFrame) (s : State) : State :=
  signalRoom (cmdRoom s)
    { s with
      host := { s.host with assembler := .idle }
      sequencer := { s.sequencer with queue := s.sequencer.queue ++ [f] } }

def setAssembler (a : Assembler) (s : State) : State := { s with host := { s.host with assembler := a } }

/-- The header is complete: the length decides (R9). -/
def headerComplete (opcode tag : Byte) (length : Nat) (s : State) : State :=
  if length = 0 then enqueueFrame { opcode := opcode, tag := tag, payload := [], oversize := false } s
  else if length ≤ 513 then setAssembler (.payload opcode tag length []) s
  else setAssembler (.discard opcode tag length 0) s

/-- A byte written to CMDIN (R8 to R10). -/
def takeByte (b : Byte) (s : State) : State :=
  match s.host.assembler with
  | .idle => if cmdRoom s then setAssembler (.header [b]) s else hostError 1 s
  | .header [opcode, tag, low] => headerComplete opcode tag (low.toNat + 256 * b.toNat) s
  | .header received => setAssembler (.header (received ++ [b])) s
  | .payload opcode tag length received =>
    if received.length + 1 < length then setAssembler (.payload opcode tag length (received ++ [b])) s
    else enqueueFrame { opcode := opcode, tag := tag, payload := received ++ [b], oversize := false } s
  | .discard opcode tag length count =>
    if count + 1 < length then setAssembler (.discard opcode tag length (count + 1)) s
    else enqueueFrame { opcode := opcode, tag := tag, payload := [], oversize := true } s

/-- CMDIN_WRITE (R8). -/
def execCmdinWrite (b : Byte) (s : State) : Answer := .next (writeAccess (fun o => o = 0x0) (takeByte b) s)

/-- CMDIN_READ (R3): 0x00 and host error code 5. -/
def execCmdinRead (s : State) : Answer := .next (readAccess 0x0 (hostError 5) s)

/-! ### RSPOUT, CPLOUT and the other reads with a side effect -/

/-- The response byte is taken; the last one empties the buffer (R14). -/
def takeResponseByte (s : State) : State :=
  if s.rsp.bytes.isEmpty then hostError 2 s
  else if s.rsp.index + 1 < s.rsp.bytes.length then { s with rsp := { s.rsp with index := s.rsp.index + 1 } }
  else { s with rsp := ResponseBuffer.empty }

/-- RSPOUT_READ (R14). -/
def execRspoutRead (s : State) : Answer := .next (readAccess 0x1 takeResponseByte s)

/-- The byte of the head completion record is taken; the twelfth pops the record (R12). -/
def takeCompletionByte (s : State) : State :=
  match s.cpl.records with
  | [] => hostError 3 s
  | _ :: rest =>
    if s.cpl.index < 11 then { s with cpl := { s.cpl with index := s.cpl.index + 1 } }
    else { s with cpl := { s.cpl with records := rest, index := 0 } }

/-- CPLOUT_READ (R12). -/
def execCploutRead (s : State) : Answer := .next (readAccess 0x2 takeCompletionByte s)

/-- The whole remaining length is captured (R14). -/
def captureLength (s : State) : State := { s with host := { s.host with rspHold := BitVec.ofNat 16 (rspLeft s) } }

/-- RSPLEN_LOW_READ (R14): the whole remaining length is captured. -/
def execRsplenLowRead (s : State) : Answer := .next (readAccess 0xA captureLength s)

/-- HERR is cleared by its read (R4). -/
def clearHerr (s : State) : State := { s with host := { s.host with herr := 0 } }

/-- HERR_READ (R4). -/
def execHerrRead (s : State) : Answer := .next (readAccess 0xC clearHerr s)

/-- FLUSHCNT is cleared by its read (R5). -/
def clearFlushCnt (s : State) : State := { s with host := { s.host with flushCnt := 0 } }

/-- FLUSHCNT_READ (R5). -/
def execFlushcntRead (s : State) : Answer := .next (readAccess 0xD clearFlushCnt s)

/-! ### EVPEND, EVMASK and the offsets that take no write -/

/-- Latched bits written 1 are cleared; bit 0 is no latched bit (R150). -/
def clearEvents (b : Byte) (s : State) : State :=
  { s with events := { s.events with latched := s.events.latched &&& ~~~ b } }

/-- EVPEND_WRITE (R150). -/
def execEvpendWrite (b : Byte) (s : State) : Answer := .next (writeAccess (fun o => o = 0x5) (clearEvents b) s)

/-- EVMASK takes the byte written (R151). -/
def setMask (b : Byte) (s : State) : State := { s with events := { s.events with mask := b } }

/-- EVMASK_WRITE (R151). -/
def execEvmaskWrite (b : Byte) (s : State) : Answer := .next (writeAccess (fun o => o = 0x6) (setMask b) s)

/-- The four offsets that accept a write (R3). -/
def takesWrite (o : BitVec 4) : Bool := o = 0x0 || o = 0x4 || o = 0x5 || o = 0x6

/-- IGNORED_WRITE (R3): host error code 4, whatever the byte written. -/
def execIgnoredWrite (_b : Byte) (s : State) : Answer :=
  .next (writeAccess (fun o => !takesWrite o) (hostError 4) s)

/-! ### HCTL -/

/-- The frames an abort removes are discarded and counted in FLUSHCNT (R5, R17). -/
def flushFrames (s : State) : State :=
  { s with
    host := { s.host with
      assembler := .idle
      flushCnt := BitVec.ofNat 8 (saturate (s.host.flushCnt.toNat + cmdFill s)) }
    sequencer := { s.sequencer with queue := [] } }

/-- ABORT written 1 (R16, R17, R41): ignored while an abort or a soft reset is in progress. -/
def beginAbort (s : State) : State :=
  if s.host.aborting || s.power.soft.isSome then s
  else
    let s := flushFrames s
    { s with host := { s.host with aborting := true } }

/-- SRST written 1 where it begins a soft reset: the host-side abort steps, taking over an abort in progress (R16,
R170). HCTL.ABORT reads 0 from this access on: R16 and R170 name no moment at which the abort that is absorbed lets go
of it (DESIGN CHOICE, log 54). -/
def beginSoftReset (s : State) : State :=
  let s := flushFrames s
  { s with
    host := { s.host with aborting := false }
    power := { s.power with soft := some .abortSteps } }

/-- SRST is ignored: in MOUNTING, in the interval before a DOZE or HALT entry, and while a soft reset is in progress
(R16, R170). -/
def ignoresSrst (s : State) : Bool :=
  s.power.state = .mounting || s.power.entryDue.isSome || s.power.soft.isSome

/-- RSP_DISCARD written 1 (R15). -/
def discardResponse (s : State) : State := { s with rsp := ResponseBuffer.empty }

/-- CPL_REWIND written 1 (R13). -/
def rewindCompletion (s : State) : State := { s with cpl := { s.cpl with index := 0 } }

/-- What a write to HCTL does, in R16's order of precedence; `srstIgnored` was judged before the access began. When SRST
is written 1 the other bits have no effect, also where SRST is ignored (log 20). -/
def hctlWrite (b : Byte) (srstIgnored : Bool) (s : State) : State :=
  if b.getLsbD 1 then (if srstIgnored then s else beginSoftReset s)
  else
    let s := if b.getLsbD 0 then beginAbort s else s
    let s := if b.getLsbD 2 then discardResponse s else s
    if b.getLsbD 3 then rewindCompletion s else s

/-- A write of the byte to HCTL. -/
def hctlAccess (b : Byte) (s : State) : State :=
  writeAccess (fun o => o = 0x4) (hctlWrite b (ignoresSrst s)) s

/-- ABORT (R17): a write to HCTL with bit 0 set. -/
def execAbort (b : Byte) (s : State) : Answer := .next (if b.getLsbD 0 then hctlAccess b s else s)

/-- SOFT_RESET (R170): a write to HCTL with bit 1 set. -/
def execSoftReset (b : Byte) (s : State) : Answer := .next (if b.getLsbD 1 then hctlAccess b s else s)

/-- RSP_DISCARD (R15): a write to HCTL with bit 2 set. -/
def execRspDiscard (b : Byte) (s : State) : Answer := .next (if b.getLsbD 2 then hctlAccess b s else s)

/-- CPL_REWIND (R13): a write to HCTL with bit 3 set. -/
def execCplRewind (b : Byte) (s : State) : Answer := .next (if b.getLsbD 3 then hctlAccess b s else s)

/-! ### An access at any offset (R3, R19) -/

/-- The side effect of a read of an offset (R3); most have none. -/
def readEffect (o : BitVec 4) : State → State :=
  if o = 0x0 then hostError 5
  else if o = 0x1 then takeResponseByte
  else if o = 0x2 then takeCompletionByte
  else if o = 0xA then captureLength
  else if o = 0xC then clearHerr
  else if o = 0xD then clearFlushCnt
  else id

/-- What a write of a byte to an offset does (R3); `srstIgnored` as in `hctlWrite`. -/
def writeEffect (o : BitVec 4) (b : Byte) (srstIgnored : Bool) : State → State :=
  if o = 0x0 then takeByte b
  else if o = 0x4 then hctlWrite b srstIgnored
  else if o = 0x5 then clearEvents b
  else if o = 0x6 then setMask b
  else hostError 4

/-- A read, or a write of the byte, at the latched offset, with the wake from DOZE or the abandoned entry that it begins
with, its side effect and its host error (R3, R19). -/
def anyAccess (write : Option Byte) (s : State) : State :=
  match write with
  | none => readAccess s.host.latch (readEffect s.host.latch) s
  | some b => writeAccess (fun _ => true) (writeEffect s.host.latch b (ignoresSrst s)) s

end Sys2Proof.Machine
end

