-- ==== Sys2Proof/Machine/TimeRows.lean ====
section
/-!
DEFINITION. The Timebase (R140, R141, R145, R147): source pulses with the increment, the wrap and the alarm match they
may bring, and the wake from DOZE that these cause (R158).
-/

namespace Sys2Proof.Machine

open Sys2Proof

/-- What happens on the pins is a source pulse of the source in force, and counting is RUNNING (R140, R141). -/
def pulseCounts (p : Pulse) (s : State) : Bool :=
  s.pins.supply && s.time.running &&
  match p with
  | .xin gateHigh => s.options.tickSource = 1 || (s.options.tickSource = 2 && gateHigh)
  | .tickin => s.options.tickSource = 3

/-- The prescaler count reaches 2 raised to the divider with this pulse (R141). -/
def completesPrescaler (s : State) : Bool := 2 ^ s.options.tickDivider ≤ s.time.prescaler + 1

/-- This pulse increments the tick counter. -/
def increments (p : Pulse) (s : State) : Bool := pulseCounts p s && completesPrescaler s

/-- This pulse's increment wraps the counter (R141). -/
def wraps (p : Pulse) (s : State) : Bool := increments p s && s.time.counter = 0xFFFFFFFF

/-- This pulse's increment matches the armed alarm (R145). -/
def matchesAlarm (p : Pulse) (s : State) : Bool :=
  increments p s && s.time.armed && s.time.counter + 1 = s.time.alarm

/-- The Timebase after a source pulse (R141, R145). -/
def pulseTime (p : Pulse) (s : State) : Timebase :=
  if increments p s then
    { s.time with
      prescaler := 0
      counter := s.time.counter + 1
      epoch := if wraps p s then s.time.epoch + 1 else s.time.epoch
      armed := s.time.armed && !matchesAlarm p s }
  else if pulseCounts p s then { s.time with prescaler := s.time.prescaler + 1 }
  else s.time

/-- The occurrences a pulse hands to the Event Unit, judged in the state `s0` before it (R141, R145). -/
def pulseEvents (p : Pulse) (s0 s : State) : State :=
  let s := if wraps p s0 then raise .wrap s else s
  if matchesAlarm p s0 then raise .alarm s else s

/-- The body of a source pulse. -/
def pulseBody (p : Pulse) (s : State) : State := pulseEvents p s { s with time := pulseTime p s }

/-- An ALARM or a WRAP that this pulse makes pending while it is enabled (R158). -/
def pulseWakes (p : Pulse) (s : State) : Bool :=
  let before := s.events.latched
  let after := (pulseBody p s).events.latched
  (after &&& ~~~ before &&& s.events.mask &&& (Event.alarm.bit ||| Event.wrap.bit)) ≠ 0

/-- A source pulse as an internal event: the increment comes first (R141), then what was due, and an occurrence of the
pulse is applied after a clearing in the same event (R150). In DOZE a pulse that wakes does so in this event (R158,
log 25). -/
def sourcePulse (p : Pulse) (s : State) : State :=
  let s1 := due (pulseBody p s)
  let s2 := if s.power.state = .doze ∧ pulseWakes p s then wake s1 else s1
  settle (choose (ifDeferred dispatchFrames s (pulseEvents p s s2)))

/-- SOURCE_PULSE (R140, R141): no effect unless it counts. -/
def execSourcePulse (p : Pulse) (s : State) : Answer := .next (if pulseCounts p s then sourcePulse p s else s)

/-- TICK_INCREMENT (R141): the pulse that increments the counter. -/
def execTickIncrement (p : Pulse) (s : State) : Answer := .next (if increments p s then sourcePulse p s else s)

/-- COUNTER_WRAP (R141): the pulse whose increment wraps the counter. -/
def execCounterWrap (p : Pulse) (s : State) : Answer := .next (if wraps p s then sourcePulse p s else s)

/-- ALARM_MATCH (R145): the pulse whose increment matches the armed alarm. -/
def execAlarmMatch (p : Pulse) (s : State) : Answer := .next (if matchesAlarm p s then sourcePulse p s else s)

/-- A pulse that falls in the same internal event as another row: its body first. -/
def withPulse (p : Option Pulse) (s : State) : State :=
  match p with
  | some p => pulseBody p s
  | none => s

/-- Its occurrences once more, after that row's clearing (R150). -/
def withPulseEvents (p : Option Pulse) (s0 s : State) : State :=
  match p with
  | some p => pulseEvents p s0 s
  | none => s

end Sys2Proof.Machine
end

