-- ==== Sys2Proof/Machine/PowerRows.lean ====
section
/-!
DEFINITION. The steps that the Sequencer and the Power and Mount Controller owe after an access or a posting: the abort
steps (R39), the soft reset (R170 to R172), the entries into DOZE and HALT and the wakes from them (R157 to R159); and
the edges of GUARD_N (R129).
-/

namespace Sys2Proof.Machine

open Sys2Proof

/-- ABORT_SEQUENCER_STEPS (R39): the first internal event after the access that started the abort. -/
def execAbortSequencerSteps (s : State) : Answer :=
  .next (if windowLive s ∧ s.host.aborting then internalEvent id s else s)

/-- SOFT_RESET_ABORT_STEPS (R170). -/
def execSoftResetAbortSteps (s : State) : Answer :=
  .next (if windowLive s ∧ s.power.soft = some .abortSteps then internalEvent id s else s)

/-! ### The soft reset's tails and end -/

/-- SOFT_RESET_TAIL_SYNC (R171): once no command is DISPATCHED; and again when room for its jobs has been awaited. -/
def execSoftResetTailSync (s : State) : Answer :=
  .next (if (tailsDue s).isSome then internalEvent id s else s)

/-- The drain's conditions (R171). -/
def drained (s : State) : Bool :=
  s.write.jobs.isEmpty && s.engine.reloc.isNone && s.engine.op.isNone && s.sequencer.dispatched.isNone

/-- The final event of a soft reset (R172). EVPEND is cleared after the ROOM occurrence (R150). -/
def endSoftReset (s : State) : State :=
  { s with
    sequencer := { s.sequencer with queue := [], deferred := [], arm := none }
    cpl := CompletionQueue.empty
    rsp := ResponseBuffer.empty
    write := { s.write with staging := none }
    events := { s.events with latched := 0 }
    host := { s.host with assembler := .idle, herr := 0, flushCnt := 0 }
    power := { s.power with soft := none } }

/-- SOFT_RESET_END (R172), with a source pulse that falls in the same event. The final event is one after that in which
the last of the drain's conditions comes to hold, so that no occurrence but a pulse's falls in it with the clearing of
EVPEND: R172 leaves open which event it is (DESIGN CHOICE, log 52). The engine chooses in this event as in every other,
so a background erase may start in it: R62 ends a soft reset with an idle engine, R170 bans the erase until this event,
and R55 has the engine choose in each (DESIGN CHOICE, log 55). -/
def execSoftResetEnd (pulse : Option Pulse) (s : State) : Answer :=
  .next (
    if isAwake s && s.power.soft = some .drain && drained s then
      settle (choose (withPulseEvents pulse s (endSoftReset (withPulse pulse s))))
    else s)

/-! ### DOZE and HALT -/

/-- DOZE_ENTRY (R157). -/
def execDozeEntry (s : State) : Answer :=
  .next (if isAwake s ∧ s.power.entryDue = some .doze then internalEvent id s else s)

/-- HALT_ENTRY (R159), with a source pulse that falls in the same event: an ALARM matched in it stays pending (R150). -/
def execHaltEntry (pulse : Option Pulse) (s : State) : Answer :=
  .next (
    if isAwake s ∧ s.power.entryDue = some .halt then
      settle (choose (withPulseEvents pulse s (due (withPulse pulse s))))
    else s)

/-- DOZE_WAKE (R158): WAKE_N low, an access, or a pulse that makes an enabled ALARM or WRAP pending. The access, whatever
the latched offset, wakes a DOZE or abandons a DOZE entry that is due and is then performed whole (R19, R157). -/
def execDozeWake (source : WakeSource) (s : State) : Answer :=
  .next (
    match source with
    | .wakeN => if windowLive s ∧ s.power.state = .doze then internalEvent wake s else s
    | .access write =>
      if windowLive s ∧ (s.power.state = .doze ∨ s.power.entryDue = some .doze) then anyAccess write s else s
    | .pulse p => if windowLive s ∧ s.power.state = .doze ∧ pulseWakes p s then sourcePulse p s else s)

/-- HALT_WAKE (R159, R147): WAKE_N is low; counting resumes. -/
def execHaltWake (s : State) : Answer :=
  .next (
    if operating s ∧ s.power.state = .halt then
      internalEvent (fun s => wake { s with time := { s.time with running := true } }) s
    else s)

/-! ### GUARD_N -/

/-- The edges of GUARD_N are sampled: the device is powered and no mounting reset is in progress (R128, R169). -/
def guardSampled (s : State) : Bool := operating s

/-- A fall resets an unfrozen range in ACTIVE mode to NONE, in the states R129 names. -/
def fallRange (s : State) : Option LockRange :=
  let acts :=
    match s.power.state with
    | .pfailFlush => false
    | .dead => false
    | _ => true
  if acts && s.guard.mode = .active && !s.guard.frozen then none else s.guard.range

/-- GUARD_N_FALL (R129). -/
def execGuardNFall (s : State) : Answer :=
  .next (
    if guardSampled s && s.guard.level then
      internalEvent (fun s => { s with guard := { s.guard with level := false, range := fallRange s } }) s
    else s)

/-- GUARD_N_RISE (R129): the hold episode ends and held writes become eligible. -/
def execGuardNRise (s : State) : Answer :=
  .next (
    if guardSampled s && !s.guard.level then
      internalEvent (fun s => { s with guard := { s.guard with level := true, episode := false } }) s
    else s)

end Sys2Proof.Machine
end

