-- ==== Sys2Proof/Machine/PowerFail.lean ====
section
/-!
DEFINITION. The power-fail sequence (R160, R161): its start, the one further program, and its end in DEAD.
-/

namespace Sys2Proof.Machine

open Sys2Proof

/-- The head job as the candidate of the further program (R161). -/
def headCandidate (s : State) (j : Job) : Option Program :=
  if !s.power.flush.relocating && !s.power.flush.headFailed && !guarded s && !locked s j.segment then some (jobProgram j)
  else none

/-- The last-commit stream's tail as the candidate (R161). -/
def tailCandidate (s : State) : Option Program :=
  match s.power.lastCommit with
  | none => none
  | some n =>
    let t := streamOf s n
    match t.tail with
    | .pos p =>
      if p.unprog < p.offset ∧ !guarded s ∧ !locked s p.segment then
        some (jobProgram (remainderJob n (incarnationOf t) (topGeneration t) p).1)
      else none
    | _ => none

/-- The one further program, when HOLDUP_USE was FINISH_ONE at the fall and its one candidate meets every condition
(R161). -/
def furtherProgram (s : State) : Option Program :=
  if s.power.flush.holdup then
    match s.write.jobs with
    | j :: _ => headCandidate s j
    | [] => tailCandidate s
  else none

/-- The device enters DEAD (R160 step 5). -/
def enterDead (s : State) : State := { s with power := { s.power with state := .dead } }

/-- Steps 4 and 5 of R160. -/
def finishFlush (s : State) : State :=
  match furtherProgram s with
  | some p => { s with engine := { s.engine with op := some { who := .holdup, op := .program p } } }
  | none => enterDead s

/-- Steps 1 and 2 of R160: what the fall of PFAIL_N stops and abandons. -/
def enterFlush (s : State) : State :=
  { s with
    sequencer := { s.sequencer with dispatched := none }
    write := { s.write with staging := none }
    engine := { s.engine with request := none, reloc := none }
    catalogue := { s.catalogue with queue := [], work := none }
    power := { s.power with
      state := .pfailFlush, entryDue := none, soft := none, mount := none
      flush := { holdup := s.options.holdupUse = 1, relocating := s.engine.reloc.isSome, headFailed := false } } }

/-- The fall of PFAIL_N in the state the device is in (R159, R160). -/
def pfailFall (s : State) : State :=
  match s.power.state with
  | .halt => enterDead s
  | .pfailFlush => s
  | .dead => s
  | _ =>
    let s := enterFlush s
    if s.engine.op.isNone then finishFlush s else s

/-- POWER_FAIL_SEQUENCE (R160): PFAIL_N falls. In a mounting reset, PFAIL_FLUSH and DEAD only the level is new (R162,
R169). -/
def execPowerFailSequence (s : State) : Answer :=
  .next (
    if s.pins.supply then
      let s := { s with pins := { s.pins with pfailN := false } }
      if s.power.reset.isSome then s else pfailFall s
    else s)

/-! ### The end of an operation, in READY or RESTRICTED and in PFAIL_FLUSH -/

/-- The operation of this requester that is in progress. -/
def inProgress (who : Requester) (s : State) : Option Op :=
  if operating s then
    match s.engine.op with
    | some r => if r.who = who then some r.op else none
    | none => none
  else none

/-- The engine becomes idle. -/
def engineIdle (s : State) : State := { s with engine := { s.engine with op := none } }

/-- A PROGRAM has ended on the medium (R53, R60). -/
def programEnded (p : Program) (r : ProgramResult) (s : State) : State :=
  noteProgram r.failed (engineIdle { s with medium := s.medium.endProgram p r })

/-- An ERASE has ended on the medium (R54). -/
def eraseEnded (g : Nat) (r : EraseResult) (s : State) : State :=
  engineIdle { s with medium := s.medium.endErase g r }

/-- The event in which an operation ends: in PFAIL_FLUSH no block acts on its result (R61, R160 step 3); otherwise the
requester acts and the engine chooses again (R55). -/
def endEvent (ended inFlush act : State → State) (s : State) : State :=
  if s.power.state = .pfailFlush then settle (finishFlush (inFlush (ended s)))
  else internalEvent (fun s => act (ended s)) s

/-- HOLDUP_PROGRAM_END (R161): the result changes LASTFAIL and PREVFAIL, and the device enters DEAD. -/
def execHoldupProgramEnd (r : ProgramResult) (s : State) : Answer :=
  .next (
    match inProgress .holdup s with
    | some (.program p) => enterDead (programEnded p r s)
    | _ => s)

end Sys2Proof.Machine
end

