-- ==== Sys2Proof/Machine/EngineRows.lean ====
section
/-!
DEFINITION. The rows that end an operation of the Array Engine (R52 to R60): program jobs, relocation steps, allocation
and background erases, the catalogue writer, the ledger, and the Sequencer's READs. Each carries what the medium did.
-/

namespace Sys2Proof.Machine

open Sys2Proof

/-- Nothing more. -/
def unchanged (s : State) : State := s

/-! ### Program jobs -/

/-- The head job leaves the Program Queue. -/
def dropHead (s : State) : State := { s with write := { s.write with jobs := s.write.jobs.drop 1 } }

/-- A vault slot counts as written from the moment its program is performed (R47, R136). -/
def slotDone (j : Job) (failed : Bool) (s : State) : State :=
  if j.segment = 3 then
    { s with vault := { s.vault with
        written := if s.vault.written.contains j.frame then s.vault.written else s.vault.written ++ [j.frame]
        failed := if failed then s.vault.failed ++ [j.frame] else s.vault.failed } }
  else s

/-- A job has passed (R60). -/
def jobPassed (j : Job) (s : State) : State := releaseDeferred (advanceDurable j (slotDone j false (dropHead s)))

/-- A job has failed (R60, R105): a vault slot job leaves the queue, any other begins a relocation. -/
def jobFailed (j : Job) (s : State) : State :=
  if j.segment = 3 then releaseDeferred (spoilNamed [j] (slotDone j true (dropHead s))) else startRelocation j s

/-- What the Write Path and the Segment Manager do with a job's result. -/
def jobEnded (r : ProgramResult) (s : State) : State :=
  match s.write.jobs with
  | [] => s
  | j :: _ => if r.failed then jobFailed j s else jobPassed j s

/-- In PFAIL_FLUSH a job that passes leaves the queue, and nothing else follows (R160). -/
def jobEndedInFlush (r : ProgramResult) (s : State) : State :=
  if r.failed then { s with power := { s.power with flush := { s.power.flush with headFailed := true } } } else dropHead s

/-- PROGRAM_JOB_END (R60). -/
def execProgramJobEnd (r : ProgramResult) (s : State) : Answer :=
  .next (
    match inProgress .job s with
    | some (.program p) => endEvent (programEnded p r) (jobEndedInFlush r) (jobEnded r) s
    | _ => s)

/-! ### Relocation -/

/-- RELOCATION_ERASE_END (R106). -/
def execRelocationEraseEnd (r : EraseResult) (s : State) : Answer :=
  .next (
    match inProgress .relocation s with
    | some (.erase g) =>
      endEvent (eraseEnded g r) unchanged
        (fun s =>
          match s.engine.reloc with
          | some x => if r.failed then targetEraseFailed x s else beginCopy x s
          | none => s) s
    | _ => s)

/-- RELOCATION_READ_END (R107). -/
def execRelocationReadEnd (noise : ReadNoise) (s : State) : Answer :=
  .next (
    match inProgress .relocation s with
    | some (.read seg frame lo hi) =>
      endEvent engineIdle unchanged
        (fun s =>
          match s.engine.reloc with
          | some x => copyAfterRead x frame (readFrame s.medium seg frame lo hi noise) s
          | none => s) s
    | _ => s)

/-- RELOCATION_COPY_END (R107, R108). -/
def execRelocationCopyEnd (r : ProgramResult) (s : State) : Answer :=
  .next (
    match inProgress .relocation s with
    | some (.program p) =>
      endEvent (programEnded p r) unchanged
        (fun s =>
          match s.engine.reloc with
          | some x => if r.failed then abandonTarget x s else copyPassed x p.frame p s
          | none => s) s
    | _ => s)

/-! ### Allocation and background erase -/

/-- The COMMIT that waits for an allocation erase of this segment: the command, its stream, its attribute and the
segment's generation. -/
def allocating (g : Nat) (s : State) : Option (Dispatched × Nat × Byte × Nat) :=
  match s.sequencer.dispatched with
  | none => none
  | some d =>
    match d.phase, d.cmd with
    | .allocating x generation, .commit n attr => if x = g then some (d, n, attr, generation) else none
    | _, _ => none

/-- ALLOCATION_ERASE_END (R101). -/
def execAllocationEraseEnd (r : EraseResult) (s : State) : Answer :=
  .next (
    match inProgress .sequencer s with
    | some (.erase g) =>
      endEvent (eraseEnded g r) unchanged
        (fun s =>
          match allocating g s with
          | some (d, n, attr, generation) => allocationErased d n attr generation g r.failed s
          | none => s) s
    | _ => s)

/-- The relocation whose target's erase is still pending for this segment. -/
def erasingTarget (g : Nat) (s : State) : Option Reloc :=
  match s.engine.reloc with
  | some r => if r.stage = .eraseTarget ∧ r.target = g then some r else none
  | none => none

/-- The Sequencer's pending ERASE is answered or withdrawn unperformed (R54). -/
def dropRequest (s : State) : State := { s with engine := { s.engine with request := none } }

/-- A background erase has passed (R58): in the pool the segment becomes FREE_ERASED; a taker's own ERASE passes at
once (R54). -/
def backgroundPassed (g : Nat) (s : State) : State :=
  match allocating g s, erasingTarget g s with
  | some (d, n, attr, generation), _ => allocationErased d n attr generation g false (dropRequest s)
  | none, some r => beginCopy r s
  | none, none =>
    updSeg g (fun e => { e with state := if e.state = .freeStale then .freeErased else e.state, weak := false }) s

/-- A background erase has failed (R102): the segment is retired, a taker's ERASE is withdrawn and the taker carries
on. -/
def backgroundFailed (g : Nat) (s : State) : State :=
  match allocating g s, erasingTarget g s with
  | some (d, n, attr, generation), _ => allocationErased d n attr generation g true (dropRequest s)
  | none, some r => takeTarget r (retireErased g false s)
  | none, none => retireErased g false s

/-- BACKGROUND_ERASE_END (R58). -/
def execBackgroundEraseEnd (r : EraseResult) (s : State) : Answer :=
  .next (
    match inProgress .background s with
    | some (.erase g) =>
      endEvent (eraseEnded g r) unchanged (if r.failed then backgroundFailed g else backgroundPassed g) s
    | _ => s)

/-! ### The catalogue writer and the ledger -/

/-- CATALOGUE_ERASE_END (R112). -/
def execCatalogueEraseEnd (r : EraseResult) (s : State) : Answer :=
  .next (
    match inProgress .catalogue s with
    | some (.erase g) =>
      endEvent (eraseEnded g r) unchanged
        (fun s =>
          match s.catalogue.work with
          | some w => catalogueErased w r s
          | none => s) s
    | _ => s)

/-- CATALOGUE_PROGRAM_END (R46, R112). -/
def execCatalogueProgramEnd (r : ProgramResult) (s : State) : Answer :=
  .next (
    match inProgress .catalogue s with
    | some (.program p) =>
      endEvent (programEnded p r) unchanged
        (fun s =>
          match s.catalogue.work with
          | some w => catalogueProgrammed w r s
          | none => s) s
    | _ => s)

/-- LEDGER_PROGRAM_END (R133, R138). -/
def execLedgerProgramEnd (r : ProgramResult) (s : State) : Answer :=
  .next (
    match inProgress .ledger s with
    | some (.program p) => endEvent (programEnded p r) unchanged (ledgerProgrammed r.failed) s
    | _ => s)

/-! ### The Sequencer's READs -/

/-- ARRAY_READ_END (R52). -/
def execArrayReadEnd (noise : ReadNoise) (s : State) : Answer :=
  .next (
    match inProgress .sequencer s with
    | some (.read seg frame lo hi) => endEvent engineIdle unchanged (sequencerRead seg frame lo hi noise) s
    | _ => s)

end Sys2Proof.Machine
end

