-- ==== Sys2Proof/Machine/Resets.lean ====
section
/-!
DEFINITION. The three mounting resets (R162, R168, R169, Table 12-1): their start, their end with the sample of PFAIL_N,
and the loss of supply. While a reset is in progress `power.reset` names it and the state reads DEAD (log 22).
-/

namespace Sys2Proof.Machine

open Sys2Proof

/-- An operation in progress is cut at once (R61). -/
def cutOperation (cut : Cut) (s : State) : State :=
  match s.engine.op with
  | some r => engineIdle { s with medium := s.medium.cut r.op cut }
  | none => s

/-- The Timebase after each kind of reset (R148). The pin reset and the PFAIL recovery reset keep the alarm's value: R148
and Table 12-1 speak of its armed flag alone (DESIGN CHOICE, log 61). -/
def resetTime (kind : ResetKind) (t : Timebase) : Timebase :=
  match kind with
  | .por => Timebase.fresh
  | _ => { t with prescaler := 0, armed := false, running := true }

/-- The Guard Unit after each kind of reset (R124). A hold episode is over, also where GUARD_N stays low: R128 ends one with
a rise, and Table 12-1 does not name it (DESIGN CHOICE, log 60). -/
def resetGuard (kind : ResetKind) (locken : Bool) (g : GuardUnit) : GuardUnit :=
  match kind with
  | .por => { mode := if locken then .active else .disabled, range := none, frozen := false, level := g.level,
              episode := false }
  | _ => { g with range := if g.frozen then g.range else none, episode := false }

/-- The Event Unit from the start of a mounting reset: empty, with hold-clear in force (R149, R151, R152). -/
def heldEvents : EventUnit := { latched := 0, mask := 0, notices := [], lost := 0, holdClear := true, fresh := [] }

/-- The Power and Mount Controller from the start of a mounting reset (R168). -/
def resetPower (kind : ResetKind) (p : Power) : Power :=
  { state := .dead, remembered := none, powerOnMark := p.powerOnMark || kind = .por, lastReset := kind,
    lastCommit := none, entryDue := none, reset := some kind, soft := none, flush := PowerFail.clear, mount := none }

/-- The start of a mounting reset (R168, Table 12-1); what mount rebuilds is emptied. -/
def startReset (kind : ResetKind) (locken : Bool) (cut : Cut) (s : State) : State :=
  let s := cutOperation cut s
  { s with
    host := HostPort.fresh
    sequencer := Sequencer.fresh
    cpl := CompletionQueue.empty
    rsp := ResponseBuffer.empty
    write := { staging := none, jobs := [] }
    engine := Engine.fresh
    catalogue := Catalogue.fresh
    segments := { map := [], pool := [] }
    streams := List.replicate 8 Stream.blank
    guard := resetGuard kind locken s.guard
    vault := SealVault.fresh
    time := resetTime kind s.time
    events := heldEvents
    power := resetPower kind s.power
    options := Options.defaults }

/-- Mount begins: MOUNTING, hold-clear ends, GUARD_N is sampled, and the scan requests its first READ (R162, R169). -/
def startMount (guardN : Bool) (s : State) : State :=
  { s with
    power := { s.power with state := .mounting, reset := none, mount := some Mount.first }
    events := { s.events with holdClear := false }
    guard := { s.guard with level := guardN }
    engine := { s.engine with op := some { who := .mount, op := .read 0 0 0 512 } } }

/-- The end of a mounting reset: PFAIL_N is sampled (R162). -/
def endReset (pfailN guardN : Bool) (s : State) : State :=
  let s := { s with pins := { s.pins with pfailN := pfailN } }
  if pfailN then startMount guardN s else { s with power := { s.power with state := .dead, reset := none } }

/-- POWER_ON_RESET (R168): the supply rises into range; with RST_N high the reset ends at once, otherwise at RST_N's
rise. -/
def execPowerOnReset (locken rstN pfailN guardN : Bool) (cut : Cut) (s : State) : Answer :=
  .next (
    let s := startReset .por locken cut s
    let s := { s with pins := { rstN := rstN, pfailN := pfailN, supply := true } }
    if rstN then endReset pfailN guardN s else s)

/-- SUPPLY_LOSS (R169): the operation in progress is cut; nothing works until a power-on reset. -/
def execSupplyLoss (cut : Cut) (s : State) : Answer :=
  .next (
    if s.pins.supply then
      let s := cutOperation cut s
      { s with pins := { s.pins with supply := false } }
    else s)

/-- PIN_RESET (R168): RST_N falls. -/
def execPinReset (cut : Cut) (s : State) : Answer :=
  .next (
    if s.pins.supply && s.pins.rstN then
      let s := startReset .pin false cut s
      { s with pins := { s.pins with rstN := false } }
    else s)

/-- PIN_RESET_END (R168): RST_N rises and ends a pin reset or a held power-on reset. -/
def execPinResetEnd (pfailN guardN : Bool) (s : State) : Answer :=
  .next (
    if s.pins.supply && !s.pins.rstN && s.power.reset.isSome then
      endReset pfailN guardN { s with pins := { s.pins with rstN := true } }
    else s)

/-- PFAIL_RECOVERY_RESET (R162): PFAIL_N is high in DEAD. -/
def execPfailRecoveryReset (s : State) : Answer :=
  .next (
    if operating s ∧ s.power.state = .dead then
      let s := startReset .pfail false .nothingVisible s
      { s with pins := { s.pins with pfailN := true } }
    else s)

/-- PFAIL_RECOVERY_RESET_END (R168): the internal event after its beginning. -/
def execPfailRecoveryResetEnd (pfailN guardN : Bool) (s : State) : Answer :=
  .next (if s.pins.supply ∧ s.power.reset = some .pfail then endReset pfailN guardN s else s)

end Sys2Proof.Machine
end

