-- ==== Sys2Proof/Machine/Mounting.lean ====
section
/-!
DEFINITION. Mount (Figure 11-1, R163 to R167): what each READ of the scan adds to what mount has found, the order of
the READs (log 18), and the end of mount.
-/

namespace Sys2Proof.Machine

open Sys2Proof

/-! ### What one frame adds -/

/-- A frame is programmed by the test of R116: its label or its entry 0. -/
def frameProgrammed (f : FrameRead) : Bool := !frameErased f

/-- The higher of the best version so far and the one in this frame; at equal generations the first stands (R163). -/
def betterVersion (best : Option (Version × Nat)) (segment : Nat) (f : FrameRead) : Option (Version × Nat) :=
  match catalogueVersion f, best with
  | none, b => b
  | some v, none => some (v, segment)
  | some v, some (w, g) => if w.generation < v.generation then some (v, segment) else some (w, g)

/-- A frame of segment 0 or 1 (R163). -/
def scanCatalogue (f : FrameRead) (m : Mount) : Mount :=
  let m := { m with best := betterVersion m.best m.segment f }
  if m.segment = 0 then
    { m with top0 := if frameProgrammed f then some m.frame else m.top0
             erased0 := if m.frame = 0 then frameErased f else m.erased0 }
  else
    { m with top1 := if frameProgrammed f then some m.frame else m.top1
             erased1 := if m.frame = 0 then frameErased f else m.erased1 }

/-- Segments join the sealed set, none twice (R131). -/
def joinSealed (set : List Nat) : List SealEntry → List Nat
  | [] => set
  | e :: es => joinSealed (if set.contains e.segment then set else set ++ [e.segment]) es

/-- A frame of segment 2 (R164). -/
def scanLedger (f : FrameRead) (m : Mount) : Mount :=
  if frameProgrammed f then
    let m := { m with ledgerUsed := m.frame + 1 }
    match ledgerFrame f with
    | some (.seals es) => { m with sealedSet := joinSealed m.sealedSet es }
    | some .closing => { m with vaultClosed := true }
    | none => { m with badLowest := m.badLowest.or (some m.frame), badCount := m.badCount + 1 }
  else m

/-- A frame of segment 3 (R121, R164). -/
def scanVault (f : FrameRead) (m : Mount) : Mount :=
  if slotWritten f then { m with written := m.written ++ [m.frame] } else m

/-- The highest incarnation of the valid DATA labels read (R135, R163). -/
def noteIncarnation (f : FrameRead) (m : Mount) : Mount :=
  match f.label with
  | .valid l => if l.kind = .data then { m with dataIncarnation := max m.dataIncarnation l.incarnation } else m
  | _ => m

/-- The definition of a stream in the version found so far. -/
def foundDefn (m : Mount) (n : Nat) : Option Definition := m.best.bind (fun b => b.1.defs.getD n none)

/-- The frame 0 label and the definition of the stream it matches (R165). -/
def labelMatch (m : Mount) (f : FrameRead) : Option (Label × Definition) :=
  match f.label with
  | .valid l =>
    match foundDefn m l.stream with
    | some d =>
      if l.kind = .data ∧ l.firstOffset = some 0 ∧ l.stream < 8 ∧ l.incarnation = d.incarnation then some (l, d) else none
    | none => none
  | _ => none

/-- The candidate a matching segment is (R165, R166). -/
def asCandidate (m : Mount) (l : Label) (isSealed : Bool) (f : FrameRead) : Candidate :=
  { segment := m.segment, stream := l.stream, generation := l.generation, first := l.firstSeq, isSealed := isSealed,
    frameZero := f }

/-- Table 11-3: the class of a user segment by its frame 0. -/
def classify (f : FrameRead) (m : Mount) : Mount :=
  let retired := (m.best.map (fun b => b.1.retired)).getD []
  if retired.contains m.segment then { m with retiredSegs := m.segment :: m.retiredSegs }
  else if m.sealedSet.contains m.segment then
    match labelMatch m f with
    | some (l, _) => { m with cands := asCandidate m l true f :: m.cands }
    | none => { m with strayed := m.segment :: m.strayed }
  else if frameErased f then { m with freeErased := m.segment :: m.freeErased }
  else
    match labelMatch m f with
    | some (l, d) =>
      if d.archived then { m with freeStale := m.segment :: m.freeStale }
      else { m with cands := asCandidate m l false f :: m.cands }
    | none => { m with freeStale := m.segment :: m.freeStale }

/-! ### The bounds of a candidate (R166) -/

/-- A frame's label is valid (R118). -/
def labelValid (f : FrameRead) : Bool :=
  match f.label with
  | .valid _ => true
  | _ => false

/-- The highest of the frames, given with their numbers, that satisfies a test; 0 when none does. -/
def highest (p : FrameRead → Bool) (fs : List (Nat × FrameRead)) : Nat :=
  fs.foldl (fun h e => if p e.2 then e.1 else h) 0

/-- The portions of a last frame below its first torn one (R166). -/
def goodPortions (f : FrameRead) : List PortionRead := f.portions.takeWhile (fun p => p.grade ≠ .broken)

/-- A last frame is torn-closed (R166). -/
def tornClosed (f : FrameRead) : Bool := (goodPortions f).length < f.portions.length || f.implausible

/-- The views that mount's walk uses: the medium alone, the last frame only up to its torn-close (R166, log 19). A frame
above the last one whose label fails only by its check is left out, though its portions may be good: R166 does not say
whether its bytes are among the good ones (DESIGN CHOICE, log 62). A header that lies beyond the torn-close is not examined
and its record is not counted, as R166 ignores those bytes; the chapter's worked sequence counts such records (DESIGN
CHOICE, log 69). -/
def mountViews (top : Nat) (fs : List (Nat × FrameRead)) : List (Nat × View) :=
  (fs.filter (fun e => e.1 ≤ top)).map
    (fun e => (e.1, mediumView false (if e.1 = top then { e.2 with portions := goodPortions e.2 } else e.2)))

/-- The highest frame that supplies a start point. -/
def highestStart (vs : List (Nat × View)) : Option (Nat × Nat × Nat) :=
  vs.foldl (fun h e => match e.2.start with | some (o, q) => some (e.1, o, q) | none => h) none

/-- A record lies wholly within good portions (R166). -/
def wholeRecord (vs : List (Nat × View)) (h : Hit) : Bool :=
  match h.record with
  | some g => recordGrade vs g ≠ .broken
  | none => false

/-- The tail that the last frames of a newest entry give (R166). -/
def mountTail (segment top : Nat) (fs : List (Nat × FrameRead)) (hits : List Hit) : Tail :=
  let h := highest frameProgrammed fs
  let f := ((fs.find? (fun e => e.1 = h)).map (fun e => e.2)).getD emptyRead
  let stop := portionsEnd f.portions
  if h = top ∧ !tornClosed f ∧ 1 ≤ f.portions.length ∧ f.portions.length ≤ 3 ∧ stop < 512 then
    .pos { segment := segment, frame := h, offset := stop, portions := f.portions.length, unprog := stop,
           image := portionsBytes f.portions, header := (hits.find? (fun x => x.frame = h)).map (fun x => (x.offset, x.seq)),
           ends := [] }
  else if h < 31 then .pos (tailAt segment (h + 1))
  else .exhausted

/-- The records that a walk from a start point finds (R89, R166). -/
def hitsFrom (vs : List (Nat × View)) (stream : Nat) (start : Nat × Nat × Nat) : List Hit :=
  (walk vs stream walkFuel start.1 start.2.1 start.2.2).1

/-- The last sequence of a candidate: that of the last record found whole by the walk from the highest start point, or,
where that walk finds none, from the next lower one (log 19); one below its first sequence where it holds no whole
record (R166). -/
def lastWhole (vs : List (Nat × View)) (c : Candidate) : Nat :=
  let found := vs.reverse.findSome? (fun e =>
    e.2.start.bind (fun x => ((hitsFrom vs c.stream (e.1, x)).filter (wholeRecord vs)).getLast?))
  (found.map (fun h => h.seq)).getD (c.first - 1)

/-- The bounds of a candidate from its 32 frames, lowest first (R166). The records discarded are those of the walk from
its highest start point. -/
def boundsOf (c : Candidate) (fs : List (Nat × FrameRead)) : Bounds :=
  let top := highest labelValid fs
  let vs := mountViews top fs
  let hits := hitsFrom vs c.stream ((highestStart vs).getD (0, 0, c.first))
  { cand := c, validTop := top, last := lastWhole vs c,
    discarded := (hits.filter (fun h => !wholeRecord vs h)).length, tail := mountTail c.segment top fs hits }

/-- Frames with their numbers from 0. -/
def numberFrames (fs : List FrameRead) : List (Nat × FrameRead) := (List.range fs.length).zip fs

/-! ### The scan's order (log 18) -/

/-- The next READ of the scan, or none when it is complete. -/
def nextChainRead (m : Mount) : Option Mount :=
  match m.cands with
  | [] => none
  | c :: _ => some { m with stage := .chains, segment := c.segment, frame := 1, frames := [c.frameZero] }

/-- The scan after the READ of `m.segment` and `m.frame` returned `f`. -/
def scan (f : FrameRead) (m : Mount) : Option Mount :=
  match m.stage with
  | .catalogue =>
    let m := scanCatalogue f m
    if m.frame < 31 then some { m with frame := m.frame + 1 }
    else if m.segment = 0 then some { m with segment := 1, frame := 0 }
    else some { m with stage := .ledger, segment := 2, frame := 0 }
  | .ledger =>
    let m := scanLedger f m
    if m.frame < 31 then some { m with frame := m.frame + 1 } else some { m with stage := .vault, segment := 3, frame := 0 }
  | .vault =>
    let m := scanVault f m
    if m.frame < 31 then some { m with frame := m.frame + 1 } else some { m with stage := .classify, segment := 5, frame := 0 }
  | .classify =>
    let m := classify f (noteIncarnation f m)
    if m.segment < 1023 then some { m with segment := m.segment + 1 } else nextChainRead { m with cands := m.cands.reverse }
  | .chains =>
    let m := noteIncarnation f { m with frames := f :: m.frames }
    if m.frame < 31 then some { m with frame := m.frame + 1 }
    else
      match m.cands with
      | [] => none
      | c :: cs =>
        nextChainRead { m with cands := cs, bounds := m.bounds ++ [boundsOf c (numberFrames m.frames.reverse)], frames := [] }

/-- What the scan has found when it is complete; the last candidate's bounds are added here. -/
def scanned (f : FrameRead) (m : Mount) : Mount :=
  match m.stage with
  | .classify => classify f (noteIncarnation f m)
  | .chains =>
    let m := noteIncarnation f { m with frames := f :: m.frames }
    match m.cands with
    | [] => m
    | c :: cs => { m with cands := cs, bounds := m.bounds ++ [boundsOf c (numberFrames m.frames.reverse)] }
  | _ => m

/-! ### The end of mount (R165, R167) -/

/-- Of two candidates of one stream and generation the first is kept (R165). -/
def prevails (a b : Bounds) : Bool :=
  if a.cand.isSealed ≠ b.cand.isSealed then a.cand.isSealed
  else b.validTop < a.validTop || (a.validTop = b.validTop && a.cand.segment < b.cand.segment)

/-- A candidate loses to another of its stream and generation. -/
def loses (all : List Bounds) (b : Bounds) : Bool :=
  all.any (fun a => a.cand.stream = b.cand.stream && a.cand.generation = b.cand.generation && prevails a b)

/-- The winners of a stream by ascending generation (R165). -/
def winnersOf (all : List Bounds) (n : Nat) : List Bounds :=
  orderByKey ((all.filter (fun b => b.cand.stream = n && !loses all b)).map (fun b => (b.cand.generation, b)))

/-- A chain entry at mount (R166). -/
def chainEntry (b : Bounds) : ChainEntry :=
  { segment := b.cand.segment, generation := b.cand.generation, first := b.cand.first, last := b.last,
    isSealed := b.cand.isSealed, isRetired := false }

/-- The tail of a defined stream at mount (R166). -/
def tailAtMount (archived : Bool) (ws : List Bounds) : Tail :=
  if archived then .none
  else
    match ws.getLast? with
    | none => .none
    | some b => if b.cand.isSealed then .exhausted else b.tail

/-- A stream's entry as mount completes it (R167). -/
def mountedStream (d : Definition) (ws : List Bounds) : Stream :=
  let newest := (ws.getLast?.map (fun b => b.last)).getD 0
  let t : Stream :=
    { defn := some d
      state := if d.archived then .archived else if newest = 4294967295 then .full .sequenceEnd else .opened
      chain := ws.map chainEntry, oldest := (ws.head?.map (fun b => b.cand.first)).getD 0, newest := newest,
      durable := newest, cursor := 0, resumed := 0 < (ws.map (fun b => b.discarded)).sum,
      tail := tailAtMount d.archived ws }
  { t with cursor := cursorAtOldest t }

/-- The Stream Table at the end of mount. -/
def mountedStreams (m : Mount) : List Stream :=
  (List.range 8).map (fun n =>
    match foundDefn m n with
    | some d => mountedStream d (winnersOf m.bounds n)
    | none => Stream.blank)

/-- The Segment Map entries of a stream's chain: the newest is open unless it is SEALED (R167). -/
def chainSegments (n : Nat) : List Bounds → List (Nat × SegEntry)
  | [] => []
  | b :: bs =>
    (b.cand.segment,
      { SegEntry.free with
        state := if b.cand.isSealed then .segSealed else .owned, owner := some n, generation := b.cand.generation,
        isOpen := bs.isEmpty && !b.cand.isSealed }) :: chainSegments n bs

/-- Every segment that is not FREE_ERASED, with its entry (Table 11-3). A sealed segment that no stream claims has owner
0xFF and generation 0: Table 8-1 gives none for it (DESIGN CHOICE, log 50). -/
def mountedSegments (m : Mount) : List (Nat × SegEntry) :=
  let with_ (x : SegState) : SegEntry := { SegEntry.free with state := x }
  m.retiredSegs.map (fun g => (g, with_ .retired)) ++ m.strayed.map (fun g => (g, with_ .segSealed)) ++
  m.freeStale.map (fun g => (g, with_ .freeStale)) ++
  (m.bounds.filter (loses m.bounds)).map (fun b => (b.cand.segment, with_ .freeStale)) ++
  (List.range 8).flatMap (fun n => chainSegments n (winnersOf m.bounds n))

/-- The Segment Map from its entries. -/
def buildMap (es : List (Nat × SegEntry)) : List (Nat × SegEntry) :=
  es.foldl (fun map e => storePut (fun _ => SegEntry.free) e.1 e.2 map) []

/-- The pool in ascending segment number: every user segment that is free (R99, R165). -/
def buildPool (es : List (Nat × SegEntry)) : List Nat :=
  let used := (es.filter (fun e => e.2.state ≠ .freeStale)).map (fun e => e.1)
  (List.range' 5 1019).filter (fun g => !used.contains g)

/-- No valid version and not the factory state (R163). -/
def catalogueIsLost (m : Mount) : Bool := m.best.isNone && !(m.erased0 && m.erased1)

/-- The catalogue as mount finds it (R163). -/
def mountedCatalogue (m : Mount) : Catalogue :=
  match m.best with
  | some (v, g) =>
    { active := g, top := if g = 0 then m.top0 else m.top1, generation := v.generation, retired := v.retired, queue := [],
      work := none, dataIncarnation := m.dataIncarnation }
  | none => { Catalogue.fresh with dataIncarnation := m.dataIncarnation }

/-- The cause a mount reports (R162). -/
def mountCause (p : Power) : Nat :=
  if p.powerOnMark then 1
  else
    match p.lastReset with
    | .por => 1
    | .pin => 2
    | .pfail => 3

/-- Records discarded by mount, of the streams' chains (R166). -/
def discardedCount (m : Mount) : Nat :=
  ((List.range 8).map (fun n => ((winnersOf m.bounds n).map (fun b => b.discarded)).sum)).sum

/-- The notices of mount's end, in their own order (R167). -/
def mountNotices (m : Mount) (s : State) : State :=
  let streams := (s.streams.filter (fun t => t.defn.isSome)).length
  let s := addNotice
    { kind := .mounted, stream := 0xFF, segment := 0xFFFF, value := mountCause s.power + 256 * streams,
      value2 := discardedCount m } s
  let s :=
    match m.badLowest with
    | some k =>
      addNoticeAt (noticeRank .mounted)
        { kind := .sealPartial, stream := 0xFF, segment := 2, value := k, value2 := m.badCount } s
    | none => s
  if catalogueIsLost m then
    addNoticeAt (noticeRank .mounted)
      { kind := .restricted, stream := 0xFF, segment := 0xFFFF, value := 1, value2 := 0 } s
  else s

/-- Everything mount rebuilds (R163 to R167). -/
def rebuilt (m : Mount) (s : State) : State :=
  let es := mountedSegments m
  { s with
    streams := mountedStreams m
    segments := { map := buildMap es, pool := buildPool es }
    catalogue := mountedCatalogue m
    vault := { used := m.ledgerUsed, sealedSet := m.sealedSet, written := m.written, failed := [],
               closed := m.vaultClosed } }

/-- The event in which mount ends (R167). -/
def endMount (m : Mount) (s : State) : State :=
  let s := mountNotices m (rebuilt m s)
  let s :=
    if discardedCount m ≠ 0 ∨ mountCause s.power = 3 ∨ catalogueIsLost m then raise .media s else s
  { s with power := { s.power with
      state := .awake (if catalogueIsLost m then .restricted .catalogueLost else .ready), powerOnMark := false,
      mount := none } }

/-- A READ of the scan has returned: the next one is started, or mount ends (R56, R163 to R167). -/
def mountStep (f : FrameRead) (s : State) : State :=
  match s.power.mount with
  | none => s
  | some m =>
    match scan f m with
    | some next =>
      { s with
        power := { s.power with mount := some next }
        engine := { s.engine with op := some { who := .mount, op := .read next.segment next.frame 0 512 } } }
    | none => endMount (scanned f m) s

/-- MOUNT_READ_END (R163 to R167). -/
def execMountReadEnd (noise : ReadNoise) (s : State) : Answer :=
  .next (
    match inProgress .mount s with
    | some (.read seg frame lo hi) =>
      endEvent engineIdle unchanged (fun s => mountStep (readFrame s.medium seg frame lo hi noise) s) s
    | _ => s)

end Sys2Proof.Machine
end

