-- ==== Sys2Proof/Machine/Dispatch.lean ====
section
/-! DEFINITION. One arm for each command of the model, each a direct call of its meaning. -/

namespace Sys2Proof.Machine

open Sys2Proof

def exec (i : Instr) (s : State) : Host.Outcome State Fault Refusal :=
  match i with
  | .offsetLatch hselN ad => Sys2Proof.Machine.execOffsetLatch hselN ad s
  | .cmdinWrite b => Sys2Proof.Machine.execCmdinWrite b s
  | .cmdinRead => Sys2Proof.Machine.execCmdinRead s
  | .rspoutRead => Sys2Proof.Machine.execRspoutRead s
  | .cploutRead => Sys2Proof.Machine.execCploutRead s
  | .rsplenLowRead => Sys2Proof.Machine.execRsplenLowRead s
  | .herrRead => Sys2Proof.Machine.execHerrRead s
  | .flushcntRead => Sys2Proof.Machine.execFlushcntRead s
  | .evpendWrite b => Sys2Proof.Machine.execEvpendWrite b s
  | .evmaskWrite b => Sys2Proof.Machine.execEvmaskWrite b s
  | .ignoredWrite b => Sys2Proof.Machine.execIgnoredWrite b s
  | .abort b => Sys2Proof.Machine.execAbort b s
  | .abortSequencerSteps => Sys2Proof.Machine.execAbortSequencerSteps s
  | .softReset b => Sys2Proof.Machine.execSoftReset b s
  | .softResetAbortSteps => Sys2Proof.Machine.execSoftResetAbortSteps s
  | .softResetTailSync => Sys2Proof.Machine.execSoftResetTailSync s
  | .softResetEnd pulse => Sys2Proof.Machine.execSoftResetEnd pulse s
  | .rspDiscard b => Sys2Proof.Machine.execRspDiscard b s
  | .cplRewind b => Sys2Proof.Machine.execCplRewind b s
  | .badFrame => Sys2Proof.Machine.execBadFrame s
  | .defineStream => Sys2Proof.Machine.execDefineStream s
  | .deleteStream => Sys2Proof.Machine.execDeleteStream s
  | .queryStream => Sys2Proof.Machine.execQueryStream s
  | .trimStream => Sys2Proof.Machine.execTrimStream s
  | .append => Sys2Proof.Machine.execAppend s
  | .commit => Sys2Proof.Machine.execCommit s
  | .cancel => Sys2Proof.Machine.execCancel s
  | .sync => Sys2Proof.Machine.execSync s
  | .readRecord => Sys2Proof.Machine.execReadRecord s
  | .seek => Sys2Proof.Machine.execSeek s
  | .readNext => Sys2Proof.Machine.execReadNext s
  | .lockAll => Sys2Proof.Machine.execLockAll s
  | .unlockRange => Sys2Proof.Machine.execUnlockRange s
  | .freezeLocks => Sys2Proof.Machine.execFreezeLocks s
  | .segmentStatus => Sys2Proof.Machine.execSegmentStatus s
  | .arm => Sys2Proof.Machine.execArm s
  | .sealStream => Sys2Proof.Machine.execSeal s
  | .format => Sys2Proof.Machine.execFormat s
  | .vaultWrite => Sys2Proof.Machine.execVaultWrite s
  | .vaultRead => Sys2Proof.Machine.execVaultRead s
  | .vaultClose => Sys2Proof.Machine.execVaultClose s
  | .getOption => Sys2Proof.Machine.execGetOption s
  | .setOption => Sys2Proof.Machine.execSetOption s
  | .describe => Sys2Proof.Machine.execDescribe s
  | .identify => Sys2Proof.Machine.execIdentify s
  | .readNotices => Sys2Proof.Machine.execReadNotices s
  | .setTime => Sys2Proof.Machine.execSetTime s
  | .getTime => Sys2Proof.Machine.execGetTime s
  | .setAlarm => Sys2Proof.Machine.execSetAlarm s
  | .doze => Sys2Proof.Machine.execDoze s
  | .halt => Sys2Proof.Machine.execHalt s
  | .responseBufferWaitEnd => Sys2Proof.Machine.execResponseBufferWaitEnd s
  | .programQueueRoomWaitEnd => Sys2Proof.Machine.execProgramQueueRoomWaitEnd s
  | .barrierEnd => Sys2Proof.Machine.execBarrierEnd s
  | .dozeEntry => Sys2Proof.Machine.execDozeEntry s
  | .dozeWake source => Sys2Proof.Machine.execDozeWake source s
  | .haltEntry pulse => Sys2Proof.Machine.execHaltEntry pulse s
  | .haltWake => Sys2Proof.Machine.execHaltWake s
  | .guardNFall => Sys2Proof.Machine.execGuardNFall s
  | .guardNRise => Sys2Proof.Machine.execGuardNRise s
  | .programJobEnd r => Sys2Proof.Machine.execProgramJobEnd r s
  | .relocationEraseEnd r => Sys2Proof.Machine.execRelocationEraseEnd r s
  | .relocationReadEnd noise => Sys2Proof.Machine.execRelocationReadEnd noise s
  | .relocationCopyEnd r => Sys2Proof.Machine.execRelocationCopyEnd r s
  | .allocationEraseEnd r => Sys2Proof.Machine.execAllocationEraseEnd r s
  | .backgroundEraseEnd r => Sys2Proof.Machine.execBackgroundEraseEnd r s
  | .catalogueEraseEnd r => Sys2Proof.Machine.execCatalogueEraseEnd r s
  | .catalogueProgramEnd r => Sys2Proof.Machine.execCatalogueProgramEnd r s
  | .ledgerProgramEnd r => Sys2Proof.Machine.execLedgerProgramEnd r s
  | .arrayReadEnd noise => Sys2Proof.Machine.execArrayReadEnd noise s
  | .tickIncrement p => Sys2Proof.Machine.execTickIncrement p s
  | .counterWrap p => Sys2Proof.Machine.execCounterWrap p s
  | .alarmMatch p => Sys2Proof.Machine.execAlarmMatch p s
  | .powerFailSequence => Sys2Proof.Machine.execPowerFailSequence s
  | .holdupProgramEnd r => Sys2Proof.Machine.execHoldupProgramEnd r s
  | .powerOnReset locken rstN pfailN guardN cut => Sys2Proof.Machine.execPowerOnReset locken rstN pfailN guardN cut s
  | .supplyLoss cut => Sys2Proof.Machine.execSupplyLoss cut s
  | .pinReset cut => Sys2Proof.Machine.execPinReset cut s
  | .pinResetEnd pfailN guardN => Sys2Proof.Machine.execPinResetEnd pfailN guardN s
  | .pfailRecoveryReset => Sys2Proof.Machine.execPfailRecoveryReset s
  | .pfailRecoveryResetEnd pfailN guardN => Sys2Proof.Machine.execPfailRecoveryResetEnd pfailN guardN s
  | .mountReadEnd noise => Sys2Proof.Machine.execMountReadEnd noise s
  | .sourcePulse p => Sys2Proof.Machine.execSourcePulse p s

end Sys2Proof.Machine
end

