-- ==== Sys2Proof/Safety.lean ====
section
/-!
DEFINITION. What a safe run keeps (the invariants), and the words the statements are written in: a completion posted, a
request made, the part of the state that a choice of work leaves alone, a command ready for dispatch.
-/

namespace Sys2Proof.Machine

open Sys2Proof

/-! ### Invariants -/

/-- Completion slots in use: reserved, posted, and those of the event being taken (R24). -/
def slotsUsed (s : State) : Nat := reservedCount s + s.cpl.records.length + s.cpl.fresh.length

/-- The Host Port's and the Sequencer's bounds (R11, R12, R24). -/
structure PortSound (s : State) : Prop where
  slots : slotsUsed s ≤ 16
  frames : cmdFill s ≤ 8
  index : s.cpl.index ≤ 11
  noRecord : s.cpl.records = [] → s.cpl.index = 0

/-- The options are in the ranges of Table 12-4 and the prescaler count is below 2 raised to the divider (R141). -/
structure TimeSound (s : State) : Prop where
  policy : s.options.commitPolicy ≤ 1
  source : s.options.tickSource ≤ 3
  divider : s.options.tickDivider ≤ 7
  holdup : s.options.holdupUse ≤ 1
  damaged : s.options.damagedReads ≤ 1
  background : s.options.backgroundErase ≤ 1
  prescaler : s.time.prescaler < 2 ^ s.options.tickDivider

/-- The Notice List holds at most 8 notices and the lost counter is a byte (R152). -/
structure EventsSound (s : State) : Prop where
  notices : s.events.notices.length ≤ 8
  lost : s.events.lost ≤ 255

/-- A lock command, or none, with a legal range (Table 2-1). -/
def lockCommand : Cmd → Bool
  | .lockAll => true
  | .unlockRange _ _ _ => true
  | .freezeLocks => true
  | _ => false

/-- The lock state is legal (R124): in DISABLED the range is NONE, the flag is clear and no lock command is past its
judgement; a range lies in the user segments. -/
structure LocksSound (s : State) : Prop where
  disabled : s.guard.mode = .disabled →
    s.guard.range = none ∧ s.guard.frozen = false ∧ ∀ d, s.sequencer.dispatched = some d → lockCommand d.cmd = false
  range : ∀ r, s.guard.range = some r → 5 ≤ r.low ∧ r.low ≤ r.high ∧ r.high ≤ 1023
  params : ∀ d, s.sequencer.dispatched = some d → paramsInRange d.cmd = true

/-- The storage array and the Segment Map are in canonical form. -/
structure MediumSound (s : State) : Prop where
  medium : s.medium.wf = true
  map : storeWf (fun _ => SegEntry.free) 0 s.segments.map = true

/-- What is pending at the Array Engine comes from the Sequencer or its ledger writer (R55). -/
def EngineSound (s : State) : Prop := ∀ r, s.engine.request = some r → r.who = .sequencer ∨ r.who = .ledger

/-- The ledger's frames are counted from 0 to 32, by mount too, and a ledger program pending or in progress is one of a
ledger frame that exists (R47, R131, R133). -/
structure LedgerSound (s : State) : Prop where
  used : s.vault.used ≤ 32
  scanned : ∀ m, s.power.mount = some m → m.frame ≤ 31 ∧ m.ledgerUsed ≤ 32
  frames : ∀ r, s.engine.request = some r ∨ s.engine.op = some r → r.who = .ledger →
    ∃ p, r.op = .program p ∧ p.segment = 2 ∧ p.frame ≤ 31

/-- The catalogue writer has a version built exactly while one is requested (R46). -/
def WriterSound (s : State) : Prop := s.catalogue.work = none ↔ s.catalogue.queue = []

/-- Everything a safe run keeps. -/
structure Safe (s : State) : Prop where
  medium : MediumSound s
  engine : EngineSound s
  ledger : LedgerSound s
  writer : WriterSound s
  port : PortSound s
  time : TimeSound s
  events : EventsSound s
  locks : LocksSound s

/-- Commands executed one after another; none where one of them gives no next state. -/
def execAll : List Instr → State → Option State
  | [], s => some s
  | i :: is, s =>
    match exec i s with
    | .next t => execAll is t
    | .fault _ => none
    | .refused _ => none

/-! ### What a state shows of an event -/

/-- A completion record joined the Completion Queue, with those posted in the same event. -/
def Posts (s t : State) (c : Completion) : Prop := ∃ a b, t.cpl.records = s.cpl.records ++ a ++ c :: b

/-- A request of the Sequencer is pending at the Array Engine or is being performed. -/
def Asked (t : State) (r : Request) : Prop := t.engine.request = some r ∨ t.engine.op = some r

/-- The latched bit of an event is 1. -/
def Raised (t : State) (e : Event) : Prop := t.events.latched &&& e.bit = e.bit

/-- What neither the engine's choice of work nor the posting of completions and notices changes: all of the state but
the operation and request of the engine, the hold episode, the event bits and notices, the records, and the streams, jobs and deferred commands that a job failed by a lock takes with it (R125). -/
structure Held where
  host : HostPort
  queue : List CmdFrame
  dispatched : Option Dispatched
  arm : Option Byte
  nextId : Nat
  index : Nat
  rsp : ResponseBuffer
  staging : Option Staging
  reloc : Option Reloc
  lastFail : Bool
  prevFail : Bool
  catalogue : Catalogue
  segments : Segments
  guard : GuardUnit
  vault : SealVault
  time : Timebase
  mask : Byte
  holdClear : Bool
  power : Power
  options : Options
  pins : Pins
  medium : Medium
  pending : List Instr

/-- The held part of a state; the hold episode is blotted out. -/
def State.held (s : State) : Held :=
  { host := s.host, queue := s.sequencer.queue, dispatched := s.sequencer.dispatched, arm := s.sequencer.arm,
    nextId := s.sequencer.nextId, index := s.cpl.index, rsp := s.rsp, staging := s.write.staging,
    reloc := s.engine.reloc, lastFail := s.engine.lastFail, prevFail := s.engine.prevFail,
    catalogue := s.catalogue, segments := s.segments,
    guard := { s.guard with episode := false }, vault := s.vault, time := s.time, mask := s.events.mask,
    holdClear := s.events.holdClear, power := s.power, options := s.options, pins := s.pins, medium := s.medium,
    pending := s.pending }

/-- The head job's segment is not locked: the engine's choice fails no job (R125). -/
def NoLockedHead (s : State) : Prop := ∀ j ∈ s.write.jobs.head?, locked s j.segment = false

/-- The streams, the Program Queue and the deferred commands are as they were. -/
def SameWork (s t : State) : Prop :=
  t.streams = s.streams ∧ t.write.jobs = s.write.jobs ∧ t.sequencer.deferred = s.sequencer.deferred

/-- A stream's entry may have lost its tail and changed its state, nothing else: all that a job failed by a lock does to
it (R125). -/
def SameEntry (a b : Stream) : Prop := b = { a with state := b.state, tail := b.tail }

/-- Nothing but the command itself posts or reports in this event: the head job is not locked, the device is not guarded,
and nothing of an event is left to be placed. -/
structure Calm (s : State) : Prop where
  unlocked : NoLockedHead s
  unguarded : guarded s = false
  noCompletion : s.cpl.fresh = []
  noNotice : s.events.fresh = []

/-- An event has ended in `t`. `u` is the state before it with what the command itself changed of streams, jobs, deferred
commands, requests and what is held; `h` is the held part it leaves, and `c` the completion it posts. Beside that the
engine may have chosen work; where the event is calm, nothing else is posted, noticed or raised but ROOM. -/
structure Settled (u t : State) (h : Held) (c : Option Completion) : Prop where
  held : t.held = h
  posted : ∀ x, c = some x → Posts u t x
  guardHeld : ∀ x, c = some x → x.result = .writeProtected → u.events.holdClear = false → Raised t .guardHeld
  entries : ∀ n, SameEntry (streamOf u n) (streamOf t n)
  work : NoLockedHead u → SameWork u t
  asked : ∀ r, u.engine.request = some r → Asked t r
  bits : ∀ e, Raised u e → Raised t e
  calm : Calm u → t.cpl.records = u.cpl.records ++ c.toList ∧ t.events.notices = u.events.notices ∧
    t.events.lost = u.events.lost ∧
    ((∀ x, c = some x → x.result ≠ .writeProtected) → ∀ e, e ≠ .room → Raised t e → Raised u e)

/-! ### Dispatch -/

/-- The head of the Command Queue is this frame, which spells this command, R23 allows its dispatch, and steps 3 to 5 of
Figure 2-1 find no fault. -/
structure Dispatches (s : State) (f : CmdFrame) (c : Cmd) : Prop where
  head : goodHead s = some (f, c)
  ready : dispatchReady s = true
  accepted : dispatchFault s c = none

/-- The held part after a dispatch whose command has retired: the frame has left the queue and the arm is taken. -/
def Held.taken (h : Held) : Held :=
  { h with queue := h.queue.drop 1, dispatched := none, arm := none, nextId := h.nextId + 1 }

/-- The completion of a command with no ABORT_LATE mark. -/
def reply (f : CmdFrame) (c : Cmd) (o : Outcome) : Completion :=
  completionOf f.tag f.opcode (cmdDetail c) false o

/-- The command DISPATCHED from this frame, in this phase. -/
def dispatchedAs (s : State) (f : CmdFrame) (c : Cmd) (p : Phase) : Dispatched :=
  { newDispatched s f c with phase := p }

/-- The dispatch event of the head of `s` has ended in `t`: the frame has left the queue, the arm is taken, the command
goes on as `p` says (none: it has retired or deferred), it posts `c`, and ROOM is pending where the queue was full (R11).
`u` is as in `Settled`. -/
structure Taken (s u t : State) (p : Option Dispatched) (c : Option Completion) : Prop where
  settled : Settled u t { u.held.taken with dispatched := p } c
  room : s.sequencer.queue.length = 8 → s.host.assembler = .idle → s.events.holdClear = false → Raised t .room

/-- A phase is one of the waits before the commit point (R27). -/
def waits : Phase → Bool
  | .waitResponse => true
  | .waitRoom _ => true
  | .waitBarrier => true
  | _ => false

/-- The commands that wait for the Response Buffer (R37). -/
def responding : Cmd → Bool
  | .queryStream _ => true
  | .readRecord _ _ => true
  | .readNext _ => true
  | .segmentStatus _ => true
  | .vaultRead _ => true
  | .describe => true
  | .identify => true
  | .readNotices => true
  | _ => false

/-- What step 3 of Figure 2-2 leaves of the DISPATCHED command: ended in a wait, marked past its commit point. -/
def abortedDispatch : Option Dispatched → Option Dispatched
  | some d => if waits d.phase then none else some { d with abortLate := true }
  | none => none

/-- A soft reset, an abort or an entry due holds the Sequencer (R17, R170, R157); here none does, but what is named, and
no record is between two of its jobs (R76). -/
def soleDuty (s : State) (abort : Bool) (soft : Option SoftStep) (entry : Option Entry) : Prop :=
  s.host.aborting = abort ∧ s.power.soft = soft ∧ s.power.entryDue = entry ∧ placingDue s = none

/-- The row of the opcode table that dispatches a command. -/
def rowOf : Cmd → Instr
  | .defineStream _ _ _ _ => .defineStream
  | .deleteStream _ => .deleteStream
  | .queryStream _ => .queryStream
  | .trimStream _ _ => .trimStream
  | .append _ _ => .append
  | .commit _ _ => .commit
  | .cancel _ => .cancel
  | .sync => .sync
  | .readRecord _ _ => .readRecord
  | .seek _ _ _ => .seek
  | .readNext _ => .readNext
  | .lockAll => .lockAll
  | .unlockRange _ _ _ => .unlockRange
  | .freezeLocks => .freezeLocks
  | .segmentStatus _ => .segmentStatus
  | .arm _ _ => .arm
  | .sealStream _ _ => .sealStream
  | .format => .format
  | .vaultWrite _ _ => .vaultWrite
  | .vaultRead _ => .vaultRead
  | .vaultClose => .vaultClose
  | .getOption _ => .getOption
  | .setOption _ _ => .setOption
  | .describe => .describe
  | .identify => .identify
  | .readNotices => .readNotices
  | .setTime _ _ => .setTime
  | .getTime => .getTime
  | .setAlarm _ _ => .setAlarm
  | .doze => .doze
  | .halt => .halt

/-- The row executes the command of this frame, which completes in its dispatch event with this outcome; `u` is as in
`Settled`. -/
def Completes (i : Instr) (s : State) (f : CmdFrame) (c : Cmd) (o : Outcome) (u : State) : Prop :=
  ∃ t, exec i s = .next t ∧ Taken s u t none (some (reply f c o))

/-- The row executes the command of this frame, which is DISPATCHED in this phase when its dispatch event ends. -/
def GoesOn (i : Instr) (s : State) (f : CmdFrame) (c : Cmd) (p : Phase) (u : State) : Prop :=
  ∃ t, exec i s = .next t ∧ Taken s u t (some (dispatchedAs s f c p)) none

/-- The row that dispatches the head of the Command Queue: that of its command, or BAD_FRAME. -/
def headRow (s : State) : Instr :=
  match goodHead s with
  | some (_, c) => rowOf c
  | none => .badFrame

/-- The head of the Command Queue can be dispatched (R23). -/
def CanDispatch (s : State) : Prop := s.sequencer.queue ≠ [] ∧ dispatchReady s = true

/-- A command has deferred in the event of this row, and the machine is then `v`. Where the next frame can be dispatched it
is dispatched in the same event (R30): the event ends as that frame's own dispatch at `v` does, before which the engine has
chosen nothing. Where none can be, the event ends as `ended` says. -/
def AfterDeferral (i : Instr) (s v : State) (ended : State → Prop) : Prop :=
  ∃ t, exec i s = .next t ∧ (CanDispatch v → exec (headRow v) v = .next t) ∧ (¬ CanDispatch v → ended t)

/-- The row executes the command of this frame, which defers in its dispatch event (R30). -/
def Defers (i : Instr) (s : State) (u : State) : Prop :=
  AfterDeferral i s (takeHead none u) (fun t => Taken s u t none none)

/-- The row moves the DISPATCHED command on, and it completes with this outcome. -/
def Ends (i : Instr) (s : State) (d : Dispatched) (o : Outcome) (u : State) : Prop :=
  ∃ t, exec i s = .next t ∧ Settled u t { u.held with dispatched := none }
    (some (completionOf d.tag d.opcode (cmdDetail d.cmd) d.abortLate o))

/-- The row moves the DISPATCHED command on to this phase. -/
def Continues (i : Instr) (s : State) (d : Dispatched) (p : Phase) (u : State) : Prop :=
  ∃ t, exec i s = .next t ∧ Settled u t { u.held with dispatched := some { d with phase := p } } none

/-- The machine whose DISPATCHED command has become deferred (R30). -/
def State.deferring (s : State) (d : Dispatched) (k : DeferredKind) : State :=
  { s with sequencer := { s.sequencer with
      dispatched := none
      deferred := s.sequencer.deferred ++
        [{ id := d.id, tag := d.tag, opcode := d.opcode, kind := k, abortLate := d.abortLate, spoiled := false }] } }

/-- The row moves the DISPATCHED command on, and it defers (R30). -/
def DefersAs (i : Instr) (s : State) (d : Dispatched) (k : DeferredKind) (u : State) : Prop :=
  AfterDeferral i s (u.deferring d k) (fun t => Settled (u.deferring d k) t { u.held with dispatched := none } none)

/-- The machine with one stream's entry replaced. -/
def State.withStream (s : State) (n : Nat) (t : Stream) : State := { s with streams := s.streams.set n t }

/-- The machine with one more catalogue version requested of the catalogue writer; where none is under way, the first
one requested is built from the state as it stands (R46). -/
def State.withVersion (s : State) (v : VersionFor) : State :=
  { s with catalogue := { s.catalogue with
      queue := s.catalogue.queue ++ [v]
      work := s.catalogue.work.or (some (startWork (s.catalogue.queue.headD v) s)) } }

/-- The machine with this request pending at the Array Engine (R55). -/
def State.withRequest (s : State) (who : Requester) (op : Op) : State :=
  { s with engine := { s.engine with request := some { who := who, op := op } } }

/-- The machine with this response in the Response Buffer, its read index 0 (R38). -/
def State.withResponse (s : State) (bytes : List Byte) : State := { s with rsp := { bytes := bytes, index := 0 } }

/-- The machine with this Staging Buffer (R71). -/
def State.withStaging (s : State) (g : Option Staging) : State := { s with write := { s.write with staging := g } }

/-- The machine with this Program Queue (R59). -/
def State.withJobs (s : State) (js : List Job) : State := { s with write := { s.write with jobs := js } }

/-- The machine with one more deferred command: the one dispatched from this frame (R30). -/
def State.withDeferred (s : State) (f : CmdFrame) (k : DeferredKind) : State :=
  { s with sequencer := { s.sequencer with
      deferred := s.sequencer.deferred ++ [{ id := s.sequencer.nextId, tag := f.tag, opcode := f.opcode, kind := k,
                                             abortLate := false, spoiled := false }] } }

/-- The machine whose last-commit stream is this one (chapter 11.1). -/
def State.withLastCommit (s : State) (n : Nat) : State := { s with power := { s.power with lastCommit := some n } }

/-- A job that names one more command (R60). -/
def Job.naming (j : Job) (id : Nat) : Job := { j with released := j.released ++ [id] }

/-- The PORTION job of a tail's pending bytes, and the tail after it (R77). -/
def portionJob (t : Stream) (n : Nat) (p : TailPos) : Job :=
  tailJob n (incarnationOf t) (topGeneration t) p .portion p.offset false

/-- The FRAME job that completes the frame a tail stands in, with its pending bytes, followed by 0x00 where it is a PAD
(R76, R77). -/
def frameJob (t : Stream) (n : Nat) (p : TailPos) (pad : Bool) : Job :=
  { kind := .frame, stream := some n, segment := p.segment, frame := p.frame, portion := p.portions, lo := p.unprog,
    hi := 512, image := p.image.drop p.unprog ++ List.replicate (512 - p.offset) 0, pad := pad, damaged := false,
    label := tailLabel n (incarnationOf t) (topGeneration t) p, seqs := p.ends.map (fun e => e.2), released := [] }

/-- A tail filled to the end of its frame with the first bytes of a record that begins in it (R76). -/
def tailFilled (p : TailPos) (seq : Nat) (bytes : List Byte) : TailPos :=
  { p with
    offset := 512
    image := p.image ++ bytes.take (512 - p.offset)
    header := p.header.or (some (p.offset, seq))
    ends := if p.offset + bytes.length = 512 then p.ends ++ [(512, seq)] else p.ends }

/-- The tail in the next frame, with the rest of the record (R76). -/
def tailBeyond (p : TailPos) (seq : Nat) (rest : List Byte) : TailPos :=
  { tailAt p.segment (p.frame + 1) with
    offset := rest.length, image := rest, ends := if rest = [] then [] else [(rest.length, seq)] }

/-- The tail after its pending bytes became a portion (R77). -/
def tailCarried (p : TailPos) : TailPos := { p with portions := p.portions + 1, unprog := p.offset, ends := [] }

/-- The job that a sync makes of a tail's pending bytes, and the tail after it: a PORTION job, or, as the frame's fourth
portion, a FRAME job with PAD (R77). -/
def syncedBy (t : Stream) (n : Nat) (p : TailPos) : Job × Tail :=
  if p.portions < 3 then (portionJob t n p, .pos (tailCarried p))
  else (tailJob n (incarnationOf t) (topGeneration t) p .frame 512 true, nextFrame p)

/-- The job that a sync of a stream's tail makes. -/
def syncedJob (s : State) (n : Nat) : Option Job :=
  match (streamOf s n).tail with
  | .pos p => some (syncedBy (streamOf s n) n p).1
  | _ => none

/-- The machine after one tail was synced (R77). -/
def State.withSynced (s : State) (n : Nat) (p : TailPos) : State :=
  (s.withStream n { streamOf s n with tail := (syncedBy (streamOf s n) n p).2 }).withJobs
    (s.write.jobs ++ [(syncedBy (streamOf s n) n p).1])

/-- `u` is `s` with these tails synced, their jobs in this order behind those queued (R81). -/
structure Synced (s : State) (ns : List Nat) (u : State) : Prop where
  rest : u = { s with streams := u.streams, write := { s.write with jobs := s.write.jobs ++ ns.filterMap (syncedJob s) } }
  carried : ∀ n p, n ∈ ns → (streamOf s n).tail = .pos p →
    streamOf u n = { streamOf s n with tail := (syncedBy (streamOf s n) n p).2 }
  others : ∀ n, n ∉ ns → streamOf u n = streamOf s n

/-- The tail of a stream stands in a locked segment (R171, R124). -/
def tailLocked (s : State) (n : Nat) : Bool :=
  match (streamOf s n).tail with
  | .pos p => locked s (aliasSegment s p.segment)
  | _ => false

/-- A set to seal in groups of 31, the last holding the remainder (R133). -/
def GroupsOf31 (set : List SealEntry) (groups : List (List SealEntry)) : Prop :=
  groups.flatten = set ∧ (∀ x ∈ groups.dropLast, x.length = 31) ∧ ∀ x ∈ groups, x ≠ [] ∧ x.length ≤ 31

/-- The stream takes records: defined, and OPEN or FULL (R71, R73). -/
def takesRecords (t : Stream) : Bool :=
  t.defn.isSome && match t.state with | .opened => true | .full _ => true | _ => false

/-- The Staging Buffer holds another stream's record (R71). -/
def stagedElsewhere (s : State) (n : Nat) : Bool := s.write.staging.any (fun g => g.stream ≠ n)

/-- Steps 1 and 2 of Figure 4-1 find no fault (R73). -/
structure CommitOpen (s : State) (n : Nat) : Prop where
  takes : takesRecords (streamOf s n) = true
  staging : stagedElsewhere s n = false
  unguarded : guarded s = false

/-- The segment that takes a stream's records is not locked (R75 step 5). -/
def WriteUnlocked (s : State) (n : Nat) : Prop :=
  ∀ e, writeEntry s (streamOf s n) = some e → locked s e.segment = false

/-- COMMIT completes FULL for a reason: the stream is in FULL with it, SPACE is pending if that is new, the record stays
staged, and nothing else that is held changes (R79). -/
def CompletesFull (s : State) (f : CmdFrame) (n : Nat) (attr : Byte) (r : FullReason) : Prop :=
  ∃ t, exec .commit s = .next t ∧ t.held = s.held.taken ∧
    Posts s t (reply f (.commit n attr)
      { result := .full, value := fullCode r, aux := (streamOf s n).durable }) ∧
    (NoLockedHead s → t.streams = s.streams.set n { streamOf s n with state := .full r } ∧
      t.write.jobs = s.write.jobs) ∧
    ((streamOf s n).state ≠ .full r → s.events.holdClear = false → Raised t .space)

/-- The tail after a record of these bytes was placed at it, when it stays below the frame's end (R76). -/
def tailWith (p : TailPos) (seq : Nat) (bytes : List Byte) : TailPos :=
  { p with
    offset := p.offset + bytes.length
    image := p.image ++ bytes
    header := p.header.or (some (p.offset, seq))
    ends := p.ends ++ [(p.offset + bytes.length, seq)] }

/-- The bytes a COMMIT places: the header with the time as it stands, and the staged payload (R75). -/
def recordBytes (s : State) (n : Nat) (attr : Byte) : List Byte :=
  buildHeader s n ((streamOf s n).newest + 1) attr ++ stagedPayload s

/-- The stream's entry once the record was placed in its write segment, which had not been FULL for the last sequence. -/
def streamWith (t : Stream) (tail : Tail) : Stream :=
  { t with chain := setLast (t.newest + 1) t.chain, newest := t.newest + 1, resumed := false, tail := tail,
           state := .opened }

/-- The device is in READY or RESTRICTED, nothing is due, and the engine performs this operation for this requester. -/
structure Performs (s : State) (who : Requester) (op : Op) : Prop where
  awake : isAwake s = true
  clear : nothingDue s = true
  inProgress : inProgress who s = some op

/-- The device is MOUNTING, nothing is due, and the engine performs the READ this scan stands at. -/
structure Scans (s : State) (m : Mount) : Prop where
  operating : operating s = true
  clear : nothingDue s = true
  state : s.power.state = .mounting
  mount : s.power.mount = some m
  inProgress : s.engine.op = some { who := .mount, op := .read m.segment m.frame 0 512 }

/-- The machine whose mount scan stands at this READ (R163, R55). -/
def State.scansTo (s : State) (m : Mount) : State :=
  { s with
    power := { s.power with mount := some m }
    engine := { s.engine with op := some { who := .mount, op := .read m.segment m.frame 0 512 } } }

/-- The machine with the operation ended and nothing else. -/
def State.withIdle (s : State) : State := { s with engine := { s.engine with op := none } }

/-- The medium, LASTFAIL and PREVFAIL after a PROGRAM has ended (R53, R60). -/
structure Programmed (s t : State) (p : Program) (r : ProgramResult) : Prop where
  medium : t.medium = s.medium.endProgram p r
  lastFail : t.engine.lastFail = r.failed
  prevFail : t.engine.prevFail = s.engine.lastFail

/-- The medium and its rows: what an operation in progress may write. A READ writes nothing, a PROGRAM its range and its
frame's margin, an ERASE its segment (R52 to R54, R61). -/
structure WritesOnly (m m' : Medium) (op : Option Op) : Prop where
  nothing : (∀ x, op = some x → opWrites x = false) → m' = m
  program : ∀ p, op = some (.program p) →
    (∀ a, (a < Config.address p.segment p.frame p.lo ∨ Config.address p.segment p.frame p.lo + (p.hi - p.lo) ≤ a) →
      m'.byte a = m.byte a) ∧
    ∀ g frame, frameNumber g frame ≠ frameNumber p.segment p.frame → m'.margin g frame = m.margin g frame
  erase : ∀ g, op = some (.erase g) →
    (∀ a, (a < Config.address g 0 0 ∨ Config.address g 32 0 ≤ a) → m'.byte a = m.byte a) ∧
    ∀ h frame, frame < 32 → h ≠ g → m'.margin h frame = m.margin h frame

/-- The storage array as a cut of the operation in progress leaves it (R61). -/
def State.cutMedium (s : State) (cut : Cut) : Medium := (s.engine.op.map (fun r => s.medium.cut r.op cut)).getD s.medium

/-! ### Accesses -/

/-- A row is an access to the register at this offset (Table 1-2). -/
def accesses : Instr → BitVec 4 → Bool
  | .cmdinWrite _, o => o = 0x0
  | .cmdinRead, o => o = 0x0
  | .rspoutRead, o => o = 0x1
  | .cploutRead, o => o = 0x2
  | .rsplenLowRead, o => o = 0xA
  | .herrRead, o => o = 0xC
  | .flushcntRead, o => o = 0xD
  | .evpendWrite _, o => o = 0x5
  | .evmaskWrite _, o => o = 0x6
  | .ignoredWrite _, o => !takesWrite o
  | .abort b, o => o = 0x4 && b.getLsbD 0
  | .softReset b, o => o = 0x4 && b.getLsbD 1
  | .rspDiscard b, o => o = 0x4 && b.getLsbD 2
  | .cplRewind b, o => o = 0x4 && b.getLsbD 3
  | _, _ => false

/-- A row is a host read. -/
def isRead : Instr → Bool
  | .cmdinRead => true
  | .rspoutRead => true
  | .cploutRead => true
  | .rsplenLowRead => true
  | .herrRead => true
  | .flushcntRead => true
  | _ => false

/-- The byte an access writes; none for a read. -/
def writes : Instr → Option Byte
  | .cmdinWrite b => some b
  | .evpendWrite b => some b
  | .evmaskWrite b => some b
  | .ignoredWrite b => some b
  | .abort b => some b
  | .softReset b => some b
  | .rspDiscard b => some b
  | .cplRewind b => some b
  | _ => none

/-- The offsets whose read has no side effect (R3). -/
def plainOffset (o : BitVec 4) : Bool :=
  o ≠ 0x0 && o ≠ 0x1 && o ≠ 0x2 && o ≠ 0xA && o ≠ 0xC && o ≠ 0xD

/-- The window is live, the latch holds this offset, and the access neither wakes a DOZE nor abandons an entry. -/
structure Accessible (s : State) (o : BitVec 4) : Prop where
  live : windowLive s = true
  latched : s.host.latch = o
  noDoze : s.power.state ≠ .doze
  noEntry : s.power.entryDue ≠ some .doze

/-- A host error as it lies in the state (R4): the code in HERR, and HOSTERR pending unless events are held clear. -/
def withHostError (code : Byte) (s : State) : State :=
  { s with
    host := { s.host with herr := code }
    events := { s.events with latched := if s.events.holdClear then s.events.latched else s.events.latched ||| 0x40 } }

end Sys2Proof.Machine
end

