-- ==== Sys2Proof/Certificates/Slice0/Obligations.lean ====
section
/-!
DEFINITION. The statements for the provers. Each is a property of the device the rules of spec/ give, over every state and
operand that meets its hypotheses; the words they share (`Posts`, `Held`, `Dispatches`, `Accessible`) are in
Sys2Proof/Safety.lean.
-/

open Sys2Proof Sys2Proof.Machine

/-! ### The step, and frames as bytes -/

/-- A step takes the command at the front of the queue and executes it with the queue's rest; an empty queue idles (log
3, log 4: the queue is the model's own). -/
def Obligations.StepRunsTheFrontCommand : Prop :=
  (∀ (c : Instr) (s : State) (rest : List Instr), step { s with pending := c :: rest } = exec c { s with pending := rest }) ∧
  ∀ s : State, s.pending = [] → step s = .next s

/-- No command stops the machine: every row, on every operand and in every state, gives a next state. (That a row
whose condition does not hold leaves the state is the model's choice, log 1.) -/
def Obligations.NoCommandStopsTheMachine : Prop :=
  ∀ (c : Instr) (s : State), ∃ t, exec c s = .next t

/-- A command's payload is read back as the command, with every field at every value its width admits. No byte of an
accepted payload is ignored: what a frame spells is well formed and spells the same frame. -/
def Obligations.FramesReadBackAsWritten : Prop :=
  (∀ c : Cmd, c.wellFormed = true → decodeCmd c.code (encodePayload c) = some c) ∧
  ∀ (op : Byte) (p : List Byte) (c : Cmd),
    decodeCmd op p = some c → c.wellFormed = true ∧ c.code = op ∧ encodePayload c = p

/-- A frame of Table 2-1 written byte by byte to CMDIN joins the Command Queue as the frame that spells the command,
and the assembler is IDLE again; no host error is recorded. -/
def Obligations.FrameWrittenToCmdinIsQueued : Prop :=
  ∀ (s : State) (c : Cmd) (tag : Byte), Accessible s 0x0 → cmdRoom s = true → c.wellFormed = true →
    ∃ t, execAll ((encodeFrame c tag).map .cmdinWrite) s = some t ∧
      t.sequencer.queue = s.sequencer.queue ++
        [{ opcode := c.code, tag := tag, payload := encodePayload c, oversize := false }] ∧
      t.host = s.host ∧ t.cpl = s.cpl ∧ t.medium = s.medium

/-! ### The Host Port -/

/-- HALE falls: the latch takes AD3 to AD0 while HSEL_N is low and the window is live; a high HSEL_N or a dark window
leaves it. Nothing else changes. EVPEND clears the latched bits written 1 and no other; EVMASK takes the byte; a write
to each of the twelve other offsets but CMDIN and HCTL only records host error 4. -/
def Obligations.LatchAndRegisterWrites : Prop :=
  (∀ (s : State) (ad : Byte),
    (windowLive s = true →
      exec (.offsetLatch false ad) s = .next { s with host := { s.host with latch := ad.setWidth 4 } }) ∧
    exec (.offsetLatch true ad) s = .next s ∧
    (windowLive s = false → exec (.offsetLatch false ad) s = .next s)) ∧
  ∀ (s : State) (b : Byte),
    (Accessible s 0x5 →
      exec (.evpendWrite b) s = .next { s with events := { s.events with latched := s.events.latched &&& ~~~ b } }) ∧
    (Accessible s 0x6 → exec (.evmaskWrite b) s = .next { s with events := { s.events with mask := b } }) ∧
    (∀ o : BitVec 4, o ≠ 0x0 → o ≠ 0x4 → o ≠ 0x5 → o ≠ 0x6 → Accessible s o →
      exec (.ignoredWrite b) s = .next (withHostError 4 s))

/-- A byte written to CMDIN, by the state of the Command Assembler: a first byte with room, a first byte without room
(host error 1), a byte of the header, the byte that completes the header, a byte of a payload, a byte of an oversize
frame; and nothing else changes. A frame that completes frees CMD_ROOM when fewer than 8 frames wait, and ROOM is
signalled. The byte that completes a frame puts it at the end of the Command Queue: an empty payload when the length is
0, the bytes collected, or an oversize mark; ROOM is then pending when CMD_ROOM has become 1. -/
def Obligations.CmdinByteByAssemblerState : Prop :=
  (∀ (s : State) (b : Byte), Accessible s 0x0 →
    (s.host.assembler = .idle → cmdRoom s = true →
      exec (.cmdinWrite b) s = .next { s with host := { s.host with assembler := .header [b] } }) ∧
    (s.host.assembler = .idle → cmdRoom s = false → exec (.cmdinWrite b) s = .next (withHostError 1 s)) ∧
    (∀ l : List Byte, s.host.assembler = .header l → l.length < 3 →
      exec (.cmdinWrite b) s = .next { s with host := { s.host with assembler := .header (l ++ [b]) } }) ∧
    (∀ op tag low : Byte, s.host.assembler = .header [op, tag, low] → 513 < low.toNat + 256 * b.toNat →
      exec (.cmdinWrite b) s =
        .next { s with host := { s.host with assembler := .discard op tag (low.toNat + 256 * b.toNat) 0 } }) ∧
    (∀ op tag low : Byte, s.host.assembler = .header [op, tag, low] → 1 ≤ low.toNat + 256 * b.toNat →
      low.toNat + 256 * b.toNat ≤ 513 →
      exec (.cmdinWrite b) s =
        .next { s with host := { s.host with assembler := .payload op tag (low.toNat + 256 * b.toNat) [] } }) ∧
    (∀ op tag : Byte, ∀ n : Nat, ∀ l : List Byte, s.host.assembler = .payload op tag n l → l.length + 1 < n →
      exec (.cmdinWrite b) s = .next { s with host := { s.host with assembler := .payload op tag n (l ++ [b]) } }) ∧
    (∀ op tag : Byte, ∀ n k : Nat, s.host.assembler = .discard op tag n k → k + 1 < n →
      exec (.cmdinWrite b) s = .next { s with host := { s.host with assembler := .discard op tag n (k + 1) } })) ∧
  ∀ (s : State) (b : Byte) (f : CmdFrame), Accessible s 0x0 → s.host.aborting = false → s.power.soft = none →
    s.events.holdClear = false →
    ((s.host.assembler = .header [f.opcode, f.tag, 0] ∧ b = 0 ∧ f.payload = [] ∧ f.oversize = false) ∨
      (∃ n l, s.host.assembler = .payload f.opcode f.tag n l ∧ n ≤ l.length + 1 ∧ f.payload = l ++ [b] ∧
        f.oversize = false) ∨
      (∃ n k, s.host.assembler = .discard f.opcode f.tag n k ∧ n ≤ k + 1 ∧ f.payload = [] ∧ f.oversize = true)) →
    exec (.cmdinWrite b) s = .next
      { s with
        host := { s.host with assembler := .idle }
        sequencer := { s.sequencer with queue := s.sequencer.queue ++ [f] }
        events := { s.events with latched :=
          if s.sequencer.queue.length < 7 then s.events.latched ||| 0x02 else s.events.latched } }

/-- The reads with a side effect: each puts the register's value before the access on AD7 to AD0 and then changes only
what its rule names. CMDIN reads 0x00 and records host error 5; RSPLEN's low byte captures the whole length; HERR and
FLUSHCNT clear. RSPOUT: the byte at the read index and the index on by one; the last byte empties the buffer; an empty
buffer reads 0x00 and records host error 2. Every register's value while the window is live: HSTAT bit by bit, HCTL, EVPEND with
CPL following the Completion Queue, EVMASK, EVCAUSE by the priority of Table 10-1, the fill counts, RSPLEN, DEVSTATE and
SPACEMAP; IRQ_N is driven low exactly while the window is live and an enabled event is pending. (ARRAY_IDLE while other
work is held: log 51. A plain read is no row of its own: log 21.) -/
def Obligations.ReadsAndTheirSideEffects : Prop :=
  ((∀ s : State,
    (Accessible s 0x0 →
      exec .cmdinRead s = .next (withHostError 5 { s with host := { s.host with dataOut := 0x00 } })) ∧
    (Accessible s 0xA →
      exec .rsplenLowRead s = .next { s with host := { s.host with
        dataOut := BitVec.ofNat 8 (rspLeft s), rspHold := BitVec.ofNat 16 (rspLeft s) } }) ∧
    (Accessible s 0xC →
      exec .herrRead s = .next { s with host := { s.host with dataOut := s.host.herr, herr := 0 } }) ∧
    (Accessible s 0xD →
      exec .flushcntRead s = .next { s with host := { s.host with dataOut := s.host.flushCnt, flushCnt := 0 } })) ∧
  ∀ s : State, Accessible s 0x1 →
    (s.rsp.bytes = [] →
      exec .rspoutRead s = .next (withHostError 2 { s with host := { s.host with dataOut := 0x00 } })) ∧
    (∀ b : Byte, s.rsp.bytes[s.rsp.index]? = some b → s.rsp.index + 1 < s.rsp.bytes.length →
      exec .rspoutRead s = .next { s with
        host := { s.host with dataOut := b }
        rsp := { s.rsp with index := s.rsp.index + 1 } }) ∧
    (∀ b : Byte, s.rsp.bytes[s.rsp.index]? = some b → s.rsp.index + 1 = s.rsp.bytes.length →
      exec .rspoutRead s = .next { s with
        host := { s.host with dataOut := b }
        rsp := { bytes := [], index := 0 } })) ∧
  (∀ s : State, windowLive s = true →
    (∀ b, b = hostRead s 0x3 →
      (b.getLsbD 0 = true ↔
        s.host.assembler = .idle ∧ s.sequencer.queue.length < 8 ∧ s.host.aborting = false ∧ s.power.soft = none) ∧
      (b.getLsbD 1 = true ↔ s.cpl.records ≠ []) ∧ (b.getLsbD 2 = true ↔ s.rsp.index < s.rsp.bytes.length) ∧
      (b.getLsbD 3 = true ↔ s.write.staging = none) ∧
      (b.getLsbD 4 = true ↔ s.write.jobs = [] ∧ s.engine.op = none ∧ s.engine.reloc = none) ∧
      b.getLsbD 5 = s.engine.lastFail ∧ b.getLsbD 6 = s.engine.prevFail ∧ b.getLsbD 7 = false) ∧
    (∀ b, b = hostRead s 0x4 →
      b.getLsbD 0 = s.host.aborting ∧ (b.getLsbD 1 = true ↔ s.power.soft ≠ none) ∧ b &&& 0xFC = 0) ∧
    (∀ b, b = hostRead s 0x5 →
      (b.getLsbD 0 = true ↔ s.cpl.records ≠ []) ∧ ∀ k, 1 ≤ k → b.getLsbD k = s.events.latched.getLsbD k) ∧
    hostRead s 0x6 = s.events.mask ∧
    (∀ a, a = hostRead s 0x5 &&& s.events.mask →
      (a = 0 → hostRead s 0x7 = 0) ∧
      ∀ bit code above, (bit, code, above) ∈
        [(7, 8, []), (6, 7, [7]), (5, 6, [7, 6]), (4, 5, [7, 6, 5]), (2, 3, [7, 6, 5, 4]), (3, 4, [7, 6, 5, 4, 2]),
         (1, 2, [7, 6, 5, 4, 3, 2]), (0, 1, [7, 6, 5, 4, 3, 2, 1])] →
        a.getLsbD bit = true → (∀ k ∈ above, a.getLsbD k = false) → hostRead s 0x7 = BitVec.ofNat 8 code) ∧
    hostRead s 0x8 = BitVec.ofNat 8 (s.sequencer.queue.length + if s.host.assembler = .idle then 0 else 1) ∧
    hostRead s 0x9 = BitVec.ofNat 8 s.cpl.records.length ∧
    hostRead s 0xA = BitVec.ofNat 8 (s.rsp.bytes.length - s.rsp.index) ∧
    (hostRead s 0xB).toNat = s.host.rspHold.toNat / 256 ∧ hostRead s 0xC = s.host.herr ∧
    hostRead s 0xD = s.host.flushCnt ∧
    (s.power.state = .mounting → hostRead s 0xE = 0) ∧ (s.power.state = .awake .ready → hostRead s 0xE = 1) ∧
    (s.power.state = .awake (.restricted .catalogueLost) → hostRead s 0xE = 2) ∧
    (s.power.state = .awake (.restricted .wornOut) → hostRead s 0xE = 3) ∧
    (s.streams.length = 8 →
      ∀ n, n < 8 → ((hostRead s 0xF).getLsbD n = true ↔ ∃ r, (streamOf s n).state = .full r))) ∧
  ∀ s : State,
    (irqAsserted s = true ↔
      windowLive s = true ∧ ∃ k, (hostRead s 0x5).getLsbD k = true ∧ s.events.mask.getLsbD k = true) ∧
    (windowLive s = false → ∀ o, hostRead s o = 0xFF)

/-- CPLOUT by the state of the queue: the byte at the index; an empty queue reads 0x00 and records host error 3. Twelve
reads of CPLOUT from index 0 return the head record byte by byte and pop it; the records behind it, and all else, are
as they were. -/
def Obligations.CploutReadsAndPopsTheHead : Prop :=
  (∀ s : State, Accessible s 0x2 →
    (s.cpl.records = [] →
      exec .cploutRead s = .next (withHostError 3 { s with host := { s.host with dataOut := 0x00 } })) ∧
    (∀ c rest, s.cpl.records = c :: rest → s.cpl.index < 11 →
      exec .cploutRead s = .next { s with
        host := { s.host with dataOut := (completionBytes c).getD s.cpl.index 0 }
        cpl := { s.cpl with index := s.cpl.index + 1 } }) ∧
    (∀ c rest, s.cpl.records = c :: rest → s.cpl.index = 11 →
      exec .cploutRead s = .next { s with
        host := { s.host with dataOut := (completionBytes c).getD 11 0 }
        cpl := { s.cpl with records := rest, index := 0 } })) ∧
  ∀ (s : State) (c : Completion) (rest : List Completion), Accessible s 0x2 → s.cpl.records = c :: rest →
    s.cpl.index = 0 →
    (∀ k : Nat, k < 12 →
      execAll (List.replicate (k + 1) .cploutRead) s = some
        { s with
          host := { s.host with dataOut := (completionBytes c).getD k 0 }
          cpl := if k < 11 then { s.cpl with index := k + 1 } else { s.cpl with records := rest, index := 0 } })

/-- In HALT, PFAIL_FLUSH and DEAD, and in a mounting reset, the window is dark: a read returns 0xFF, a write does
nothing, and no state changes otherwise. In DOZE an access first wakes the device to its remembered state and is then
performed as in that state; the wake itself changes nothing else of what is held. Between the completion of a DOZE and
its entry an access abandons the entry and is performed in the state the device is in; a write of SRST, judged as it
finds the device, does nothing but that. Both hold of every access: the rows of one register, a read without a side
effect of its own, and a write of HCTL that writes no 1 to its four bits. (The row DOZE_WAKE carries such accesses: log
21.) -/
def Obligations.AccessesInTheDarkAndInDoze : Prop :=
  (∀ (i : Instr) (s : State), windowLive s = false → accesses i s.host.latch = true →
    exec i s = .next (if isRead i then { s with host := { s.host with dataOut := 0xFF } } else s)) ∧
  (∀ (i : Instr) (s : State), windowLive s = true → s.power.state = .doze → nothingDue s = true →
    ∃ u, u.held = { s.held with power := { s.power with state := .awake (s.power.remembered.getD .ready) } } ∧
      (accesses i s.host.latch = true →
        exec i s = exec i u ∧ exec (.dozeWake (.access (writes i))) s = exec i u) ∧
      (plainOffset s.host.latch = true →
        exec (.dozeWake (.access none)) s =
          .next { u with host := { u.host with dataOut := hostRead u u.host.latch } }) ∧
      (∀ b : Byte, s.host.latch = 0x4 → b &&& 0x0F = 0 → exec (.dozeWake (.access (some b))) s = .next u)) ∧
  ∀ (i : Instr) (s u : State), windowLive s = true → s.power.state ≠ .doze → s.power.entryDue = some .doze →
    u = { s with power := { s.power with entryDue := none } } →
    (accesses i s.host.latch = true → (∀ b, writes i = some b → s.host.latch = 0x4 → b.getLsbD 1 = false) →
      exec i s = exec i u ∧ exec (.dozeWake (.access (writes i))) s = exec i u) ∧
    (plainOffset s.host.latch = true →
      exec (.dozeWake (.access none)) s =
        .next { u with host := { u.host with dataOut := hostRead u u.host.latch } }) ∧
    ∀ b : Byte, s.host.latch = 0x4 →
      (b.getLsbD 1 = true → exec (.softReset b) s = .next u ∧ exec (.dozeWake (.access (some b))) s = .next u) ∧
      (b &&& 0x0F = 0 → exec (.dozeWake (.access (some b))) s = .next u)

/-- A byte written to HCTL with SRST 0: ABORT discards the frame in the assembler and every queued frame, counts them
in FLUSHCNT up to 255 and then reads 1, unless an abort or a soft reset is in progress; RSP_DISCARD empties the
Response Buffer; CPL_REWIND sets the byte index to 0; the upper bits do nothing and no error is recorded. -/
def Obligations.HctlActsOnTheBitsWrittenOne : Prop :=
  ∀ (s : State) (b : Byte) (i : Instr), Accessible s 0x4 → b.getLsbD 1 = false →
    (i = .abort b ∧ b.getLsbD 0 = true ∨ i = .rspDiscard b ∧ b.getLsbD 2 = true ∨
      i = .cplRewind b ∧ b.getLsbD 3 = true) →
    exec i s = .next
      { s with
        host :=
          if b.getLsbD 0 ∧ s.host.aborting = false ∧ s.power.soft = none then
            { s.host with assembler := .idle, aborting := true,
                          flushCnt := BitVec.ofNat 8 (min 255 (s.host.flushCnt.toNat + cmdFill s)) }
          else s.host
        sequencer :=
          if b.getLsbD 0 ∧ s.host.aborting = false ∧ s.power.soft = none then { s.sequencer with queue := [] }
          else s.sequencer
        rsp := if b.getLsbD 2 then { bytes := [], index := 0 } else s.rsp
        cpl := if b.getLsbD 3 then { s.cpl with index := 0 } else s.cpl }

/-- RSP_DISCARD alone empties the buffer and changes nothing else: no completion is removed, RSP_AVAIL reads 0, an
empty buffer stays, and no error is recorded. A response-producing command that waited for the buffer then leaves its
wait in the event that finds the buffer empty. -/
def Obligations.RspDiscardEmptiesTheBuffer : Prop :=
  ∀ s : State, Accessible s 0x4 →
    ∃ t, exec (.rspDiscard 0x04) s = .next t ∧ t = { s with rsp := { bytes := [], index := 0 } } ∧
      rspLeft t = 0 ∧ (hstat t).getLsbD 2 = false ∧ t.cpl.records = s.cpl.records ∧
      (s.rsp = { bytes := [], index := 0 } → t = s) ∧
      ∀ d, waiting s = some d → d.phase = .waitResponse → responding d.cmd = true →
        ∃ u, exec .responseBufferWaitEnd t = .next u ∧
          ∀ x, u.sequencer.dispatched = some x → x.id = d.id ∧ waits x.phase = false

/-- CPL_REWIND alone sets the byte index to 0 and changes nothing else; twelve reads then return the whole head record
again; and every reset leaves the index at 0. -/
def Obligations.CplRewindRestartsTheHeadRecord : Prop :=
  (∀ s : State, Accessible s 0x4 →
    exec (.cplRewind 0x08) s = .next { s with cpl := { s.cpl with index := 0 } } ∧
    (s.cpl.index = 0 → exec (.cplRewind 0x08) s = .next s)) ∧
  (∀ (s : State) (c : Completion) (rest : List Completion), Accessible s 0x4 → s.cpl.records = c :: rest →
    ∃ t, execAll [.cplRewind 0x08, .offsetLatch false 0x02] s = some t ∧ t.cpl.records = s.cpl.records ∧
      ∀ k, k < 12 → ∃ u, execAll (List.replicate (k + 1) .cploutRead) t = some u ∧
        u.host.dataOut = (completionBytes c).getD k 0) ∧
  ∀ (i : Instr) (s t : State), exec i s = .next t →
    (∃ locken rstN pfailN guardN cut, i = .powerOnReset locken rstN pfailN guardN cut) ∨
      (∃ cut, i = .pinReset cut ∧ s.pins.supply = true ∧ s.pins.rstN = true) ∨
      (i = .pfailRecoveryReset ∧ operating s = true ∧ s.power.state = .dead) ∨
      (∃ p, i = .softResetEnd p ∧ isAwake s = true ∧ s.power.soft = some .drain ∧ drained s = true) →
    t.cpl.index = 0

/-- A byte written to HCTL with SRST 1: in READY and RESTRICTED with no entry due it begins a soft reset with the
abort's host-side steps, absorbing an abort in progress; in MOUNTING, before a HALT entry and while a soft reset is in
progress it does nothing; the other bits of the byte have no effect of their own, whichever row of HCTL carries it.
(That they have none where SRST is ignored is the model's choice, log 20, and so is the access in which ABORT reads 0
again where an abort is absorbed, log 54.) -/
def Obligations.SrstBeginsASoftResetOrIsIgnored : Prop :=
  ∀ (s : State) (b : Byte) (i : Instr), Accessible s 0x4 → b.getLsbD 1 = true →
    (i = .softReset b ∨ i = .abort b ∧ b.getLsbD 0 = true ∨ i = .rspDiscard b ∧ b.getLsbD 2 = true ∨
      i = .cplRewind b ∧ b.getLsbD 3 = true) →
    (isAwake s = true → s.power.entryDue = none → s.power.soft = none →
      exec i s = .next
        { s with
          host := { s.host with assembler := .idle, aborting := false,
                                flushCnt := BitVec.ofNat 8 (min 255 (s.host.flushCnt.toNat + cmdFill s)) }
          sequencer := { s.sequencer with queue := [] }
          power := { s.power with soft := some .abortSteps } }) ∧
    (s.power.state = .mounting ∨ s.power.entryDue = some .halt ∨ s.power.soft ≠ none → exec i s = .next s)

/-! ### Abort and soft reset -/

/-- The Sequencer's part of an abort, in the event after the access: a command in a wait ends ABORTED, one past its
commit point is marked; the Staging Buffer is emptied unless a COMMIT owns it, the Response Buffer and the arm are
cleared; ABORT then reads 0, and ROOM is pending when CMD_ROOM is 1. The abort within a soft reset does the same but
for ROOM, and the tails are judged next. (That a wait lasts until the row that ends it is taken, also where what it waits
for is there: log 68.) -/
def Obligations.AbortEndsInTheNextEvent : Prop :=
  (∀ s : State, windowLive s = true → soleDuty s true none none →
    ∃ t, exec .abortSequencerSteps s = .next t ∧
      t.held = { s.held with
        host := { s.host with aborting := false }, dispatched := abortedDispatch s.sequencer.dispatched, arm := none
        rsp := { bytes := [], index := 0 }, staging := s.write.staging.filter (fun g => g.owned) } ∧
      (∀ d, s.sequencer.dispatched = some d → waits d.phase = true →
        Posts s t (completionOf d.tag d.opcode (cmdDetail d.cmd) d.abortLate { result := .aborted })) ∧
      (s.host.assembler = .idle → s.sequencer.queue.length < 8 → s.events.holdClear = false → Raised t .room) ∧
      (NoLockedHead s → SameWork s t)) ∧
  ∀ s : State, windowLive s = true → soleDuty s false (some .abortSteps) none →
    ∃ t, exec .softResetAbortSteps s = .next t ∧
      t.held = { s.held with
        dispatched := abortedDispatch s.sequencer.dispatched, arm := none
        rsp := { bytes := [], index := 0 }, staging := s.write.staging.filter (fun g => g.owned)
        power := { s.power with soft := some .judgeTails } } ∧
      (∀ d, s.sequencer.dispatched = some d → waits d.phase = true →
        Posts s t (completionOf d.tag d.opcode (cmdDetail d.cmd) d.abortLate { result := .aborted })) ∧
      (NoLockedHead s → SameWork s t)

/-- The soft reset's tails, once no command is DISPATCHED. Unguarded and with the locks DISABLED each pending tail is
programmed: its job joins the queue and the drain begins, or, where the queue has no room for all of them, that room is
awaited. Guarded, each pending tail is discarded and no job is made. The first internal event that finds no command
DISPATCHED judges them, whatever its row: a fall of GUARD_N takes effect after the tails were programmed. Unguarded in
any lock mode, a tail in a locked segment is discarded, EXHAUSTED and named by a TAIL_DISCARDED notice, and the others are
programmed, in ascending stream order, or await room. (That they are judged before the rest of that event: log 35. The
segment of a tail while a relocation waits for its version: log 27.) -/
def Obligations.SoftResetProgramsOrDiscardsTails : Prop :=
  (∀ s : State, isAwake s = true → soleDuty s false (some .judgeTails) none → s.sequencer.dispatched = none →
    guarded s = false → NoLockedHead s →
    ∀ good bad, good = (pendingStreams s).filter (fun n => !tailLocked s n) →
      bad = (pendingStreams s).filter (fun n => tailLocked s n) →
      ∃ t, exec .softResetTailSync s = .next t ∧ t.medium = s.medium ∧
        (∀ n ∈ bad, streamOf t n = { streamOf s n with tail := .exhausted }) ∧
        (∀ n, n ∉ pendingStreams s → streamOf t n = streamOf s n) ∧
        (good.length ≤ programRoom s →
          t.power.soft = some .drain ∧ t.write.jobs = s.write.jobs ++ good.filterMap (syncedJob s) ∧
          ∀ n p, n ∈ good → (streamOf s n).tail = .pos p →
            streamOf t n = { streamOf s n with tail := (syncedBy (streamOf s n) n p).2 }) ∧
        (programRoom s < good.length →
          t.power.soft = some (.room good) ∧ t.write.jobs = s.write.jobs ∧
          ∀ n ∈ good, streamOf t n = streamOf s n) ∧
        (s.events.holdClear = false → s.events.fresh = [] → s.events.notices.length + bad.length ≤ 8 →
          ∃ told, t.events.notices = s.events.notices ++ told ∧ told.map (fun x => x.stream) = bad ∧
            ∀ x ∈ told, x.kind = .tailDiscarded ∧
              ∀ p, (streamOf s x.stream).tail = .pos p →
                x.segment = aliasSegment s p.segment ∧ x.value = p.offset - p.unprog ∧ x.value2 = p.frame)) ∧
  ∀ s : State, isAwake s = true → soleDuty s false (some .judgeTails) none → s.sequencer.dispatched = none →
    (s.guard.mode = .disabled → guarded s = false → (pendingStreams s).length ≤ programRoom s →
      ∃ t, exec .softResetTailSync s = .next t ∧ t.power.soft = some .drain ∧
        t.write.jobs.length = s.write.jobs.length + (pendingStreams s).length ∧ s.write.jobs <+: t.write.jobs ∧
        pendingStreams t = [] ∧ t.medium = s.medium) ∧
    (s.guard.mode = .disabled → guarded s = false → programRoom s < (pendingStreams s).length →
      ∃ t, exec .softResetTailSync s = .next t ∧ t.power.soft = some (.room (pendingStreams s)) ∧ SameWork s t ∧
        t.medium = s.medium) ∧
    (guarded s = true →
      ∃ t, exec .softResetTailSync s = .next t ∧ t.power.soft = some .drain ∧ t.write.jobs = s.write.jobs ∧
        pendingStreams t = [] ∧ t.medium = s.medium) ∧
    (s.guard.mode = .disabled → guarded s = false → (pendingStreams s).length ≤ programRoom s →
      ∃ t, exec .guardNFall s = .next t ∧ guarded t = true ∧ t.power.soft = some .drain ∧
        t.write.jobs.length = s.write.jobs.length + (pendingStreams s).length ∧ s.write.jobs <+: t.write.jobs ∧
        pendingStreams t = [] ∧ t.medium = s.medium)

/-- The last event of a soft reset, when the queue, the engine and the Sequencer are at rest: what R172 names is
cleared, SRST reads 0, and nothing else that is held changes but the time of a source pulse that falls in the event;
that pulse's WRAP and ALARM stay pending. (A pulse in the same event is an operand: log 24. Which event is the last:
log 52; a background erase that starts in it: log 55.) -/
def Obligations.SoftResetEndsWithEverythingEmpty : Prop :=
  ∀ (s : State) (p : Option Pulse), isAwake s = true → s.power.soft = some .drain → drained s = true →
    ∃ t, exec (.softResetEnd p) s = .next t ∧
      t.held = { s.held with
        host := { s.host with assembler := .idle, herr := 0, flushCnt := 0 }
        queue := [], arm := none, index := 0, rsp := { bytes := [], index := 0 }, staging := none
        time := p.elim s.time (fun x => pulseTime x s), power := { s.power with soft := none } } ∧
      t.cpl.records = [] ∧ t.sequencer.deferred = [] ∧ t.streams = s.streams ∧
      (guarded s = false → p = none → t.events.latched = 0) ∧
      (s.events.holdClear = false → ∀ x, p = some x →
        (wraps x s = true → Raised t .wrap) ∧ (matchesAlarm x s = true → Raised t .alarm))

/-! ### Dispatch -/

/-- A malformed frame at the head posts BAD_FRAME with its own tag and opcode and takes the arm. The checks every
command passes, in their order: the device state, the arm, the parameters. The first fault is the outcome; the command
does nothing else, and the arm is taken. It holds of all 31 commands. -/
def Obligations.DispatchPostsItsFirstFault : Prop :=
  (∀ (s : State) (f : CmdFrame) (rest : List CmdFrame), s.sequencer.queue = f :: rest →
    f.oversize = true ∨ decodeCmd f.opcode f.payload = none → dispatchReady s = true →
    ∃ t, exec .badFrame s = .next t ∧ Taken s s t none (some (completionOf f.tag f.opcode 0 false { result := .badFrame }))) ∧
  ∀ (s : State) (f : CmdFrame) (c : Cmd), goodHead s = some (f, c) → dispatchReady s = true →
    ((∃ x, s.power.state = .awake (.restricted x) ∧ refusedIn x c = true) →
      ∃ t, exec (rowOf c) s = .next t ∧ Taken s s t none (some (reply f c { result := .refusedState }))) ∧
    ((∀ x, s.power.state = .awake (.restricted x) → refusedIn x c = false) →
      (needsArm c = true → s.sequencer.arm ≠ some c.code →
        ∃ t, exec (rowOf c) s = .next t ∧ Taken s s t none (some (reply f c { result := .notArmed }))) ∧
      ((needsArm c = true → s.sequencer.arm = some c.code) → paramsInRange c = false →
        ∃ t, exec (rowOf c) s = .next t ∧ Taken s s t none (some (reply f c { result := .badParam }))))

/-- A command that produces a response waits, with its frame taken, while the Response Buffer holds bytes; it keeps
its tag, its parameters and the COMMIT_POLICY of its dispatch. A command that waits for the Response Buffer goes on in
the first event that finds it empty, and not before, as it does at a dispatch that finds it empty: QUERY STREAM answers the
record its dispatch would give; READ RECORD and READ NEXT complete, deliver from the tail or begin their lookup; SEGMENT
STATUS answers or begins its count; VAULT READ answers from the job or as BLANK, or requests its READ; DESCRIBE and
IDENTIFY request theirs; READ NOTICES takes the list. (The row changes nothing before that: log 1. The order of a lookup's
READs: log 16. The event in which READ NEXT moves its cursor: log 46. The range of the READs of SEGMENT STATUS: log 59. A
notice added in the event of READ NOTICES: log 66.) -/
def Obligations.ResponseCommandsWaitForTheBuffer : Prop :=
  (∀ (s : State) (f : CmdFrame) (c : Cmd), Dispatches s f c → responding c = true → s.rsp.bytes ≠ [] →
    ∃ t, exec (rowOf c) s = .next t ∧ Taken s s t (some (dispatchedAs s f c .waitResponse)) none) ∧
  ∀ (s : State) (d : Dispatched), waiting s = some d → d.phase = .waitResponse →
    (s.rsp.bytes ≠ [] → exec .responseBufferWaitEnd s = .next s) ∧
    (s.rsp.bytes = [] →
      (∀ n, d.cmd = .queryStream n →
        ∃ bytes, Ends .responseBufferWaitEnd s d { result := .done, response := true, value := 48 }
            (s.withResponse bytes) ∧
          ((streamOf s n).defn = none → bytes = BitVec.ofNat 8 n :: List.replicate 47 0) ∧
          ∀ (x : State) (f : CmdFrame), Dispatches x f (.queryStream n) → x.rsp.bytes = [] →
            streamOf x n = streamOf s n → x.write.staging = s.write.staging →
            Completes .queryStream x f (.queryStream n) { result := .done, response := true, value := 48 }
              (x.withResponse bytes)) ∧
      (∀ n seq, d.cmd = .readRecord n seq →
        ((streamOf s n).defn = none → Ends .responseBufferWaitEnd s d { result := .noStream } s) ∧
        ((streamOf s n).defn ≠ none → holdsRecord (streamOf s n) = true → seq < (streamOf s n).oldest →
          Ends .responseBufferWaitEnd s d { result := .gone } s) ∧
        ((streamOf s n).defn ≠ none → holdsRecord (streamOf s n) = false ∨ (streamOf s n).newest < seq →
          Ends .responseBufferWaitEnd s d { result := .notYet } s) ∧
        ((streamOf s n).defn ≠ none → holdsRecord (streamOf s n) = true → (streamOf s n).oldest ≤ seq →
          seq ≤ (streamOf s n).newest →
          ((∀ e ∈ (streamOf s n).chain, seq < e.first ∨ e.last < seq) →
            Ends .responseBufferWaitEnd s d { result := .lost, value := seq } s) ∧
          ∀ e, (streamOf s n).chain.find? (fun x => x.first ≤ seq && seq ≤ x.last) = some e →
            ((∀ p, (streamOf s n).tail = .pos p → aliasSegment s p.segment ≠ e.segment) →
              hasJobInto s e.segment = false →
              Continues .responseBufferWaitEnd s d
                (.lookup { stream := n, seq := seq, skip := 0, segment := e.segment, tail := none, jobs := [], frame := 31,
                           views := [] })
                (s.withRequest .sequencer (.read e.segment 31 0 512))) ∧
            ∀ (p : TailPos) (before payload after : List Byte) (attr epoch : Byte) (ticks : Word32)
                (untimed resumed : Bool), (streamOf s n).tail = .pos p → aliasSegment s p.segment = e.segment →
              p.header = some (before.length, seq) →
              p.image = before ++ recordHeader payload.length attr epoch seq ticks untimed resumed n ++ payload ++ after →
              payload.length ≤ 1536 → seq < 4294967296 → n < 8 →
              Ends .responseBufferWaitEnd s d { result := .done, response := true, value := seq, aux := 0 }
                (s.withResponse (recordHeader payload.length attr epoch seq ticks untimed resumed n ++ payload)))) ∧
      (∀ n, d.cmd = .readNext n →
        ((streamOf s n).defn = none → Ends .responseBufferWaitEnd s d { result := .noStream } s) ∧
        ((streamOf s n).defn ≠ none →
          (streamOf s n).cursor = 0 ∨ (streamOf s n).newest < (streamOf s n).cursor ∨ holdsRecord (streamOf s n) = false →
          Ends .responseBufferWaitEnd s d { result := .notYet } s) ∧
        ((streamOf s n).defn ≠ none → holdsRecord (streamOf s n) = true → 1 ≤ (streamOf s n).cursor →
          (streamOf s n).cursor ≤ (streamOf s n).newest →
          ∀ q, q = max (streamOf s n).cursor (streamOf s n).oldest →
          ((∀ e ∈ (streamOf s n).chain, q < e.first ∨ e.last < q) →
            Ends .responseBufferWaitEnd s d { result := .lost, value := q }
              (s.withStream n { streamOf s n with cursor := if q = 4294967295 then 0 else q + 1 })) ∧
          ∀ e, n < s.streams.length → (streamOf s n).chain.find? (fun x => x.first ≤ q && q ≤ x.last) = some e →
            (∀ p, (streamOf s n).tail = .pos p → aliasSegment s p.segment ≠ e.segment) →
            hasJobInto s e.segment = false →
            Continues .responseBufferWaitEnd s d
              (.lookup { stream := n, seq := q, skip := (streamOf s n).oldest - (streamOf s n).cursor,
                         segment := e.segment, tail := none, jobs := [], frame := 31, views := [] })
              ((s.withStream n
                { streamOf s n with cursor := if q = 4294967295 then 0 else q + 1 }).withRequest .sequencer
                  (.read e.segment 31 0 512)))) ∧
      (∀ g, d.cmd = .segmentStatus g →
        (g = 4 → Ends .responseBufferWaitEnd s d { result := .done, response := true, value := 12, aux := g }
          (s.withResponse [4, 0, 0, 255, 0, 4, 0, 0, 0, 0, 0, 0])) ∧
        (isUser g = true → (segOf s g).state = .freeErased →
          Ends .responseBufferWaitEnd s d { result := .done, response := true, value := 12, aux := g }
            (s.withResponse (segmentStatusBytes g (segOf s g) (locked s g) 0 (poolPosition s g)))) ∧
        (g ≠ 4 → (isUser g = true → (segOf s g).state ≠ .freeErased) →
          Continues .responseBufferWaitEnd s d (.counting 0) (s.withRequest .sequencer (.read g 0 0 512)))) ∧
      (∀ k, d.cmd = .vaultRead k →
        (∀ j, s.write.jobs = [j] → j.segment = 3 → j.frame = k →
          Ends .responseBufferWaitEnd s d { result := .done, response := true, value := 512, aux := k }
            (s.withResponse j.image)) ∧
        ((∀ j ∈ s.write.jobs, j.segment ≠ 3) → k ∈ s.vault.written →
          Continues .responseBufferWaitEnd s d .slotRead (s.withRequest .sequencer (.read 3 k 0 512))) ∧
        ((∀ j ∈ s.write.jobs, j.segment ≠ 3) → k ∉ s.vault.written →
          Ends .responseBufferWaitEnd s d { result := .blank, response := true, value := 512, aux := k }
            (s.withResponse (List.replicate 512 0xFF)))) ∧
      (d.cmd = .readNotices →
        Ends .responseBufferWaitEnd s d
          { result := .done, response := true, value := 4 + 12 * s.events.notices.length }
          { s.withResponse (BitVec.ofNat 8 s.events.lost :: BitVec.ofNat 8 s.events.notices.length :: 0 :: 0 ::
              s.events.notices.flatMap noticeBytes) with
            events := { s.events with notices := [], lost := 0 } }) ∧
      (d.cmd = .describe →
        Continues .responseBufferWaitEnd s d (.copies 0 []) (s.withRequest .sequencer (.read 4 0 0 40))) ∧
      (d.cmd = .identify →
        Continues .responseBufferWaitEnd s d .identity (s.withRequest .sequencer (.read 4 3 0 256))))

/-! ### Streams -/

/-- DEFINE STREAM, in its order: a defined or archived stream, the guard; otherwise a catalogue version with the
definition is requested and the command waits for it. DELETE STREAM, in its order: an undefined stream, an archived
one, a wait for the stream's jobs, the guard; otherwise a catalogue version is requested. The end of the wait judges
the guard and requests the version likewise. FORMAT: the guard, the wait for every job, then its catalogue version;
the wait's end judges the guard again. (BARRIER_END changes nothing before the wait's end: log 1. That the wait's end
requests the version also of a device that became WORN_OUT in it, which has lost the catalogue for writing, is the model's
choice: log 48.) -/
def Obligations.CatalogueCommandsAskForTheirVersion : Prop :=
  (∀ (s : State) (f : CmdFrame) (n mode quota : Nat) (name : List Byte),
    Dispatches s f (.defineStream n mode quota name) →
    ((streamOf s n).defn ≠ none →
      Completes .defineStream s f (.defineStream n mode quota name) { result := .streamExists } s) ∧
    ((streamOf s n).defn = none → guarded s = true →
      Completes .defineStream s f (.defineStream n mode quota name) { result := .writeProtected } s) ∧
    ((streamOf s n).defn = none → guarded s = false →
      GoesOn .defineStream s f (.defineStream n mode quota name) .version
        (s.withVersion (.define n (if mode = 0 then .linear else .ring) quota name)))) ∧
  ((∀ (s : State) (f : CmdFrame) (n : Nat), Dispatches s f (.deleteStream n) →
    ((streamOf s n).defn = none → Completes .deleteStream s f (.deleteStream n) { result := .noStream } s) ∧
    ((streamOf s n).defn ≠ none → (streamOf s n).state = .archived →
      Completes .deleteStream s f (.deleteStream n) { result := .refusedState } s) ∧
    ((streamOf s n).defn ≠ none → (streamOf s n).state ≠ .archived → hasJobOf s n = true →
      GoesOn .deleteStream s f (.deleteStream n) .waitBarrier s) ∧
    ((streamOf s n).defn ≠ none → (streamOf s n).state ≠ .archived → hasJobOf s n = false → guarded s = true →
      Completes .deleteStream s f (.deleteStream n) { result := .writeProtected } s) ∧
    ((streamOf s n).defn ≠ none → (streamOf s n).state ≠ .archived → hasJobOf s n = false → guarded s = false →
      GoesOn .deleteStream s f (.deleteStream n) .version (s.withVersion (.delete n)))) ∧
  ∀ (s : State) (d : Dispatched) (n : Nat), waiting s = some d → d.phase = .waitBarrier → d.cmd = .deleteStream n →
    (hasJobOf s n = true → exec .barrierEnd s = .next s) ∧
    (hasJobOf s n = false → guarded s = true → Ends .barrierEnd s d { result := .writeProtected } s) ∧
    (hasJobOf s n = false → guarded s = false → Continues .barrierEnd s d .version (s.withVersion (.delete n)))) ∧
  (∀ (s : State) (f : CmdFrame), Dispatches s f .format →
    (guarded s = true → Completes .format s f .format { result := .writeProtected } s) ∧
    (guarded s = false → s.write.jobs ≠ [] → GoesOn .format s f .format .waitBarrier s) ∧
    (guarded s = false → s.write.jobs = [] → GoesOn .format s f .format .version (s.withVersion .format))) ∧
  ∀ (s : State) (d : Dispatched), waiting s = some d → d.phase = .waitBarrier → d.cmd = .format →
    (s.write.jobs ≠ [] → exec .barrierEnd s = .next s) ∧
    (s.write.jobs = [] → guarded s = true → Ends .barrierEnd s d { result := .writeProtected } s) ∧
    (s.write.jobs = [] → guarded s = false → Continues .barrierEnd s d .version (s.withVersion .format))

/-- QUERY STREAM, at an empty Response Buffer: the 48-byte record of Table 4-3, every field of it in its place: number,
state, full reason, mode, quota, name length, flags, name and its padding, incarnation, owned and sealed counts, oldest,
newest, durable-through, cursor, staged length and pending bytes. An UNDEFINED stream gives its number and zeros. -/
def Obligations.QueryStreamReturnsTheStatusRecord : Prop :=
  ∀ (s : State) (f : CmdFrame) (n : Nat), Dispatches s f (.queryStream n) → s.rsp.bytes = [] →
    ∃ bytes : List Byte,
      Completes .queryStream s f (.queryStream n) { result := .done, response := true, value := 48 }
        (s.withResponse bytes) ∧
      ((streamOf s n).defn = none → bytes = BitVec.ofNat 8 n :: List.replicate 47 0) ∧
      (∀ d, (streamOf s n).defn = some d → d.name.length ≤ 12 →
        ∀ reason mode flags staged : Nat,
          ((∀ r, (streamOf s n).state = .full r → reason = fullCode r) ∧
            ((∀ r, (streamOf s n).state ≠ .full r) → reason = 0)) →
          (mode = if d.mode = .ring then 1 else 0) →
          (flags = (if (streamOf s n).resumed then 1 else 0) +
            if ∃ g, s.write.staging = some g ∧ g.stream = n then 2 else 0) →
          ((∀ g, s.write.staging = some g → g.stream = n → staged = g.bytes.length) ∧
            ((∀ g, s.write.staging = some g → g.stream ≠ n) → staged = 0)) →
          bytes.length = 48 ∧
          bytes.take 4 = [BitVec.ofNat 8 n, BitVec.ofNat 8 (streamStateCode (streamOf s n).state),
            BitVec.ofNat 8 reason, BitVec.ofNat 8 mode] ∧
          (bytes.drop 4).take 2 = leBytes 2 d.quota ∧
          (bytes.drop 6).take 2 = [BitVec.ofNat 8 d.name.length, BitVec.ofNat 8 flags] ∧
          (bytes.drop 8).take d.name.length = d.name ∧
          (bytes.drop (8 + d.name.length)).take (12 - d.name.length) = List.replicate (12 - d.name.length) 0 ∧
          (bytes.drop 20).take 4 = leBytes 4 d.incarnation ∧
          (bytes.drop 24).take 2 = leBytes 2 ((streamOf s n).chain.countP (fun e => !e.isRetired)) ∧
          (bytes.drop 26).take 2 = leBytes 2 ((streamOf s n).chain.countP (fun e => e.isSealed)) ∧
          (bytes.drop 28).take 4 = leBytes 4 (streamOf s n).oldest ∧
          (bytes.drop 32).take 4 = leBytes 4 (streamOf s n).newest ∧
          (bytes.drop 36).take 4 = leBytes 4 (streamOf s n).durable ∧
          (bytes.drop 40).take 4 = leBytes 4 (streamOf s n).cursor ∧ (bytes.drop 44).take 2 = leBytes 2 staged ∧
          bytes.drop 46 = leBytes 2 (pendingBytes (streamOf s n).tail))

/-- TRIM STREAM releases, from the oldest entry on, the entries whose records all lie below the sequence, that are not
the write segment, that no queued job targets and that are not SEALED: their segments join the pool's tail as
FREE_STALE, and a FULL for QUOTA becomes OPEN. Where the first entry that meets the conditions is SEALED and nothing
was released, it completes SEALED. A sequence of 0 or 1 releases nothing and completes DONE with 0, whatever the chain. A
chain whose newest entry was closed can be released whole: its tail is then NONE and its oldest sequence 0. (Which entry is
the write segment, and what an emptied chain leaves: log 44.) -/
def Obligations.TrimStreamReleasesFromTheOldest : Prop :=
  ∀ (s : State) (f : CmdFrame) (n seq : Nat), Dispatches s f (.trimStream n seq) →
    ((streamOf s n).defn = none → Completes .trimStream s f (.trimStream n seq) { result := .noStream } s) ∧
    ((streamOf s n).defn ≠ none → (streamOf s n).state = .archived ∨ (streamOf s n).state = .faulted →
      Completes .trimStream s f (.trimStream n seq) { result := .refusedState } s) ∧
    (takesRecords (streamOf s n) = true → 1 < seq → ∀ e es, (streamOf s n).chain = e :: es → e.isSealed = true →
      e.last < seq → writeEntry s (streamOf s n) ≠ some e → hasJobInto s e.segment = false →
      Completes .trimStream s f (.trimStream n seq)
        { result := .headSealed, value := 0, aux := oldestHeld (streamOf s n) } s) ∧
    (takesRecords (streamOf s n) = true →
      (seq ≤ 1 ∨ ∀ e, (streamOf s n).chain.head? = some e →
        seq ≤ e.last ∨ writeEntry s (streamOf s n) = some e ∨ hasJobInto s e.segment = true) →
      Completes .trimStream s f (.trimStream n seq)
        { result := .done, value := 0, aux := oldestHeld (streamOf s n) } s) ∧
    (takesRecords (streamOf s n) = true → 1 < seq → ∀ gone e es, (streamOf s n).chain = gone ++ e :: es → gone ≠ [] →
      (∀ x ∈ gone, x.isSealed = false ∧ x.last < seq ∧ writeEntry s (streamOf s n) ≠ some x ∧
        hasJobInto s x.segment = false) →
      (e.isSealed = true ∨ seq ≤ e.last ∨ writeEntry s (streamOf s n) = some e ∨ hasJobInto s e.segment = true) →
      ∃ u, Completes .trimStream s f (.trimStream n seq)
          { result := .done, value := gone.length,
            aux := if 1 ≤ e.first ∧ e.first ≤ (streamOf s n).newest then e.first else 0 } u ∧
        u.streams = s.streams.set n { streamOf s n with
          chain := e :: es, oldest := e.first
          state := if (streamOf s n).state = .full .quota then .opened else (streamOf s n).state } ∧
        u.segments.pool = s.segments.pool ++ gone.map (fun x => x.segment) ∧
        (∀ x ∈ gone, (segOf u x.segment).state = .freeStale ∧ (segOf u x.segment).owner = none) ∧
        (∀ g, g ∉ gone.map (fun x => x.segment) → segOf u g = segOf s g) ∧ u.write = s.write ∧ u.medium = s.medium) ∧
    (takesRecords (streamOf s n) = true → 1 < seq → (streamOf s n).chain ≠ [] →
      (∀ x ∈ (streamOf s n).chain, x.isSealed = false ∧ x.last < seq ∧ writeEntry s (streamOf s n) ≠ some x ∧
        hasJobInto s x.segment = false) →
      ∃ u, Completes .trimStream s f (.trimStream n seq)
          { result := .done, value := (streamOf s n).chain.length, aux := 0 } u ∧
        u.streams = s.streams.set n { streamOf s n with
          chain := [], oldest := 0, tail := .none
          state := if (streamOf s n).state = .full .quota then .opened else (streamOf s n).state } ∧
        u.segments.pool = s.segments.pool ++ (streamOf s n).chain.map (fun x => x.segment) ∧
        (∀ x ∈ (streamOf s n).chain, (segOf u x.segment).state = .freeStale) ∧ u.write = s.write ∧ u.medium = s.medium)

/-- APPEND, in its order: an undefined stream, an archived or faulted one, a record staged for another stream, a record
that grows above 1536 bytes (which is discarded); otherwise the bytes join those staged. CANCEL discards the staged
record of the named stream, whatever the stream's state, and says how many bytes it had; where nothing is staged, or
another stream's record is, it completes NOTHING_STAGED with no effect. -/
def Obligations.AppendAndCancelKeepTheStagingBuffer : Prop :=
  (∀ (s : State) (f : CmdFrame) (n : Nat) (data : List Byte), Dispatches s f (.append n data) →
    ((streamOf s n).defn = none → Completes .append s f (.append n data) { result := .noStream } s) ∧
    ((streamOf s n).defn ≠ none → (streamOf s n).state = .archived ∨ (streamOf s n).state = .faulted →
      Completes .append s f (.append n data) { result := .refusedState } s) ∧
    (takesRecords (streamOf s n) = true → stagedElsewhere s n = true →
      Completes .append s f (.append n data) { result := .stageBusy } s) ∧
    (takesRecords (streamOf s n) = true → stagedElsewhere s n = false → 1536 < (stagedPayload s ++ data).length →
      Completes .append s f (.append n data) { result := .tooLong } (s.withStaging none)) ∧
    (takesRecords (streamOf s n) = true → stagedElsewhere s n = false → (stagedPayload s ++ data).length ≤ 1536 →
      Completes .append s f (.append n data) { result := .done, value := (stagedPayload s ++ data).length }
        (s.withStaging (some { stream := n, bytes := stagedPayload s ++ data, owned := false })))) ∧
  ∀ (s : State) (f : CmdFrame) (n : Nat), Dispatches s f (.cancel n) →
    (∀ g, s.write.staging = some g → g.stream = n →
      Completes .cancel s f (.cancel n) { result := .done, value := g.bytes.length } (s.withStaging none)) ∧
    (s.write.staging = none ∨ stagedElsewhere s n = true →
      Completes .cancel s f (.cancel n) { result := .nothingStaged } s)

/-- SEEK sets the cursor and nothing else, by its origin; it says where the cursor stands. A sequence out of the
readable range leaves the cursor. -/
def Obligations.SeekPlacesTheCursor : Prop :=
  ∀ (s : State) (f : CmdFrame) (n origin seq : Nat), Dispatches s f (.seek n origin seq) →
    ((streamOf s n).defn = none → Completes .seek s f (.seek n origin seq) { result := .noStream } s) ∧
    ((streamOf s n).defn ≠ none → origin = 0 →
      ∀ c, c = (if holdsRecord (streamOf s n) then (streamOf s n).oldest else (streamOf s n).newest + 1) →
      Completes .seek s f (.seek n origin seq) { result := .done, value := c }
        (s.withStream n { streamOf s n with cursor := c })) ∧
    ((streamOf s n).defn ≠ none → origin = 1 →
      ∀ c, c = (if holdsRecord (streamOf s n) then (streamOf s n).newest else (streamOf s n).newest + 1) →
      Completes .seek s f (.seek n origin seq) { result := .done, value := c }
        (s.withStream n { streamOf s n with cursor := c })) ∧
    ((streamOf s n).defn ≠ none → origin = 2 → holdsRecord (streamOf s n) = true → seq < (streamOf s n).oldest →
      Completes .seek s f (.seek n origin seq) { result := .gone } s) ∧
    ((streamOf s n).defn ≠ none → origin = 2 → holdsRecord (streamOf s n) = false ∨ (streamOf s n).newest < seq →
      Completes .seek s f (.seek n origin seq) { result := .notYet } s) ∧
    ((streamOf s n).defn ≠ none → origin = 2 → holdsRecord (streamOf s n) = true → (streamOf s n).oldest ≤ seq →
      seq ≤ (streamOf s n).newest →
      Completes .seek s f (.seek n origin seq) { result := .done, value := seq }
        (s.withStream n { streamOf s n with cursor := seq }))

/-! ### COMMIT and SYNC -/

/-- COMMIT's refusals in their order: an undefined stream, an archived or faulted one, another stream's staged record,
the guard, and the lock of the segment its bytes would enter. That is the
write segment, also where only the closing pad of its pending bytes would enter it. COMMIT completes FULL: at the last
sequence; and, where the record does not fit the write segment, by Table 4-4. (Which entry is the write segment is the
model's choice where the newest one was closed: a RING stream whose one entry was closed has none, and is FULL for NO_SPACE
where R64 alone gives QUOTA, log 44.) -/
def Obligations.CommitRefusesInItsOrder : Prop :=
  (∀ (s : State) (f : CmdFrame) (n : Nat) (attr : Byte), Dispatches s f (.commit n attr) →
    ((streamOf s n).defn = none → Completes .commit s f (.commit n attr) { result := .noStream } s) ∧
    ((streamOf s n).defn ≠ none → (streamOf s n).state = .archived ∨ (streamOf s n).state = .faulted →
      Completes .commit s f (.commit n attr) { result := .refusedState } s) ∧
    (takesRecords (streamOf s n) = true → stagedElsewhere s n = true →
      Completes .commit s f (.commit n attr) { result := .stageBusy } s) ∧
    (takesRecords (streamOf s n) = true → stagedElsewhere s n = false → guarded s = true →
      Completes .commit s f (.commit n attr) { result := .writeProtected } s) ∧
    (CommitOpen s n → (streamOf s n).newest ≠ 4294967295 →
      16 + (stagedPayload s).length ≤ spaceLeft (streamOf s n) → ¬ WriteUnlocked s n →
      Completes .commit s f (.commit n attr) { result := .writeProtected } s)) ∧
  ∀ (s : State) (f : CmdFrame) (n : Nat) (attr : Byte) (d : Definition), Dispatches s f (.commit n attr) →
    CommitOpen s n → (streamOf s n).defn = some d →
    ((streamOf s n).newest = 4294967295 → CompletesFull s f n attr .sequenceEnd) ∧
    ((streamOf s n).newest ≠ 4294967295 → spaceLeft (streamOf s n) < 16 + (stagedPayload s).length →
      (d.quota ≤ ownedCount (streamOf s n) → d.mode = .linear → CompletesFull s f n attr .quota) ∧
      (∀ e es, (streamOf s n).chain = e :: es → d.quota ≤ ownedCount (streamOf s n) → d.mode = .ring →
        (e.isSealed = true → CompletesFull s f n attr .sealedHead) ∧
        (e.isSealed = false → writeEntry s (streamOf s n) = some e → CompletesFull s f n attr .quota) ∧
        (e.isSealed = false → writeEntry s (streamOf s n) ≠ some e →
          hasJobInto s e.segment = true ∨
            (availableSegs s).length + (if locked s e.segment then 0 else 1) < 3 →
          CompletesFull s f n attr .noSpace)) ∧
      (ownedCount (streamOf s n) < d.quota → (availableSegs s).length < 3 →
        d.mode = .linear ∨ ownedCount (streamOf s n) < 2 → CompletesFull s f n attr .noSpace) ∧
      (ownedCount (streamOf s n) < d.quota → 3 ≤ (availableSegs s).length → 0 < pendingBytes (streamOf s n).tail →
        ¬ WriteUnlocked s n → Completes .commit s f (.commit n attr) { result := .writeProtected } s))

/-- COMMIT places a record that stays within the tail frame: it waits for room in the Program Queue where it must;
under LAZY it emits no job and completes; under EAGER one job carries the pending bytes and the command defers, named
by the job: a PORTION job, or, as the frame's fourth portion, a FRAME job with PAD. A record that completes its frame
emits a FRAME job, and its rest stands in the next frame: LAZY completes, EAGER defers where nothing is left; where more
is left EAGER goes on with its second job in the next internal event, which the row COMMIT stands for, until then owning
the Staging Buffer, and defers in that event. A frame that was filled in an event with another job is emitted in the next
one, which under LAZY ends the command. Where a command defers and the next frame can be dispatched, that frame is
dispatched in the same internal event, before the engine chooses. The record is the header with the next sequence and the
time, and the staged payload. (That the frame behind is dispatched then: log 63. One job an internal event, the record's last bytes copied with the job before: log 15. FULL becomes OPEN
at step 10: log 29.) -/
def Obligations.CommitPlacesTheRecordInItsFrame : Prop :=
  (∀ (s : State) (f : CmdFrame) (n : Nat) (attr : Byte) (p : TailPos), Dispatches s f (.commit n attr) →
    CommitOpen s n → WriteUnlocked s n → (streamOf s n).newest < 4294967294 → (streamOf s n).tail = .pos p →
    p.offset + 16 + (stagedPayload s).length < 512 → p.unprog ≤ p.offset →
    (s.options.commitPolicy ≠ 1 →
      Completes .commit s f (.commit n attr)
        { result := .done, value := (streamOf s n).newest + 1, aux := (streamOf s n).durable }
        (((s.withStaging none).withLastCommit n).withStream n
          (streamWith (streamOf s n) (.pos (tailWith p ((streamOf s n).newest + 1) (recordBytes s n attr)))))) ∧
    (s.options.commitPolicy = 1 → s.write.jobs.length = 8 →
      GoesOn .commit s f (.commit n attr) (.waitRoom 1) s) ∧
    (s.options.commitPolicy = 1 → s.write.jobs.length < 8 → p.portions < 3 →
      ∀ q, q = tailWith p ((streamOf s n).newest + 1) (recordBytes s n attr) →
      Defers .commit s
        (((((s.withStaging none).withLastCommit n).withStream n (streamWith (streamOf s n) (.pos (tailCarried q)))).withJobs
          (s.write.jobs ++ [(portionJob (streamOf s n) n q).naming s.sequencer.nextId])).withDeferred f
            (.commit n ((streamOf s n).newest + 1)))) ∧
    (s.options.commitPolicy = 1 → s.write.jobs.length < 8 → 3 ≤ p.portions → p.image.length = p.offset →
      ∀ q, q = tailWith p ((streamOf s n).newest + 1) (recordBytes s n attr) →
      Defers .commit s
        (((((s.withStaging none).withLastCommit n).withStream n (streamWith (streamOf s n) (nextFrame q))).withJobs
          (s.write.jobs ++ [(frameJob (streamOf s n) n q true).naming s.sequencer.nextId])).withDeferred f
            (.commit n ((streamOf s n).newest + 1))))) ∧
  (∀ (s : State) (f : CmdFrame) (n seq : Nat) (attr : Byte) (p : TailPos) (bytes rest : List Byte),
    Dispatches s f (.commit n attr) → CommitOpen s n → WriteUnlocked s n → (streamOf s n).newest < 4294967294 →
    (streamOf s n).tail = .pos p → p.offset < 512 → 512 ≤ p.offset + 16 + (stagedPayload s).length →
    p.offset + 16 + (stagedPayload s).length < 1024 → p.frame < 31 → p.unprog ≤ p.offset → p.image.length = p.offset →
    (∀ e ∈ p.ends, e.2 ≤ (streamOf s n).newest) → s.write.jobs.length ≤ 6 → seq = (streamOf s n).newest + 1 →
    bytes = recordBytes s n attr → rest = bytes.drop (512 - p.offset) →
    (s.options.commitPolicy ≠ 1 →
      Completes .commit s f (.commit n attr) { result := .done, value := seq, aux := (streamOf s n).durable }
        ((((s.withStaging none).withLastCommit n).withStream n
          (streamWith (streamOf s n) (.pos (tailBeyond p seq rest)))).withJobs
            (s.write.jobs ++ [frameJob (streamOf s n) n (tailFilled p seq bytes) false]))) ∧
    (s.options.commitPolicy = 1 → rest = [] →
      Defers .commit s
        (((((s.withStaging none).withLastCommit n).withStream n
          (streamWith (streamOf s n) (.pos (tailBeyond p seq rest)))).withJobs
            (s.write.jobs ++ [(frameJob (streamOf s n) n (tailFilled p seq bytes) false).naming s.sequencer.nextId])).withDeferred
              f (.commit n seq))) ∧
    (s.options.commitPolicy = 1 → rest ≠ [] →
      GoesOn .commit s f (.commit n attr) (.placing seq [])
        ((((s.withStaging (s.write.staging.map (fun g => { g with owned := true }))).withLastCommit n).withStream n
          { streamWith (streamOf s n) (.pos (tailBeyond p seq rest)) with state := (streamOf s n).state }).withJobs
            (s.write.jobs ++ [frameJob (streamOf s n) n (tailFilled p seq bytes) false])))) ∧
  (∀ (s : State) (d : Dispatched) (n seq o : Nat) (attr : Byte) (p : TailPos), isAwake s = true →
    s.host.aborting = false → s.power.soft ≠ some .abortSteps → s.power.entryDue = none →
    s.sequencer.dispatched = some d → d.phase = .placing seq [] → d.cmd = .commit n attr → d.eager = true →
    (streamOf s n).tail = .pos p → p.unprog < p.offset → p.offset < 512 → p.portions < 3 → (o, seq) ∈ p.ends →
    DefersAs .commit s d (.commit n seq)
      (((s.withStaging none).withStream n { streamOf s n with
          tail := .pos (tailCarried p)
          state := if isFull (streamOf s n).state ∧ seq ≠ 4294967295 then .opened else (streamOf s n).state }).withJobs
        (s.write.jobs ++ [(portionJob (streamOf s n) n p).naming d.id]))) ∧
  ∀ (s : State) (d : Dispatched) (n seq : Nat) (attr : Byte) (p : TailPos) (rest : List Byte), isAwake s = true →
    s.host.aborting = false → s.power.soft ≠ some .abortSteps → s.power.entryDue = none →
    s.sequencer.dispatched = some d → d.phase = .placing seq rest → d.cmd = .commit n attr → d.eager = false →
    (streamOf s n).tail = .pos p → p.offset = 512 → p.image.length = 512 → p.unprog ≤ 512 → p.frame < 31 →
    rest.length < 512 → seq < 4294967295 →
    Ends .commit s d { result := .done, value := seq, aux := (streamOf s n).durable }
      (((s.withStaging none).withStream n { streamOf s n with
          tail := .pos (tailBeyond p seq rest)
          state := if isFull (streamOf s n).state then .opened else (streamOf s n).state }).withJobs
        (s.write.jobs ++ [frameJob (streamOf s n) n p false]))

/-- COMMIT that needs a new segment takes the first available one of the pool. An erased one becomes the stream's open
write segment, the next generation, with the record at its start; a stale one is taken and its ERASE is requested, the
record now owned by the command. Where the write segment's tail holds pending bytes, a closing FRAME job with PAD carries
them first and the old segment is closed; the record's bytes are copied in the same event, and where they fill its first
frame that frame's job is emitted in the next one (log 15). Which entry is the write segment is the model's choice where
the newest one was closed (log 44). A RING stream at its quota first gives up its oldest segment: it joins the
pool's tail as FREE_STALE, the oldest sequence moves on, and RECLAIMED and SPACE tell of it. -/
def Obligations.CommitTakesANewSegment : Prop :=
  (∀ (s : State) (f : CmdFrame) (n : Nat) (attr : Byte) (d : Definition) (g : Nat) (gs : List Nat),
    Dispatches s f (.commit n attr) → CommitOpen s n → (streamOf s n).defn = some d → n < s.streams.length →
    (streamOf s n).newest < 4294967294 → spaceLeft (streamOf s n) < 16 + (stagedPayload s).length →
    ownedCount (streamOf s n) < d.quota → availableSegs s = g :: gs → 2 ≤ gs.length →
    pendingBytes (streamOf s n).tail = 0 → 16 + (stagedPayload s).length < 512 → s.options.commitPolicy ≠ 1 →
    (∀ e, writeEntry s (streamOf s n) = some e → e.segment ≠ g) →
    ((segOf s g).state = .freeErased →
      ∃ u, Completes .commit s f (.commit n attr)
          { result := .done, value := (streamOf s n).newest + 1, aux := (streamOf s n).durable } u ∧
        segOf u g = { segOf s g with
          state := .owned, owner := some n, generation := topGeneration (streamOf s n) + 1, isOpen := true } ∧
        u.segments.pool = s.segments.pool.filter (fun x => x ≠ g) ∧
        streamOf u n = { streamOf s n with
          chain := (streamOf s n).chain ++
            [{ segment := g, generation := topGeneration (streamOf s n) + 1, first := (streamOf s n).newest + 1,
               last := (streamOf s n).newest + 1, isSealed := false, isRetired := false }]
          oldest := if (streamOf s n).chain = [] then (streamOf s n).newest + 1 else (streamOf s n).oldest
          newest := (streamOf s n).newest + 1, resumed := false, state := .opened
          tail := .pos (tailWith (tailAt g 0) ((streamOf s n).newest + 1) (recordBytes s n attr)) } ∧
        (∀ m, m ≠ n → streamOf u m = streamOf s m) ∧ u.write = { staging := none, jobs := s.write.jobs } ∧
        u.medium = s.medium) ∧
    ((segOf s g).state = .freeStale →
      ∃ u, GoesOn .commit s f (.commit n attr) (.allocating g (topGeneration (streamOf s n) + 1)) u ∧
        u.engine.request = some { who := .sequencer, op := .erase g } ∧ (segOf u g).state = .taken ∧
        u.segments.pool = s.segments.pool.filter (fun x => x ≠ g) ∧
        u.write.staging = s.write.staging.map (fun x => { x with owned := true }) ∧ u.write.jobs = s.write.jobs ∧
        (streamOf u n).chain = (streamOf s n).chain ∧ (streamOf u n).newest = (streamOf s n).newest ∧
        u.medium = s.medium)) ∧
  (∀ (s : State) (f : CmdFrame) (n : Nat) (attr : Byte) (d : Definition) (p : TailPos) (w : ChainEntry) (g : Nat)
      (gs : List Nat), Dispatches s f (.commit n attr) → CommitOpen s n → (streamOf s n).defn = some d →
    storeWf (fun _ => SegEntry.free) 0 s.segments.map = true →
    n < s.streams.length → (streamOf s n).newest < 4294967294 →
    spaceLeft (streamOf s n) < 16 + (stagedPayload s).length → ownedCount (streamOf s n) < d.quota →
    availableSegs s = g :: gs → 2 ≤ gs.length → (segOf s g).state = .freeErased →
    writeEntry s (streamOf s n) = some w → w.segment ≠ g → locked s w.segment = false →
    (streamOf s n).tail = .pos p → p.unprog < p.offset → p.offset ≤ 512 → p.image.length = p.offset →
    16 + (stagedPayload s).length < 512 → s.options.commitPolicy ≠ 1 → s.write.jobs.length < 8 →
    ∃ u, Completes .commit s f (.commit n attr)
        { result := .done, value := (streamOf s n).newest + 1, aux := (streamOf s n).durable } u ∧
      u.write = { staging := none, jobs := s.write.jobs ++ [frameJob (streamOf s n) n p true] } ∧
      segOf u w.segment = { segOf s w.segment with isOpen := false } ∧
      (segOf u g).state = .owned ∧ (segOf u g).isOpen = true ∧ (∀ h, h ≠ g → h ≠ w.segment → segOf u h = segOf s h) ∧
      (streamOf u n).tail = .pos (tailWith (tailAt g 0) ((streamOf s n).newest + 1) (recordBytes s n attr)) ∧
      (∀ m, m ≠ n → streamOf u m = streamOf s m) ∧ u.medium = s.medium) ∧
  (∀ (s : State) (f : CmdFrame) (n seq : Nat) (attr : Byte) (d : Definition) (p : TailPos) (w : ChainEntry) (g : Nat)
      (gs : List Nat) (bytes : List Byte), Dispatches s f (.commit n attr) → CommitOpen s n →
    storeWf (fun _ => SegEntry.free) 0 s.segments.map = true → (streamOf s n).defn = some d → n < s.streams.length → (streamOf s n).newest < 4294967294 →
    spaceLeft (streamOf s n) < 16 + (stagedPayload s).length → ownedCount (streamOf s n) < d.quota →
    availableSegs s = g :: gs → 2 ≤ gs.length → (segOf s g).state = .freeErased →
    writeEntry s (streamOf s n) = some w → w.segment ≠ g → locked s w.segment = false →
    (streamOf s n).tail = .pos p → p.unprog < p.offset → p.offset ≤ 512 → p.image.length = p.offset →
    512 ≤ 16 + (stagedPayload s).length → 16 + (stagedPayload s).length < 1024 → s.write.jobs.length ≤ 5 →
    seq = (streamOf s n).newest + 1 → bytes = recordBytes s n attr →
    ∃ u, GoesOn .commit s f (.commit n attr) (.placing seq (bytes.drop 512)) u ∧
      u.write.jobs = s.write.jobs ++ [frameJob (streamOf s n) n p true] ∧
      u.write.staging = s.write.staging.map (fun x => { x with owned := true }) ∧
      segOf u w.segment = { segOf s w.segment with isOpen := false } ∧
      (segOf u g).state = .owned ∧ (segOf u g).isOpen = true ∧ (streamOf u n).newest = seq ∧
      (streamOf u n).tail = .pos (tailFilled (tailAt g 0) seq bytes) ∧ u.medium = s.medium) ∧
  ∀ (s : State) (f : CmdFrame) (n : Nat) (attr : Byte) (d : Definition) (e x : ChainEntry) (es : List ChainEntry)
      (g : Nat) (gs : List Nat), Dispatches s f (.commit n attr) → CommitOpen s n → (streamOf s n).defn = some d →
    n < s.streams.length → (streamOf s n).newest < 4294967294 →
    spaceLeft (streamOf s n) < 16 + (stagedPayload s).length → d.mode = .ring → d.quota ≤ ownedCount (streamOf s n) →
    (streamOf s n).chain = e :: x :: es → e.isSealed = false → writeEntry s (streamOf s n) ≠ some e →
    hasJobInto s e.segment = false → s.engine.reloc = none → availableSegs s = g :: gs →
    2 ≤ gs.length + (if locked s e.segment then 0 else 1) → (segOf s g).state = .freeErased → e.segment ≠ g →
    (∀ w, writeEntry s (streamOf s n) = some w → w.segment ≠ g) → pendingBytes (streamOf s n).tail = 0 →
    16 + (stagedPayload s).length < 512 → s.options.commitPolicy ≠ 1 → s.events.holdClear = false →
    s.events.fresh = [] →
    ∃ u, Completes .commit s f (.commit n attr)
        { result := .done, value := (streamOf s n).newest + 1, aux := (streamOf s n).durable } u ∧
      (streamOf u n).chain = x :: es ++
        [{ segment := g, generation := topGeneration (streamOf s n) + 1, first := (streamOf s n).newest + 1,
           last := (streamOf s n).newest + 1, isSealed := false, isRetired := false }] ∧
      (streamOf u n).oldest = x.first ∧ (streamOf u n).newest = (streamOf s n).newest + 1 ∧
      (segOf u e.segment).state = .freeStale ∧ (segOf u e.segment).owner = none ∧
      (segOf u g).state = .owned ∧ (segOf u g).generation = topGeneration (streamOf s n) + 1 ∧
      u.segments.pool = (s.segments.pool ++ [e.segment]).filter (fun h => h ≠ g) ∧
      (∀ h, h ≠ g → h ≠ e.segment → (∀ w, writeEntry s (streamOf s n) = some w → h ≠ w.segment) →
        segOf u h = segOf s h) ∧
      (∀ m, m ≠ n → streamOf u m = streamOf s m) ∧ u.medium = s.medium ∧ Raised u .space ∧
      (s.events.notices.length < 8 → u.events.notices = s.events.notices ++
        [{ kind := .reclaimed, stream := n, segment := e.segment, value := e.last, value2 := x.first }])

/-- SYNC: with nothing pending and nothing queued it completes at once, DURABLE; otherwise every queued job, and the
one more that a pending tail becomes, names it, and it defers, the next frame then being dispatched in the same event
where it can be, before the engine chooses (log 63); without room for the tails' jobs it waits for it. -/
def Obligations.SyncWaitsForEveryJob : Prop :=
  ∀ (s : State) (f : CmdFrame), Dispatches s f .sync →
    (pendingStreams s = [] → s.write.jobs = [] →
      Completes .sync s f .sync { result := .done, durable := true } s) ∧
    (programRoom s < (pendingStreams s).length →
      GoesOn .sync s f .sync (.waitRoom (pendingStreams s).length) s) ∧
    (pendingStreams s = [] → s.write.jobs ≠ [] →
      Defers .sync s
        ((s.withJobs (s.write.jobs.map (fun j => j.naming s.sequencer.nextId))).withDeferred f (.sync 0))) ∧
    (∀ n p, pendingStreams s = [n] → s.write.jobs.length < 8 → (streamOf s n).tail = .pos p → p.portions < 3 →
      Defers .sync s
        (((s.withStream n { streamOf s n with tail := .pos (tailCarried p) }).withJobs
          ((s.write.jobs ++ [portionJob (streamOf s n) n p]).map (fun j => j.naming s.sequencer.nextId))).withDeferred f
            (.sync 1)))

/-! ### Reading -/

/-- A portion programmed into an erased frame reads back as it was programmed, with its label, and CLEAN; a READ of a
range returns the bytes of the range, beyond the portion as they lie in the array; an erased frame reads erased. With up
to 4 errors corrected it reads back the same, MINOR to 2 and MAJOR above; with more, or where its check code fails, it is
BROKEN, its bytes are exactly those read, and the label is not valid. The class of the READ is that of the portion where
the range overlaps it. -/
def Obligations.ProgrammedPortionReadsBack : Prop :=
  ∀ (m : Medium) (p : Program) (l : Label) (lo hi : Nat), m.wf = true → p.portion = 0 → p.lo = 0 → 0 < p.hi → p.hi ≤ 512 →
    p.bytes.length = p.hi → p.label = some l → l.checkGood = true → l.frameIndex = p.frame →
    m.margin p.segment p.frame = erasedMargin →
    frameErased (readFrame m p.segment p.frame lo hi quiet) = true ∧
    readFrame (m.endProgram p .pass) p.segment p.frame lo hi quiet =
      { label := .valid l
        portions := [{ lo := 0, hi := p.hi, grade := .clean, damaged := p.damaged, pad := p.pad, bytes := p.bytes }]
        entryZero := true, implausible := false, grade := .clean
        bytes := ((p.bytes ++ m.bytes p.segment p.frame p.hi 512).take hi).drop lo } ∧
    ∀ (errors : Nat) (fails : Bool) (data : List Byte) (f : FrameRead),
      f = readFrame (m.endProgram p .pass) p.segment p.frame lo hi
        { quiet with portions := [{ noNoise with errors := errors, checkFails := fails }], data := data } →
      (fails = false → errors ≤ 4 →
        ∀ g, (g = if errors = 0 then Grade.clean else if errors ≤ 2 then .minor else .major) →
        f.label = .valid l ∧ f.grade = (if lo < p.hi ∧ 0 < hi then g else .clean) ∧
        f.portions = [{ lo := 0, hi := p.hi, grade := g, damaged := p.damaged, pad := p.pad, bytes := p.bytes }]) ∧
      (fails = true ∨ 4 < errors → data.length = 512 →
        (∀ x, f.label ≠ .valid x) ∧ f.grade = (if lo < p.hi ∧ 0 < hi then .broken else .clean) ∧
        f.bytes = (data.take hi).drop lo ∧
        f.portions = [{ lo := 0, hi := p.hi, grade := .broken, damaged := p.damaged, pad := p.pad,
                        bytes := data.take p.hi }])

/-- READ RECORD and READ NEXT at an empty Response Buffer: their outcomes before any lookup, and the cursor that READ
NEXT moves. A sequence that no chain entry holds is LOST. -/
def Obligations.ReadsJudgeTheSequence : Prop :=
  (∀ (s : State) (f : CmdFrame) (n seq : Nat), Dispatches s f (.readRecord n seq) → s.rsp.bytes = [] →
    ((streamOf s n).defn = none → Completes .readRecord s f (.readRecord n seq) { result := .noStream } s) ∧
    ((streamOf s n).defn ≠ none → holdsRecord (streamOf s n) = true → seq < (streamOf s n).oldest →
      Completes .readRecord s f (.readRecord n seq) { result := .gone } s) ∧
    ((streamOf s n).defn ≠ none → holdsRecord (streamOf s n) = false ∨ (streamOf s n).newest < seq →
      Completes .readRecord s f (.readRecord n seq) { result := .notYet } s) ∧
    ((streamOf s n).defn ≠ none → holdsRecord (streamOf s n) = true → (streamOf s n).oldest ≤ seq →
      seq ≤ (streamOf s n).newest → (∀ e ∈ (streamOf s n).chain, seq < e.first ∨ e.last < seq) →
      Completes .readRecord s f (.readRecord n seq) { result := .lost, value := seq } s)) ∧
  ∀ (s : State) (f : CmdFrame) (n : Nat), Dispatches s f (.readNext n) → s.rsp.bytes = [] →
    ((streamOf s n).defn = none → Completes .readNext s f (.readNext n) { result := .noStream } s) ∧
    ((streamOf s n).defn ≠ none →
      (streamOf s n).cursor = 0 ∨ (streamOf s n).newest < (streamOf s n).cursor ∨ holdsRecord (streamOf s n) = false →
      Completes .readNext s f (.readNext n) { result := .notYet } s) ∧
    ((streamOf s n).defn ≠ none → holdsRecord (streamOf s n) = true → 1 ≤ (streamOf s n).cursor →
      (streamOf s n).cursor ≤ (streamOf s n).newest →
      ∀ q, q = max (streamOf s n).cursor (streamOf s n).oldest →
        (∀ e ∈ (streamOf s n).chain, q < e.first ∨ e.last < q) →
        Completes .readNext s f (.readNext n) { result := .lost, value := q }
          (s.withStream n { streamOf s n with cursor := if q = 4294967295 then 0 else q + 1 }))

/-- A record still in the tail image is delivered without an array READ: header and payload as they were placed, CLEAN.
-/
def Obligations.RecordInTheTailIsDelivered : Prop :=
  ∀ (s : State) (f : CmdFrame) (n seq : Nat) (e : ChainEntry) (p : TailPos) (before payload after : List Byte)
    (attr epoch : Byte) (ticks : Word32) (untimed resumed : Bool),
    Dispatches s f (.readRecord n seq) → s.rsp.bytes = [] → (streamOf s n).defn ≠ none →
    holdsRecord (streamOf s n) = true → (streamOf s n).oldest ≤ seq → seq ≤ (streamOf s n).newest →
    (streamOf s n).chain.find? (fun x => x.first ≤ seq && seq ≤ x.last) = some e → (streamOf s n).tail = .pos p →
    aliasSegment s p.segment = e.segment → p.header = some (before.length, seq) →
    p.image = before ++ recordHeader payload.length attr epoch seq ticks untimed resumed n ++ payload ++ after →
    payload.length ≤ 1536 → seq < 4294967296 → n < 8 →
    Completes .readRecord s f (.readRecord n seq) { result := .done, response := true, value := seq, aux := 0 }
      (s.withResponse (recordHeader payload.length attr epoch seq ticks untimed resumed n ++ payload))

/-- A lookup in a chain entry away from the tail and the queue begins with the READ of the highest frame, 31; READ NEXT
begins it with the cursor already moved and the count of records passed over. A lookup's READ has ended. Without a
start point at or below the sequence the next lower frame is read, and after frame 0 the record is LOST; from a start
point on the walk finds the record or it is LOST. That the READs run from frame 31 downward and end at the first start
point that serves is the model's choice (DESIGN CHOICE, log 16), and so is the event in which READ NEXT moves its cursor
(log 46). A record found is delivered whole with its class, or as SKIPPED with
the count of records passed over; a BROKEN one is DAMAGED, whole or its header alone by DAMAGED_READS, with MEDIA; a
MAJOR one marks its segment weak, with MEDIA. -/
def Obligations.LookupReadsFramesAndDelivers : Prop :=
  ((∀ (s : State) (f : CmdFrame) (n seq : Nat) (e : ChainEntry), Dispatches s f (.readRecord n seq) →
    s.rsp.bytes = [] → (streamOf s n).defn ≠ none → holdsRecord (streamOf s n) = true →
    (streamOf s n).oldest ≤ seq → seq ≤ (streamOf s n).newest →
    (streamOf s n).chain.find? (fun x => x.first ≤ seq && seq ≤ x.last) = some e →
    (∀ p, (streamOf s n).tail = .pos p → aliasSegment s p.segment ≠ e.segment) →
    hasJobInto s e.segment = false →
    GoesOn .readRecord s f (.readRecord n seq)
      (.lookup { stream := n, seq := seq, skip := 0, segment := e.segment, tail := none, jobs := [], frame := 31,
                 views := [] })
      (s.withRequest .sequencer (.read e.segment 31 0 512))) ∧
  ∀ (s : State) (f : CmdFrame) (n q : Nat) (e : ChainEntry), Dispatches s f (.readNext n) → s.rsp.bytes = [] →
    (streamOf s n).defn ≠ none → holdsRecord (streamOf s n) = true → 1 ≤ (streamOf s n).cursor →
    (streamOf s n).cursor ≤ (streamOf s n).newest → q = max (streamOf s n).cursor (streamOf s n).oldest →
    n < s.streams.length → (streamOf s n).chain.find? (fun x => x.first ≤ q && q ≤ x.last) = some e →
    (∀ p, (streamOf s n).tail = .pos p → aliasSegment s p.segment ≠ e.segment) →
    hasJobInto s e.segment = false →
    GoesOn .readNext s f (.readNext n)
      (.lookup { stream := n, seq := q, skip := (streamOf s n).oldest - (streamOf s n).cursor, segment := e.segment,
                 tail := none, jobs := [], frame := 31, views := [] })
      ((s.withStream n { streamOf s n with cursor := if q = 4294967295 then 0 else q + 1 }).withRequest .sequencer
        (.read e.segment 31 0 512))) ∧
  ∀ (s : State) (d : Dispatched) (l l' : Lookup) (v : View) (seg frame lo hi : Nat) (noise : ReadNoise),
    Performs s .sequencer (.read seg frame lo hi) → s.sequencer.dispatched = some d → d.phase = .lookup l →
    v = composeView l l.frame (readFrame s.medium seg frame lo hi noise) →
    l' = { l with views := (l.frame, v) :: l.views } →
    ((∀ o q, v.start = some (o, q) → l.seq < q) → l.frame = 0 →
      Ends (.arrayReadEnd noise) s d { result := .lost, value := l.seq } s.withIdle) ∧
    (∀ k, (∀ o q, v.start = some (o, q) → l.seq < q) → l.frame = k + 1 → needsNoRead l' k = false →
      Continues (.arrayReadEnd noise) s d (.lookup { l' with frame := k })
        (s.withIdle.withRequest .sequencer (.read l.segment k 0 512))) ∧
    (∀ o q, v.start = some (o, q) → q ≤ l.seq →
      (findRecord l'.views l.stream l.seq 33 l.frame o q = none →
        Ends (.arrayReadEnd noise) s d { result := .lost, value := l.seq } s.withIdle) ∧
      (∀ g, findRecord l'.views l.stream l.seq 33 l.frame o q = some g →
        (recordGrade l'.views g = .clean ∨ recordGrade l'.views g = .minor ∨
          recordGrade l'.views g = .major ∧ (segOf s l.segment).weak = true →
          (l.skip = 0 →
            Ends (.arrayReadEnd noise) s d
              { result := .done, response := true, value := l.seq,
                aux := match d.cmd with | .readRecord _ _ => gradeCode (recordGrade l'.views g) | _ => 0 }
              (s.withIdle.withResponse g.bytes)) ∧
          (l.skip ≠ 0 →
            Ends (.arrayReadEnd noise) s d
              { result := .skipped, response := true, value := l.seq, aux := l.skip }
              (s.withIdle.withResponse g.bytes))) ∧
        (recordGrade l'.views g = .major → (segOf s l.segment).weak = false →
          ∃ t, exec (.arrayReadEnd noise) s = .next t ∧ segOf t l.segment = { segOf s l.segment with weak := true } ∧
            t.rsp = { bytes := g.bytes, index := 0 } ∧ t.sequencer.dispatched = none ∧
            (s.events.holdClear = false → Raised t .media)) ∧
        (recordGrade l'.views g = .broken →
          ∃ t, exec (.arrayReadEnd noise) s = .next t ∧
            t.rsp = { bytes := if s.options.damagedReads = 0 then g.bytes else g.bytes.take 16, index := 0 } ∧
            Posts s t (completionOf d.tag d.opcode (cmdDetail d.cmd) d.abortLate
              { result := .damaged, response := true, value := l.seq,
                aux := match d.cmd with | .readRecord _ _ => 3 | _ => 0 }) ∧
            t.sequencer.dispatched = none ∧ (s.events.holdClear = false → Raised t .media))))

/-! ### Protection -/

/-- The three lock commands: refused LOCK_DISABLED, then FROZEN; a barrier that waits for room, makes one job of each
pending tail and waits for the queue; then
the update: LOCK ALL locks every user segment, UNLOCK RANGE every one outside its range, or inside it with invert 1,
FREEZE LOCKS sets the frozen flag alone. The end of the barrier makes the same update. Which segments are locked: none
in DISABLED; in ACTIVE every user segment where the range is NONE, and those outside the range, or inside it with
invert 1; never a system segment. (BARRIER_END changes nothing before the barrier's end: log 1.) -/
def Obligations.LockCommandsActAfterTheirBarrier : Prop :=
  (∀ (i : Instr) (c : Cmd) (g : GuardUnit → GuardUnit) (o : Outcome),
    (i = .lockAll ∧ c = .lockAll ∧ o = { result := .done } ∧ g = (fun x => { x with range := none }) ∨
      i = .freezeLocks ∧ c = .freezeLocks ∧ o = { result := .done } ∧ g = (fun x => { x with frozen := true }) ∨
      ∃ low high invert, i = .unlockRange ∧ c = .unlockRange low high invert ∧
        o = { result := .done, value := low + 65536 * high, aux := invert } ∧
        g = (fun x => { x with range := some { low := low, high := high, invert := decide (invert = 1) } })) →
    (∀ (s : State) (f : CmdFrame), Dispatches s f c →
      (s.guard.mode = .disabled → Completes i s f c { result := .lockDisabled } s) ∧
      (s.guard.mode = .active → s.guard.frozen = true → Completes i s f c { result := .frozen } s) ∧
      (s.guard.mode = .active → s.guard.frozen = false → programRoom s < (pendingStreams s).length →
        GoesOn i s f c (.waitRoom (pendingStreams s).length) s) ∧
      (s.guard.mode = .active → s.guard.frozen = false → pendingStreams s ≠ [] →
        (pendingStreams s).length ≤ programRoom s →
        ∃ u, Synced s (pendingStreams s) u ∧ GoesOn i s f c .waitBarrier u) ∧
      (s.guard.mode = .active → s.guard.frozen = false → pendingStreams s = [] → s.write.jobs ≠ [] →
        GoesOn i s f c .waitBarrier s) ∧
      (s.guard.mode = .active → s.guard.frozen = false → pendingStreams s = [] → s.write.jobs = [] →
        Completes i s f c o { s with guard := g s.guard })) ∧
    ∀ (s : State) (d : Dispatched), waiting s = some d → d.phase = .waitBarrier → d.cmd = c →
      (s.write.jobs ≠ [] → exec .barrierEnd s = .next s) ∧
      (s.write.jobs = [] → Ends .barrierEnd s d o { s with guard := g s.guard })) ∧
  ∀ (s : State) (g : Nat),
    (s.guard.mode = .disabled → locked s g = false) ∧ (g < 5 ∨ 1023 < g → locked s g = false) ∧
    (s.guard.mode = .active → 5 ≤ g → g ≤ 1023 →
      (s.guard.range = none → locked s g = true) ∧
      ∀ r, s.guard.range = some r →
        ((r.low ≤ g ∧ g ≤ r.high) → locked s g = r.invert) ∧ ((g < r.low ∨ r.high < g) → locked s g = !r.invert))

/-- An edge of GUARD_N: a fall in ACTIVE with the frozen flag clear withdraws the range, otherwise the range stays; a
rise ends the hold episode. Nothing else that is held changes, and a level already there does nothing. A guarded
device starts no PROGRAM and no ERASE: what an idle engine is given at a choice of work is a READ or nothing. The
first write held, where it is the head job's, raises GUARD and adds its notice; within the episode a choice raises no
more. When GUARD_N rises and the head job's segment has become locked, the job is failed by its lock: its stream is FAULTED,
the stream's jobs and tail are gone, nothing is programmed, and GUARD and MEDIA are raised. (An edge to the level already
there: log 1. An episode that begins with no fall of GUARD_N seen since a reset: log 60.) -/
def Obligations.GuardHoldsWritesAndItsEdgesAct : Prop :=
  (∀ s : State, operating s = true → nothingDue s = true → s.power.state ≠ .pfailFlush → s.power.state ≠ .dead →
    (s.guard.level = true →
      ∃ t, exec .guardNFall s = .next t ∧
        t.held = { s.held with guard := { s.guard with
          level := false, episode := false
          range := if s.guard.mode = .active ∧ s.guard.frozen = false then none else s.guard.range } } ∧
        SameWork s t ∧ (s.guard.episode = true → t.guard.episode = true)) ∧
    (s.guard.level = false →
      ∃ t, exec .guardNRise s = .next t ∧
        t.held = { s.held with guard := { s.guard with level := true, episode := false } } ∧
        t.guard.episode = false ∧ (NoLockedHead s → SameWork s t)) ∧
    (s.guard.level = false → exec .guardNFall s = .next s) ∧ (s.guard.level = true → exec .guardNRise s = .next s)) ∧
  (∀ (s : State) (j : Job) (js : List Job) (n : Nat), isAwake s = true → nothingDue s = true → s.guard.level = false →
    s.write.jobs = j :: js → j.stream = some n → n < s.streams.length → locked s j.segment = true →
    s.engine.op = none → s.engine.reloc = none → s.engine.request = none → s.catalogue.queue = [] →
    ∃ t, exec .guardNRise s = .next t ∧ (streamOf t n).state = .faulted ∧ (streamOf t n).tail = .exhausted ∧
      (streamOf t n).chain = (streamOf s n).chain ∧ (∀ k ∈ t.write.jobs, k ∈ js ∧ k.stream ≠ some n) ∧
      t.guard.level = true ∧ t.medium = s.medium ∧
      (s.events.holdClear = false → Raised t .guardHeld ∧ Raised t .media)) ∧
  ∀ s : State, guarded s = true → isAwake s = true → s.engine.op = none →
    (∀ r, (choose s).engine.op = some r → opWrites r.op = false) ∧ SameWork s (choose s) ∧
    (∀ j js, s.write.jobs = j :: js → s.engine.reloc = none → s.engine.request = none → s.catalogue.queue = [] →
      s.events.holdClear = false → s.guard.episode = false →
      Raised (choose s) .guardHeld ∧ (choose s).guard.episode = true ∧
      (choose s).events.fresh = s.events.fresh ++ [(noticeRank .guardHold,
        { kind := .guardHold, stream := j.stream.getD 0xFF, segment := j.segment, value := 1, value2 := 0 })]) ∧
    (s.guard.episode = true → (choose s).events = s.events)

/-- SEGMENT STATUS at an empty Response Buffer: segment 4 and an erased pool segment are answered at once, every other
by counting programmed frames from frame 0 up; the count ends at the first erased frame or after frame 31. The record
names the segment, its state, its owner and its marks. (The byte range of the READs is the model's choice: log 59. That a
retired segment is not open: log 65.) -/
def Obligations.SegmentStatusCountsTheFrames : Prop :=
  (∀ (s : State) (f : CmdFrame) (g : Nat), Dispatches s f (.segmentStatus g) → s.rsp.bytes = [] →
    (g = 4 → Completes .segmentStatus s f (.segmentStatus g)
      { result := .done, response := true, value := 12, aux := g }
      (s.withResponse [4, 0, 0, 255, 0, 4, 0, 0, 0, 0, 0, 0])) ∧
    (isUser g = true → (segOf s g).state = .freeErased →
      Completes .segmentStatus s f (.segmentStatus g) { result := .done, response := true, value := 12, aux := g }
        (s.withResponse (segmentStatusBytes g (segOf s g) (locked s g) 0 (poolPosition s g)))) ∧
    (g ≠ 4 → (isUser g = true → (segOf s g).state ≠ .freeErased) →
      GoesOn .segmentStatus s f (.segmentStatus g) (.counting 0) (s.withRequest .sequencer (.read g 0 0 512)))) ∧
  (∀ (s : State) (d : Dispatched) (g k seg frame lo hi : Nat) (noise : ReadNoise),
    Performs s .sequencer (.read seg frame lo hi) → s.sequencer.dispatched = some d → d.phase = .counting k →
    d.cmd = .segmentStatus g →
    (frameErased (readFrame s.medium seg frame lo hi noise) = true →
      Ends (.arrayReadEnd noise) s d { result := .done, response := true, value := 12, aux := g }
        (s.withIdle.withResponse (segmentStatusBytes g (segOf s g) (locked s g) k (poolPosition s g)))) ∧
    (frameErased (readFrame s.medium seg frame lo hi noise) = false → k < 31 →
      Continues (.arrayReadEnd noise) s d (.counting (k + 1))
        (s.withIdle.withRequest .sequencer (.read g (k + 1) 0 512))) ∧
    (frameErased (readFrame s.medium seg frame lo hi noise) = false → k = 31 →
      Ends (.arrayReadEnd noise) s d { result := .done, response := true, value := 12, aux := g }
        (s.withIdle.withResponse (segmentStatusBytes g (segOf s g) (locked s g) 32 (poolPosition s g))))) ∧
  ∀ (g count position : Nat) (e : SegEntry) (l : Bool), isUser g = true →
    segmentStatusBytes g e l count position =
      leBytes 2 g ++ [BitVec.ofNat 8 (segStateCode e.state), BitVec.ofNat 8 (e.owner.getD 255),
        BitVec.ofNat 8 (bitOf l + 2 * bitOf (e.state = .segSealed) + 4 * bitOf (e.state = .retired) + 8 * bitOf e.weak +
          16 * bitOf e.failing + 32 * bitOf e.isOpen + 64 * bitOf e.mountOnly), BitVec.ofNat 8 count] ++
        leBytes 4 e.generation ++ leBytes 2 position

/-- ARM arms for SEAL, FORMAT or VAULT CLOSE and for nothing else, with the complement as its check; any other pair and
any ARM refused before leaves the device disarmed. -/
def Obligations.ArmSetsItsTarget : Prop :=
  ∀ (s : State) (f : CmdFrame) (target check : Byte), goodHead s = some (f, .arm target check) →
    dispatchReady s = true →
    ((target = 0x49 ∨ target = 0x4A ∨ target = 0x52) → check = ~~~ target →
      ∃ t, exec .arm s = .next t ∧
        Settled s t { s.held.taken with arm := some target }
          (some (reply f (.arm target check) { result := .done, value := target.toNat }))) ∧
    (¬ ((target = 0x49 ∨ target = 0x4A ∨ target = 0x52) ∧ check = ~~~ target) →
      Completes .arm s f (.arm target check) { result := .badParam } s)

/-- SEAL, in its order: an undefined stream, an archived or faulted one, a sequence above the newest or a stream
without a record; the wait for its tail's room, the tail's job, the wait for its jobs; then a faulted stream, the guard,
nothing to seal, too few ledger frames, at dispatch or at the wait's end; otherwise the write segment is closed where the
set holds it, its tail EXHAUSTED, the segment no longer open and the stream left without a write segment, and of the groups of 31, the last holding the remainder, the first is handed to the engine as the next ledger
frame. (Which entry is the write segment: log 44.)
(BARRIER_END changes nothing before the wait's end: log 1. The bytes of a ledger frame: log 10.) -/
def Obligations.SealJudgesAndHandsOverTheLedgerFrame : Prop :=
  (∀ (s : State) (f : CmdFrame) (n seq : Nat), Dispatches s f (.sealStream n seq) →
    ((streamOf s n).defn = none → Completes .sealStream s f (.sealStream n seq) { result := .noStream } s) ∧
    ((streamOf s n).defn ≠ none → (streamOf s n).state = .archived ∨ (streamOf s n).state = .faulted →
      Completes .sealStream s f (.sealStream n seq) { result := .refusedState } s) ∧
    (takesRecords (streamOf s n) = true → (streamOf s n).newest < seq ∨ holdsRecord (streamOf s n) = false →
      Completes .sealStream s f (.sealStream n seq) { result := .badParam } s) ∧
    (takesRecords (streamOf s n) = true → seq ≤ (streamOf s n).newest → holdsRecord (streamOf s n) = true →
      n ∈ pendingStreams s → s.write.jobs.length = 8 →
      GoesOn .sealStream s f (.sealStream n seq) (.waitRoom 1) s) ∧
    (takesRecords (streamOf s n) = true → seq ≤ (streamOf s n).newest → holdsRecord (streamOf s n) = true →
      n ∉ pendingStreams s → hasJobOf s n = true →
      GoesOn .sealStream s f (.sealStream n seq) .waitBarrier s) ∧
    (takesRecords (streamOf s n) = true → seq ≤ (streamOf s n).newest → holdsRecord (streamOf s n) = true →
      n ∉ pendingStreams s → hasJobOf s n = false →
      (guarded s = true → Completes .sealStream s f (.sealStream n seq) { result := .writeProtected } s) ∧
      (guarded s = false → sealSet n seq (streamOf s n) = [] →
        Completes .sealStream s f (.sealStream n seq) { result := .done } s) ∧
      (guarded s = false → sealSet n seq (streamOf s n) ≠ [] →
        32 < s.vault.used + ((sealSet n seq (streamOf s n)).length + 30) / 31 →
        Completes .sealStream s f (.sealStream n seq) { result := .ledgerFull } s) ∧
      (guarded s = false → sealSet n seq (streamOf s n) ≠ [] →
        s.vault.used + ((sealSet n seq (streamOf s n)).length + 30) / 31 ≤ 32 →
        ∃ groups, GroupsOf31 (sealSet n seq (streamOf s n)) groups ∧
          GoesOn .sealStream s f (.sealStream n seq) (.sealing groups 0 (sealSet n seq (streamOf s n)).length)
            ((closeForSeal n (sealSet n seq (streamOf s n)) s).withRequest .ledger
              (.program (systemProgram .ledger 2 s.vault.used (ledgerBytes (.seals (groups.headD [])))))))) ∧
    (takesRecords (streamOf s n) = true → seq ≤ (streamOf s n).newest → holdsRecord (streamOf s n) = true →
      s.write.jobs.length < 8 → n ∈ pendingStreams s → ∀ p, (streamOf s n).tail = .pos p →
      GoesOn .sealStream s f (.sealStream n seq) .waitBarrier (s.withSynced n p))) ∧
  (∀ (s : State) (d : Dispatched) (n seq : Nat), waiting s = some d → d.phase = .waitBarrier →
    d.cmd = .sealStream n seq →
    (hasJobOf s n = true → exec .barrierEnd s = .next s) ∧
    (hasJobOf s n = false →
      ((streamOf s n).state = .faulted → Ends .barrierEnd s d { result := .refusedState } s) ∧
      ((streamOf s n).state ≠ .faulted → guarded s = true →
        Ends .barrierEnd s d { result := .writeProtected } s) ∧
      ((streamOf s n).state ≠ .faulted → guarded s = false → sealSet n seq (streamOf s n) = [] →
        Ends .barrierEnd s d { result := .done } s) ∧
      ((streamOf s n).state ≠ .faulted → guarded s = false → sealSet n seq (streamOf s n) ≠ [] →
        32 < s.vault.used + ((sealSet n seq (streamOf s n)).length + 30) / 31 →
        Ends .barrierEnd s d { result := .ledgerFull } s) ∧
      ((streamOf s n).state ≠ .faulted → guarded s = false → sealSet n seq (streamOf s n) ≠ [] →
        s.vault.used + ((sealSet n seq (streamOf s n)).length + 30) / 31 ≤ 32 →
        ∃ groups, GroupsOf31 (sealSet n seq (streamOf s n)) groups ∧
          Continues .barrierEnd s d (.sealing groups 0 (sealSet n seq (streamOf s n)).length)
            ((closeForSeal n (sealSet n seq (streamOf s n)) s).withRequest .ledger
              (.program (systemProgram .ledger 2 s.vault.used (ledgerBytes (.seals (groups.headD []))))))))) ∧
  ∀ (s u : State) (n : Nat) (set : List SealEntry), u = closeForSeal n set s →
    storeWf (fun _ => SegEntry.free) 0 s.segments.map = true →
    (∀ e x, writeEntry s (streamOf s n) = some e → x ∈ set → x.segment = e.segment →
      streamOf u n = { streamOf s n with tail := .exhausted } ∧
      segOf u e.segment = { segOf s e.segment with isOpen := false } ∧ writeEntry u (streamOf u n) = none ∧
      (∀ m, m ≠ n → streamOf u m = streamOf s m) ∧ (∀ g, g ≠ e.segment → segOf u g = segOf s g) ∧
      u = { s with streams := u.streams, segments := { s.segments with map := u.segments.map } }) ∧
    ((∀ e x, writeEntry s (streamOf s n) = some e → x ∈ set → x.segment ≠ e.segment) → u = s)

/-- A ledger program has ended. A passed group becomes SEALED in its chain and in the Segment Map and the next group
follows, or SEAL completes with how many segments and frames; a failed frame stays used and the same content goes into
the next one. Where no frame is left for the same content or for the next group, the command completes MEDIUM, and what
was sealed stays sealed. The closing form closes the vault. (The bytes of a ledger frame: log 10. That the command stops
with MEDIUM where a group passed and no frame is left for the next one is inferred: log 53.) -/
def Obligations.LedgerProgramsSealOrClose : Prop :=
  (∀ (s : State) (d : Dispatched) (p : Program) (r : ProgramResult) (n seq : Nat) (group : List SealEntry)
      (rest : List (List SealEntry)) (programmed total : Nat), Performs s .ledger (.program p) →
    s.sequencer.dispatched = some d → d.phase = .sealing (group :: rest) programmed total →
    d.cmd = .sealStream n seq →
    (r.failed = true → s.vault.used < 31 →
      ∃ t, exec (.ledgerProgramEnd r) s = .next t ∧
        t.sequencer.dispatched = some { d with phase := .sealing (group :: rest) (programmed + 1) total } ∧
        Asked t { who := .ledger,
                  op := .program (systemProgram .ledger 2 (s.vault.used + 1) (ledgerBytes (.seals group))) } ∧
        t.vault = { s.vault with used := s.vault.used + 1 } ∧ t.medium = s.medium.endProgram p r ∧
        t.engine.lastFail = true ∧ t.engine.prevFail = s.engine.lastFail) ∧
    (r.failed = true → 31 ≤ s.vault.used →
      ∃ t, exec (.ledgerProgramEnd r) s = .next t ∧ t.sequencer.dispatched = none ∧
        Posts s t (completionOf d.tag d.opcode (cmdDetail d.cmd) d.abortLate { result := .medium }) ∧
        t.vault = { s.vault with used := 32 } ∧ t.medium = s.medium.endProgram p r) ∧
    (r = .pass → rest = [] → s.vault.used < 32 →
      ∃ t, exec (.ledgerProgramEnd r) s = .next t ∧ t.sequencer.dispatched = none ∧
        Posts s t (completionOf d.tag d.opcode (cmdDetail d.cmd) d.abortLate
          { result := .done, value := total, aux := programmed + 1 }) ∧
        t.vault = { s.vault with used := s.vault.used + 1,
                                 sealedSet := s.vault.sealedSet ++ group.map (fun x => x.segment) } ∧
        (∀ x ∈ group, (segOf t x.segment).state = .segSealed ∧ (segOf t x.segment).isOpen = false) ∧
        (∀ e ∈ (streamOf t n).chain, group.any (fun x => x.segment = e.segment) = true → e.isSealed = true) ∧
        t.medium = s.medium.endProgram p .pass) ∧
    (∀ next more, r = .pass → rest = next :: more → s.vault.used < 31 →
      ∃ t, exec (.ledgerProgramEnd r) s = .next t ∧
        t.sequencer.dispatched = some { d with phase := .sealing rest (programmed + 1) total } ∧
        Asked t { who := .ledger,
                  op := .program (systemProgram .ledger 2 (s.vault.used + 1) (ledgerBytes (.seals next))) } ∧
        t.vault = { s.vault with used := s.vault.used + 1,
                                 sealedSet := s.vault.sealedSet ++ group.map (fun x => x.segment) } ∧
        (∀ x ∈ group, (segOf t x.segment).state = .segSealed) ∧ t.medium = s.medium.endProgram p .pass) ∧
    (r = .pass → rest ≠ [] → 31 ≤ s.vault.used →
      ∃ t, exec (.ledgerProgramEnd r) s = .next t ∧ t.sequencer.dispatched = none ∧
        Posts s t (completionOf d.tag d.opcode (cmdDetail d.cmd) d.abortLate { result := .medium }) ∧
        t.vault = { s.vault with used := 32, sealedSet := s.vault.sealedSet ++ group.map (fun x => x.segment) } ∧
        (∀ x ∈ group, (segOf t x.segment).state = .segSealed) ∧ t.medium = s.medium.endProgram p .pass)) ∧
  ∀ (s : State) (d : Dispatched) (p : Program) (r : ProgramResult), Performs s .ledger (.program p) →
    s.sequencer.dispatched = some d → d.phase = .closing →
    (r = .pass → s.vault.used < 32 →
      ∃ t, exec (.ledgerProgramEnd r) s = .next t ∧ t.sequencer.dispatched = none ∧
        Posts s t (completionOf d.tag d.opcode (cmdDetail d.cmd) d.abortLate
          { result := .done, value := s.vault.used }) ∧
        t.vault = { s.vault with used := s.vault.used + 1, closed := true } ∧
        t.medium = s.medium.endProgram p .pass) ∧
    (r.failed = true → s.vault.used < 31 →
      ∃ t, exec (.ledgerProgramEnd r) s = .next t ∧ t.sequencer.dispatched = some { d with phase := .closing } ∧
        Asked t { who := .ledger,
                  op := .program (systemProgram .ledger 2 (s.vault.used + 1) (ledgerBytes .closing)) } ∧
        t.vault = { s.vault with used := s.vault.used + 1 }) ∧
    (r.failed = true → 31 ≤ s.vault.used →
      ∃ t, exec (.ledgerProgramEnd r) s = .next t ∧ t.sequencer.dispatched = none ∧
        Posts s t (completionOf d.tag d.opcode (cmdDetail d.cmd) d.abortLate { result := .medium }) ∧
        t.vault = { s.vault with used := 32 })

/-- The vault. WRITE in its order: closed, not the next slot, the guard, the wait for room; then a job of the whole
slot, 0xFF beyond the data, names the command, which defers, the next frame then being dispatched in the same event where
it can be (log 63). READ: a queued slot from its job, a written one by a
READ, an unwritten one BLANK. CLOSE in its order: closed, the guard, no ledger frame left; then the closing ledger
frame. The next vault slot is one above the highest slot written or queued, and 0 where there is none. (The bytes of a
ledger frame: log 10. The bytes of a slot that only its label makes BROKEN, or whose failed mark alone makes it DAMAGED,
are the model's choice: log 58.) -/
def Obligations.VaultCommandsActInTheirOrder : Prop :=
  ((∀ (s : State) (f : CmdFrame) (k : Nat) (data : List Byte), Dispatches s f (.vaultWrite k data) →
    (s.vault.closed = true → Completes .vaultWrite s f (.vaultWrite k data) { result := .closed } s) ∧
    (s.vault.closed = false → k ≠ nextSlot s →
      Completes .vaultWrite s f (.vaultWrite k data) { result := .order } s) ∧
    (s.vault.closed = false → k = nextSlot s → guarded s = true →
      Completes .vaultWrite s f (.vaultWrite k data) { result := .writeProtected } s) ∧
    (s.vault.closed = false → k = nextSlot s → guarded s = false → s.write.jobs.length = 8 →
      GoesOn .vaultWrite s f (.vaultWrite k data) (.waitRoom 1) s) ∧
    (s.vault.closed = false → k = nextSlot s → guarded s = false → s.write.jobs.length < 8 →
      Defers .vaultWrite s
        ((s.withJobs (s.write.jobs ++ [vaultJob k s.sequencer.nextId data])).withDeferred f (.vaultWrite k)))) ∧
  (∀ (s : State) (f : CmdFrame) (k : Nat), Dispatches s f (.vaultRead k) → s.rsp.bytes = [] →
    (∀ j, s.write.jobs = [j] → j.segment = 3 → j.frame = k →
      Completes .vaultRead s f (.vaultRead k) { result := .done, response := true, value := 512, aux := k }
        (s.withResponse j.image)) ∧
    ((∀ j ∈ s.write.jobs, j.segment ≠ 3) → k ∈ s.vault.written →
      GoesOn .vaultRead s f (.vaultRead k) .slotRead (s.withRequest .sequencer (.read 3 k 0 512))) ∧
    ((∀ j ∈ s.write.jobs, j.segment ≠ 3) → k ∉ s.vault.written →
      Completes .vaultRead s f (.vaultRead k) { result := .blank, response := true, value := 512, aux := k }
        (s.withResponse (List.replicate 512 0xFF)))) ∧
  (∀ (s : State) (d : Dispatched) (k seg frame lo hi : Nat) (noise : ReadNoise),
    Performs s .sequencer (.read seg frame lo hi) → s.sequencer.dispatched = some d → d.phase = .slotRead →
    d.cmd = .vaultRead k →
    ∀ bytes, bytes = (readFrame s.medium seg frame lo hi noise).bytes →
    (k ∉ s.vault.failed → slotGrade (readFrame s.medium seg frame lo hi noise) ≠ .broken →
      Ends (.arrayReadEnd noise) s d { result := .done, response := true, value := 512, aux := k }
        (s.withIdle.withResponse bytes)) ∧
    (k ∈ s.vault.failed ∨ slotGrade (readFrame s.medium seg frame lo hi noise) = .broken →
      ∃ t, exec (.arrayReadEnd noise) s = .next t ∧ t.rsp = { bytes := bytes, index := 0 } ∧
        Posts s t (completionOf d.tag d.opcode (cmdDetail d.cmd) d.abortLate
          { result := .damaged, response := true, value := 512, aux := k }) ∧
        (s.events.holdClear = false → Raised t .media))) ∧
  ∀ (s : State) (f : CmdFrame), Dispatches s f .vaultClose →
    (s.vault.closed = true → Completes .vaultClose s f .vaultClose { result := .closed } s) ∧
    (s.vault.closed = false → guarded s = true →
      Completes .vaultClose s f .vaultClose { result := .writeProtected } s) ∧
    (s.vault.closed = false → guarded s = false → 32 ≤ s.vault.used →
      Completes .vaultClose s f .vaultClose { result := .ledgerFull } s) ∧
    (s.vault.closed = false → guarded s = false → s.vault.used < 32 →
      GoesOn .vaultClose s f .vaultClose .closing
        (s.withRequest .ledger (.program (systemProgram .ledger 2 s.vault.used (ledgerBytes .closing)))))) ∧
  ∀ s : State,
    (∀ k ∈ s.vault.written, k < nextSlot s) ∧ (∀ j ∈ s.write.jobs, j.segment = 3 → j.frame < nextSlot s) ∧
    (nextSlot s = 0 ∨ nextSlot s - 1 ∈ s.vault.written ∨
      ∃ j ∈ s.write.jobs, j.segment = 3 ∧ j.frame = nextSlot s - 1)

/-! ### Options, descriptor, identity, notices -/

/-- A SET OPTION of TICK_SOURCE or TICK_DIVIDER sets the option and clears the prescaler count in its dispatch event,
also to the value it had; the counter, the epoch, TIME_VALID and the alarm stay, and the first increment comes a full 2
raised to the divider pulses later. A BAD_PARAM, a GET OPTION and a SET OPTION of another option leave the prescaler
count. With the source OFF no pulse changes anything. GET OPTION reports the option's value; SET OPTION replaces it, reports
the old value and leaves the others; of the time it changes at most the prescaler count. -/
def Obligations.OptionsAndThePrescaler : Prop :=
  ((∀ (s : State) (f : CmdFrame) (id v : Nat), Dispatches s f (.setOption id v) →
    (id = 2 → Completes .setOption s f (.setOption id v) { result := .done, value := v, aux := s.options.tickSource }
      { s with options := { s.options with tickSource := v }, time := { s.time with prescaler := 0 } }) ∧
    (id = 3 → Completes .setOption s f (.setOption id v) { result := .done, value := v, aux := s.options.tickDivider }
      { s with options := { s.options with tickDivider := v }, time := { s.time with prescaler := 0 } }) ∧
    (id ≠ 2 → id ≠ 3 → ∃ t, exec .setOption s = .next t ∧ t.time = s.time)) ∧
  (∀ (s : State) (f : CmdFrame) (id v : Nat), goodHead s = some (f, .setOption id v) → dispatchReady s = true →
    paramsInRange (.setOption id v) = false →
    ∃ t, exec .setOption s = .next t ∧ t.options = s.options ∧ t.time = s.time) ∧
  (∀ (s : State) (f : CmdFrame) (id : Nat), Dispatches s f (.getOption id) →
    ∃ t, exec .getOption s = .next t ∧ t.options = s.options ∧ t.time = s.time) ∧
  ∀ (s : State) (p : Pulse), nothingDue s = true → pulseCounts p s = true → s.time.prescaler = 0 →
    (∀ k, k < 2 ^ s.options.tickDivider → ∃ t, execAll (List.replicate k (.sourcePulse p)) s = some t ∧
      t.time = { s.time with prescaler := k }) ∧
    ∃ t, execAll (List.replicate (2 ^ s.options.tickDivider) (.sourcePulse p)) s = some t ∧
      t.time.counter = s.time.counter + 1 ∧ t.time.prescaler = 0) ∧
  (∀ (s : State) (p : Pulse), s.options.tickSource = 0 → exec (.sourcePulse p) s = .next s) ∧
  (∀ (s : State) (f : CmdFrame) (id : Nat), Dispatches s f (.getOption id) →
    Completes .getOption s f (.getOption id) { result := .done, value := optionValue s.options id, aux := id } s) ∧
  (∀ (s : State) (f : CmdFrame) (id v : Nat), Dispatches s f (.setOption id v) →
    Completes .setOption s f (.setOption id v) { result := .done, value := v, aux := optionValue s.options id }
      { s with options := withOption id v s.options
               time := if id = 2 ∨ id = 3 then { s.time with prescaler := 0 } else s.time }) ∧
  ∀ (o : Options) (id v k : Nat), 1 ≤ id → id ≤ 6 → 1 ≤ k → k ≤ 6 →
    optionValue (withOption id v o) k = if k = id then v else optionValue o k

/-- DESCRIBE and IDENTIFY at an empty Response Buffer request their READs; a descriptor copy that passes is the
response, one that does not is followed by the next, and after copy 2 the response is copy 0, DAMAGED; the identity
record is that of the first copy whose bytes agree with their complements. (The bytes of a copy 0 that only its label makes
fail: log 58.) -/
def Obligations.DescribeAndIdentifyReadTheirCopies : Prop :=
  (∀ (s : State) (f : CmdFrame), s.rsp.bytes = [] →
    (Dispatches s f .describe →
      GoesOn .describe s f .describe (.copies 0 []) (s.withRequest .sequencer (.read 4 0 0 40))) ∧
    (Dispatches s f .identify →
      GoesOn .identify s f .identify .identity (s.withRequest .sequencer (.read 4 3 0 256)))) ∧
  (∀ (s : State) (d : Dispatched) (k seg frame lo hi : Nat) (first bytes : List Byte) (noise : ReadNoise),
    Performs s .sequencer (.read seg frame lo hi) → s.sequencer.dispatched = some d → d.phase = .copies k first →
    bytes = (readFrame s.medium seg frame lo hi noise).bytes →
    (copyPasses (readFrame s.medium seg frame lo hi noise) = true →
      Ends (.arrayReadEnd noise) s d { result := .done, response := true, value := 40, aux := k }
        (s.withIdle.withResponse bytes)) ∧
    (copyPasses (readFrame s.medium seg frame lo hi noise) = false → k < 2 →
      Continues (.arrayReadEnd noise) s d (.copies (k + 1) (if k = 0 then bytes else first))
        (s.withIdle.withRequest .sequencer (.read 4 (k + 1) 0 40))) ∧
    (copyPasses (readFrame s.medium seg frame lo hi noise) = false → k = 2 →
      ∃ t, exec (.arrayReadEnd noise) s = .next t ∧ t.rsp = { bytes := first, index := 0 } ∧
        Posts s t (completionOf d.tag d.opcode (cmdDetail d.cmd) d.abortLate
          { result := .damaged, response := true, value := 40, aux := 3 }) ∧
        (s.events.holdClear = false → Raised t .media))) ∧
  ∀ (s : State) (d : Dispatched) (k seg frame lo hi : Nat) (bytes : List Byte) (noise : ReadNoise),
    Performs s .sequencer (.read seg frame lo hi) → s.sequencer.dispatched = some d → d.phase = .identity →
    bytes = (readFrame s.medium seg frame lo hi noise).bytes → bytes.length = 256 → k < 8 →
    (∀ i, i < k → ∃ b, b < 16 ∧ bytes.getD (32 * i + b) 0 ≠ ~~~ bytes.getD (32 * i + 16 + b) 0) →
    (∀ b, b < 16 → bytes.getD (32 * k + b) 0 = ~~~ bytes.getD (32 * k + 16 + b) 0) →
    Ends (.arrayReadEnd noise) s d { result := .done, response := true, value := 20, aux := k }
      (s.withIdle.withResponse ((bytes.drop (32 * k)).take 16 ++ [BitVec.ofNat 8 k, 0, 0, 0]))

/-- READ NOTICES at an empty Response Buffer: the lost counter and every notice, oldest first, are the response; the
list is then empty and the counter 0, and no event bit changes by it. (A notice added in the same event is not in the
response: log 66.) -/
def Obligations.ReadNoticesTakesTheWholeList : Prop :=
  ∀ (s : State) (f : CmdFrame), Dispatches s f .readNotices → s.rsp.bytes = [] →
    Completes .readNotices s f .readNotices
      { result := .done, response := true, value := 4 + 12 * s.events.notices.length }
      { s.withResponse (BitVec.ofNat 8 s.events.lost :: BitVec.ofNat 8 s.events.notices.length :: 0 :: 0 ::
          s.events.notices.flatMap noticeBytes) with
        events := { s.events with notices := [], lost := 0 } }

/-! ### Time -/

/-- SET TIME loads the counter and the epoch, clears the prescaler count and makes the time valid, and leaves the
alarm; SET ALARM arms with its value or cancels; neither raises an event of its own. A source pulse of the source in
force advances the prescaler count; the pulse that completes 2 raised to the divider increments the counter, wraps it
into the epoch with WRAP, and fires an armed alarm it reaches with ALARM, once. A pulse that does not count does
nothing. The rows for an increment, a wrap and a match are that pulse, where it is one. (Which rows are one event: log
23.) -/
def Obligations.TimeIsSetArmedAndCounted : Prop :=
  ((∀ (s : State) (f : CmdFrame) (epoch : Byte) (ticks : Word32), Dispatches s f (.setTime epoch ticks) →
    Completes .setTime s f (.setTime epoch ticks) { result := .done, value := ticks.toNat, aux := epoch.toNat }
      { s with time := { s.time with counter := ticks, epoch := epoch, prescaler := 0, valid := true } }) ∧
  ∀ (s : State) (f : CmdFrame) (action : Nat) (ticks : Word32), Dispatches s f (.setAlarm action ticks) →
    (action = 1 →
      Completes .setAlarm s f (.setAlarm action ticks) { result := .done, value := ticks.toNat, aux := 1 }
        { s with time := { s.time with armed := true, alarm := ticks } }) ∧
    (action = 0 →
      Completes .setAlarm s f (.setAlarm action ticks) { result := .done }
        { s with time := { s.time with armed := false } })) ∧
  ∀ (s : State) (p : Pulse), nothingDue s = true → s.power.state ≠ .doze →
    (pulseCounts p s = false → exec (.sourcePulse p) s = .next s) ∧
    (pulseCounts p s = true → s.time.prescaler + 1 < 2 ^ s.options.tickDivider →
      ∃ t, exec (.sourcePulse p) s = .next t ∧
        t.held = { s.held with time := { s.time with prescaler := s.time.prescaler + 1 } } ∧
        (NoLockedHead s → SameWork s t)) ∧
    (pulseCounts p s = true → 2 ^ s.options.tickDivider ≤ s.time.prescaler + 1 →
      ∀ i, i = .sourcePulse p ∨ i = .tickIncrement p ∨ i = .counterWrap p ∧ s.time.counter = 0xFFFFFFFF ∨
        i = .alarmMatch p ∧ s.time.armed = true ∧ s.time.counter + 1 = s.time.alarm →
      ∃ t, exec i s = .next t ∧
        t.held = { s.held with time := { s.time with
          prescaler := 0
          counter := s.time.counter + 1
          epoch := if s.time.counter = 0xFFFFFFFF then s.time.epoch + 1 else s.time.epoch
          armed := s.time.armed && decide (s.time.counter + 1 ≠ s.time.alarm) } } ∧
        (s.events.holdClear = false → s.time.counter = 0xFFFFFFFF → Raised t .wrap) ∧
        (s.events.holdClear = false → s.time.armed = true → s.time.counter + 1 = s.time.alarm → Raised t .alarm) ∧
        (NoLockedHead s → SameWork s t))

/-- GET TIME always completes in its dispatch event, in READY and in RESTRICTED: the counter in value; the epoch,
TIME_VALID, the source and the divider in the bytes of aux; no state of the Timebase changes. -/
def Obligations.GetTimeCarriesTheTime : Prop :=
  ∀ (s : State) (f : CmdFrame), goodHead s = some (f, .getTime) → dispatchReady s = true →
    s.options.tickSource < 256 → s.options.tickDivider < 256 →
    ∃ o, Completes .getTime s f .getTime o s ∧ o.result = .done ∧ o.response = false ∧
      BitVec.ofNat 32 o.value = s.time.counter ∧
      leBytes 4 o.aux = [s.time.epoch, if s.time.valid then 1 else 0, BitVec.ofNat 8 s.options.tickSource,
        BitVec.ofNat 8 s.options.tickDivider]

/-! ### DOZE and HALT -/

/-- DOZE waits for the queue alone and HALT for the tails too, of whose pending bytes it makes jobs or waits for their room; at the commit point the entry condition is judged: with
no other frame, no operation and nothing pending the entry is due in the next event; otherwise the command completes
with NOT_ENTERED and the device stays. The end of DOZE's and HALT's barrier, when the queue is empty: the entry
condition is judged then. (BARRIER_END changes nothing before the barrier's end: log 1.) -/
def Obligations.DozeAndHaltJudgeTheEntryCondition : Prop :=
  (∀ (s : State) (f : CmdFrame) (i : Instr) (c : Cmd) (e : Entry), Dispatches s f c →
    (i = .doze ∧ c = .doze ∧ e = .doze ∨ i = .halt ∧ c = .halt ∧ e = .halt ∧ pendingStreams s = []) →
    (s.write.jobs ≠ [] → GoesOn i s f c .waitBarrier s) ∧
    (s.write.jobs = [] → s.sequencer.queue = [f] → s.host.assembler = .idle → engineClear s = true →
      Completes i s f c { result := .done } { s with power := { s.power with entryDue := some e } }) ∧
    (s.write.jobs = [] → s.sequencer.queue ≠ [f] ∨ s.host.assembler ≠ .idle ∨ engineClear s = false →
      Completes i s f c { result := .done, notEntered := true } s)) ∧
  (∀ (s : State) (f : CmdFrame), Dispatches s f .halt → pendingStreams s ≠ [] →
    (programRoom s < (pendingStreams s).length →
      GoesOn .halt s f .halt (.waitRoom (pendingStreams s).length) s) ∧
    ((pendingStreams s).length ≤ programRoom s →
      ∃ u, Synced s (pendingStreams s) u ∧ GoesOn .halt s f .halt .waitBarrier u)) ∧
  ∀ (s : State) (d : Dispatched) (e : Entry), waiting s = some d → d.phase = .waitBarrier →
    (d.cmd = .doze ∧ e = .doze ∨ d.cmd = .halt ∧ e = .halt) →
    (s.write.jobs ≠ [] → exec .barrierEnd s = .next s) ∧
    (s.write.jobs = [] → cmdFill s = 0 → engineClear s = true →
      Ends .barrierEnd s d { result := .done } { s with power := { s.power with entryDue := some e } }) ∧
    (s.write.jobs = [] → cmdFill s ≠ 0 ∨ engineClear s = false →
      Ends .barrierEnd s d { result := .done, notEntered := true } s)

/-- The entries take effect in the next event: the state and its cause are remembered. DOZE changes nothing else that
is held; HALT stops the count, clears the prescaler count, TIME_VALID and the armed flag, and a pending ALARM. WAKE_N
low wakes a DOZE and a HALT to the remembered state; HALT's wake starts the count again, TIME_VALID staying as it is.
A pulse that makes an enabled WRAP or ALARM pending wakes a DOZE in its own event. (The wake in the pulse's own event:
log 25.) -/
def Obligations.EntriesAndWakes : Prop :=
  (∀ (s : State) (a : Awake), operating s = true → s.power.state = .awake a →
    (soleDuty s false none (some .doze) →
      ∃ t, exec .dozeEntry s = .next t ∧
        t.held = { s.held with power := { s.power with state := .doze, remembered := some a, entryDue := none } } ∧
        SameWork s t) ∧
    (soleDuty s false none (some .halt) →
      ∃ t, exec (.haltEntry none) s = .next t ∧
        t.held = { s.held with
          power := { s.power with state := .halt, remembered := some a, entryDue := none }
          time := { s.time with valid := false, armed := false, prescaler := 0, running := false } } ∧
        t.events.latched = s.events.latched &&& ~~~ Event.alarm.bit ∧ SameWork s t)) ∧
  ∀ (s : State) (a : Awake), operating s = true → nothingDue s = true → s.power.remembered = some a →
    (s.power.state = .doze →
      (∃ t, exec (.dozeWake .wakeN) s = .next t ∧
        t.held = { s.held with power := { s.power with state := .awake a } } ∧ (NoLockedHead s → SameWork s t)) ∧
      ∀ p, pulseWakes p s = true →
        ∃ t, exec (.dozeWake (.pulse p)) s = .next t ∧
          t.held = { s.held with power := { s.power with state := .awake a }, time := pulseTime p s } ∧
          (NoLockedHead s → SameWork s t)) ∧
    (s.power.state = .halt →
      ∃ t, exec .haltWake s = .next t ∧
        t.held = { s.held with power := { s.power with state := .awake a }
                               time := { s.time with running := true } } ∧
        (NoLockedHead s → SameWork s t))

/-! ### The ends of the waits -/

/-- A command that waits for room in the Program Queue goes on when there is enough, judging afresh. A SYNC makes one job
of each pending tail, has every job name it and defers; a lock command, a HALT or a SEAL makes its tails' jobs and waits for
the queue; a VAULT WRITE emits its slot's job and defers; a COMMIT places its record, and emits its job and defers under
EAGER, or completes under LAZY with the job of the frame it filled. Where one defers and the next frame can be dispatched,
that frame is dispatched in the same event, before the engine chooses (log 63). (The row changes nothing before there is room: log
1. That a LAZY COMMIT emits the job, copies the record's rest and completes in one event is the model's choice: log 15.) -/
def Obligations.RoomWaitEndsWithRoom : Prop :=
  ∀ (s : State) (d : Dispatched) (need : Nat), waiting s = some d → d.phase = .waitRoom need →
    (programRoom s < need → exec .programQueueRoomWaitEnd s = .next s) ∧
    (need ≤ programRoom s →
      (d.cmd = .sync → pendingStreams s = [] → s.write.jobs = [] →
        Ends .programQueueRoomWaitEnd s d { result := .done, durable := true } s) ∧
      (∀ n attr, d.cmd = .commit n attr → (streamOf s n).defn = none →
        Ends .programQueueRoomWaitEnd s d { result := .noStream } s) ∧
      (∀ n attr, d.cmd = .commit n attr → takesRecords (streamOf s n) = true → stagedElsewhere s n = false →
        guarded s = true → Ends .programQueueRoomWaitEnd s d { result := .writeProtected } s) ∧
      (∀ k data, d.cmd = .vaultWrite k data → s.vault.closed = true →
        Ends .programQueueRoomWaitEnd s d { result := .closed } s) ∧
      (d.cmd = .lockAll → pendingStreams s = [] → s.write.jobs = [] →
        Ends .programQueueRoomWaitEnd s d { result := .done } { s with guard := { s.guard with range := none } }) ∧
      (d.cmd = .halt → pendingStreams s = [] → s.write.jobs ≠ [] →
        Continues .programQueueRoomWaitEnd s d .waitBarrier s) ∧
      (d.cmd = .sync → (pendingStreams s).length ≤ programRoom s → pendingStreams s ≠ [] ∨ s.write.jobs ≠ [] →
        ∃ u, Synced s (pendingStreams s) u ∧
          DefersAs .programQueueRoomWaitEnd s d (.sync (pendingStreams s).length)
            (u.withJobs (u.write.jobs.map (fun j => j.naming d.id)))) ∧
      (lockCommand d.cmd = true ∨ d.cmd = .halt → (pendingStreams s).length ≤ programRoom s → pendingStreams s ≠ [] →
        ∃ u, Synced s (pendingStreams s) u ∧ Continues .programQueueRoomWaitEnd s d .waitBarrier u) ∧
      (∀ n seq p, d.cmd = .sealStream n seq → s.write.jobs.length < 8 → n ∈ pendingStreams s →
        (streamOf s n).tail = .pos p →
        Continues .programQueueRoomWaitEnd s d .waitBarrier (s.withSynced n p)) ∧
      (∀ k data, d.cmd = .vaultWrite k data → s.vault.closed = false → k = nextSlot s → guarded s = false →
        s.write.jobs.length < 8 →
        DefersAs .programQueueRoomWaitEnd s d (.vaultWrite k) (s.withJobs (s.write.jobs ++ [vaultJob k d.id data]))) ∧
      (∀ n attr p, d.cmd = .commit n attr → CommitOpen s n → WriteUnlocked s n →
        (streamOf s n).newest < 4294967294 → (streamOf s n).tail = .pos p → p.unprog ≤ p.offset →
        (p.offset + 16 + (stagedPayload s).length < 512 → p.portions < 3 → d.eager = true → s.write.jobs.length < 8 →
          ∀ q, q = tailWith p ((streamOf s n).newest + 1) (recordBytes s n attr) →
          DefersAs .programQueueRoomWaitEnd s d (.commit n ((streamOf s n).newest + 1))
            ((((s.withStaging none).withLastCommit n).withStream n (streamWith (streamOf s n) (.pos (tailCarried q)))).withJobs
              (s.write.jobs ++ [(portionJob (streamOf s n) n q).naming d.id]))) ∧
        (p.offset < 512 → 512 ≤ p.offset + 16 + (stagedPayload s).length →
          p.offset + 16 + (stagedPayload s).length < 1024 → p.frame < 31 → p.image.length = p.offset →
          d.eager = false → s.write.jobs.length < 8 →
          ∀ seq bytes rest, seq = (streamOf s n).newest + 1 → bytes = recordBytes s n attr →
          rest = bytes.drop (512 - p.offset) →
          Ends .programQueueRoomWaitEnd s d { result := .done, value := seq, aux := (streamOf s n).durable }
            ((((s.withStaging none).withLastCommit n).withStream n
              (streamWith (streamOf s n) (.pos (tailBeyond p seq rest)))).withJobs
                (s.write.jobs ++ [frameJob (streamOf s n) n (tailFilled p seq bytes) false])))))

/-! ### The ends of the Array Engine's operations -/

/-- A program job has ended. PASS: it leaves the queue, its sequences advance its stream's durable-through, or its vault
slot is written, and a deferred command no job names any more posts. FAIL into a user segment: the job stays, its segment
is failing and the relocation takes the first available target. FAIL of a vault slot: the slot counts as written and
failed, and its command completes MEDIUM. -/
def Obligations.ProgramJobEndsByItsResult : Prop :=
  (∀ (s : State) (j : Job) (js : List Job), Performs s .job (.program (jobProgram j)) → s.write.jobs = j :: js →
    NoLockedHead (s.withJobs js) →
    ∃ t, exec (.programJobEnd .pass) s = .next t ∧ Programmed s t (jobProgram j) .pass ∧ t.write.jobs = js ∧
      (∀ n, j.stream = some n → n < s.streams.length →
        (streamOf t n).durable = j.seqs.foldl Nat.max (streamOf s n).durable) ∧
      (∀ n, j.stream ≠ some n → (streamOf t n).durable = (streamOf s n).durable) ∧
      (j.segment ≠ 3 → t.held = { s.held with
        lastFail := false, prevFail := s.engine.lastFail, medium := s.medium.endProgram (jobProgram j) .pass }) ∧
      (j.segment = 3 → j.frame ∈ t.vault.written ∧ t.vault.failed = s.vault.failed) ∧
      t.sequencer.deferred = s.sequencer.deferred.filter (fun d => js.any (fun k => k.released.contains d.id)) ∧
      ∀ d ∈ s.sequencer.deferred, js.any (fun k => k.released.contains d.id) = false → d.spoiled = false →
        (∀ m seq, d.kind = .commit m seq →
          Posts s t (completionOf d.tag d.opcode m d.abortLate
            { result := .done, durable := true, value := seq, aux := (streamOf t m).durable })) ∧
        (∀ k, d.kind = .sync k → Posts s t (completionOf d.tag d.opcode 0 d.abortLate
          { result := .done, durable := true, value := k })) ∧
        (∀ k, d.kind = .vaultWrite k → Posts s t (completionOf d.tag d.opcode 0 d.abortLate
          { result := .done, durable := true, value := k }))) ∧
  (∀ (s : State) (j : Job) (js : List Job) (n g : Nat) (gs : List Nat) (left : Leftover),
    Performs s .job (.program (jobProgram j)) → s.write.jobs = j :: js → j.stream = some n → j.segment ≠ 3 →
    availableSegs s = g :: gs →
    ∃ t, exec (.programJobEnd (.fail left)) s = .next t ∧ Programmed s t (jobProgram j) (.fail left) ∧
      (∃ stage, t.engine.reloc = some { segment := j.segment, frame := j.frame, portion := j.portion, stream := n,
                                        target := g, tried := 1, stage := stage, damagedFrames := 0 } ∧
        ((segOf s g).state = .freeStale → stage = .eraseTarget) ∧
        ((segOf s g).state ≠ .freeStale → 0 < j.frame ∨ 0 < j.portion → stage = .readFrame 0) ∧
        ((segOf s g).state ≠ .freeStale → j.frame = 0 → j.portion = 0 →
          stage = .copyFrame 0 { jobProgram j with segment := g, lo := 0, damaged := false })) ∧
      (segOf t j.segment).failing = true ∧ (segOf t g).state = .taken ∧
      t.segments.pool = s.segments.pool.filter (fun x => x ≠ g) ∧ (NoLockedHead s → SameWork s t)) ∧
  ∀ (s : State) (j : Job) (js : List Job) (left : Leftover), Performs s .job (.program (jobProgram j)) →
    s.write.jobs = j :: js → j.segment = 3 → NoLockedHead (s.withJobs js) →
    ∃ t, exec (.programJobEnd (.fail left)) s = .next t ∧ Programmed s t (jobProgram j) (.fail left) ∧
      t.write.jobs = js ∧ j.frame ∈ t.vault.written ∧ j.frame ∈ t.vault.failed ∧ t.engine.reloc = s.engine.reloc ∧
      ∀ d ∈ s.sequencer.deferred, j.released.contains d.id = true →
        js.any (fun k => k.released.contains d.id) = false →
        ∀ k, d.kind = .vaultWrite k →
          Posts s t (completionOf d.tag d.opcode 0 d.abortLate { result := .medium, value := k })

/-- The steps of a relocation up to its last copy. The target's erase: PASS begins the copy at frame 0; FAIL retires the
target. A READ of S is followed by the copy of that frame, below f as it reads, at f merged with the failed job. A copy
that passes below f is followed by the next frame. Where the failed job was portion 0 of its frame, that frame's copy is the
job's content alone, without a READ of S. (A portion of f that does not read programmed: log 57. The byte range of the
READs of S is the model's choice: log 56.) -/
def Obligations.RelocationCopiesFrameByFrame : Prop :=
  (∀ (s : State) (x : Reloc) (g : Nat), Performs s .relocation (.erase g) → s.engine.reloc = some x → x.target = g →
    (segOf s g).state = .taken → 0 < x.frame ∨ 0 < x.portion →
    ∃ t, exec (.relocationEraseEnd .pass) s = .next t ∧ t.medium = s.medium.erase g ∧
      t.engine.reloc = some { x with stage := .readFrame 0 } ∧ (segOf t g).state = .taken ∧ (segOf t g).weak = false ∧
      (s.catalogue.queue = [] →
        t.engine.op = some { who := .relocation, op := .read x.segment 0 0 512 }) ∧
      (NoLockedHead s → SameWork s t)) ∧
  (∀ (s : State) (x : Reloc) (i : Instr) (op : Op) (j : Job) (js : List Job), Performs s .relocation op →
    s.engine.reloc = some x → s.write.jobs = j :: js → x.portion = 0 → guarded s = false → s.catalogue.queue = [] →
    (op = .erase x.target ∧ x.frame = 0 ∧ i = .relocationEraseEnd .pass ∧ (segOf s x.target).state = .taken ∨
      ∃ p, op = .program p ∧ p.frame + 1 = x.frame ∧ p.damaged = false ∧ i = .relocationCopyEnd .pass) →
    ∀ q, q = { segment := x.target, frame := j.frame, portion := 0, lo := 0, hi := j.hi, bytes := j.image,
               damaged := false, pad := j.pad, label := j.label } →
    ∃ t, exec i s = .next t ∧ t.engine.reloc = some { x with stage := .copyFrame x.frame q } ∧
      t.engine.op = some { who := .relocation, op := .program q } ∧ (NoLockedHead s → SameWork s t)) ∧
  (∀ (s : State) (x : Reloc) (g h : Nat) (hs : List Nat) (frames : List FrameContent),
    Performs s .relocation (.erase g) → s.engine.reloc = some x → x.target = g → x.tried < 2 →
    g ∉ s.segments.pool → availableSegs s = h :: hs →
    ∃ t, exec (.relocationEraseEnd (.fail frames)) s = .next t ∧ t.medium = s.medium.endErase g (.fail frames) ∧
      (segOf t g).state = .retired ∧ (segOf t h).state = .taken ∧
      (∃ stage, t.engine.reloc =
        some { x with target := h, tried := x.tried + 1, stage := stage, damagedFrames := 0 }) ∧
      (s.events.holdClear = false → Raised t .media)) ∧
  (∀ (s : State) (x : Reloc) (seg i lo hi : Nat) (noise : ReadNoise) (p : Program),
    Performs s .relocation (.read seg i lo hi) → s.engine.reloc = some x →
    (i < x.frame ∧ p = frameCopy x.target i (readFrame s.medium seg i lo hi noise) ∨
      x.frame ≤ i ∧ ∃ j js, s.write.jobs = j :: js ∧
        p = mergedCopy x.target j (some (readFrame s.medium seg i lo hi noise))) →
    ∃ t, exec (.relocationReadEnd noise) s = .next t ∧ t.medium = s.medium ∧
      t.engine.reloc = some { x with stage := .copyFrame i p } ∧
      (s.catalogue.queue = [] → guarded s = false →
        t.engine.op = some { who := .relocation, op := .program p }) ∧
      (NoLockedHead s → SameWork s t)) ∧
  ∀ (s : State) (x : Reloc) (p : Program), Performs s .relocation (.program p) → s.engine.reloc = some x →
    p.frame < x.frame → p.frame + 1 < x.frame ∨ 0 < x.portion →
    ∃ t, exec (.relocationCopyEnd .pass) s = .next t ∧ Programmed s t p .pass ∧
      t.engine.reloc = some { x with
        damagedFrames := x.damagedFrames + (if p.damaged then 1 else 0), stage := .readFrame (p.frame + 1) } ∧
      (NoLockedHead s → SameWork s t)

/-- The end of a relocation. The last copy has passed: the target takes the place of S in the chain, S is retired, and in
READY its retirement is requested of the catalogue writer; in RESTRICTED the jobs and the tail are retargeted at once and
the queue resumes. In READY that happens when the retirement's catalogue version has passed: the failed job counts as
passed, the jobs and the tail move to the target, and RETIRED and RELOCATED tell of it. A copy that fails retires the
target and takes the next; after the second target, or where none is available, S is retired in its place in the chain and
the stream is FAULTED. -/
def Obligations.RelocationCompletesOrGivesUp : Prop :=
  (∀ (s : State) (x : Reloc) (p : Program), Performs s .relocation (.program p) → s.engine.reloc = some x →
    x.frame ≤ p.frame → x.target ≠ x.segment →
    (s.power.state = .awake .ready → s.catalogue.retired.length < 40 →
      ∃ t, exec (.relocationCopyEnd .pass) s = .next t ∧ Programmed s t p .pass ∧
        (segOf t x.segment).state = .retired ∧ (segOf t x.segment).owner = none ∧
        (segOf t x.target).state = .owned ∧ (segOf t x.target).owner = some x.stream ∧
        (segOf t x.target).generation = (segOf s x.segment).generation ∧
        (streamOf t x.stream).chain = (streamOf s x.stream).chain.map
          (fun e => if e.segment = x.segment then { e with segment := x.target } else e) ∧
        t.catalogue.retired = s.catalogue.retired ++ [x.segment] ∧
        t.catalogue.queue = s.catalogue.queue ++ [.retire x.segment true] ∧
        t.engine.reloc = some { x with
          damagedFrames := x.damagedFrames + (if p.damaged then 1 else 0), stage := .retiring } ∧
        (NoLockedHead s → t.write.jobs = s.write.jobs)) ∧
    (∀ c j js, s.power.state = .awake (.restricted c) → s.write.jobs = j :: js →
      VersionFor.retire x.segment true ∉ s.catalogue.queue → NoLockedHead (s.withJobs (retargetJobs x 1 js)) →
      ∃ t, exec (.relocationCopyEnd .pass) s = .next t ∧ Programmed s t p .pass ∧
        (segOf t x.segment).state = .retired ∧ (segOf t x.target).state = .owned ∧
        t.engine.reloc = none ∧ t.write.jobs = retargetJobs x 1 js ∧ t.write.jobs.length = js.length ∧
        (∀ k ∈ t.write.jobs, k.segment ≠ x.segment) ∧
        (∀ n, j.stream = some n → n < s.streams.length →
          (streamOf t n).durable = j.seqs.foldl Nat.max (streamOf s n).durable) ∧
        (s.events.holdClear = false → Raised t .media))) ∧
  (∀ (s : State) (w : CatWork) (x : Reloc) (p : Program) (vs : List VersionFor) (j : Job) (js : List Job),
    Performs s .catalogue (.program p) → s.catalogue.work = some w →
    s.catalogue.queue = .retire x.segment true :: vs → s.engine.reloc = some x → x.stage = .retiring →
    x.target ≠ x.segment → s.write.jobs = j :: js → NoLockedHead (s.withJobs (retargetJobs x 1 js)) →
    ∃ t, exec (.catalogueProgramEnd .pass) s = .next t ∧ Programmed s t p .pass ∧ t.engine.reloc = none ∧
      t.write.jobs = retargetJobs x 1 js ∧ t.write.jobs.length = js.length ∧
      (∀ k ∈ t.write.jobs, k.segment ≠ x.segment) ∧
      (∀ n, j.stream = some n → n < s.streams.length →
        (streamOf t n).durable = j.seqs.foldl Nat.max (streamOf s n).durable) ∧
      (∀ q, (streamOf s x.stream).tail = .pos q → x.stream < s.streams.length →
        (q.segment ≠ x.segment → (streamOf t x.stream).tail = .pos q) ∧
        (q.segment = x.segment → q.frame ≠ x.frame →
          (streamOf t x.stream).tail = .pos { q with segment := x.target }) ∧
        (q.segment = x.segment → q.frame = x.frame →
          (streamOf t x.stream).tail = .pos { q with
            segment := x.target
            portions := 1 + js.countP (fun k => decide (k.segment = x.segment ∧ k.frame = x.frame)) })) ∧
      t.catalogue.active = w.segment ∧ t.catalogue.top = some w.frame ∧
      t.catalogue.generation = w.version.generation ∧ t.catalogue.queue = vs ∧
      (s.events.holdClear = false → Raised t .media) ∧
      (s.events.holdClear = false → s.events.fresh = [] → s.events.notices.length ≤ 6 → guarded s = false →
        s.sequencer.deferred = [] →
        t.events.notices = s.events.notices ++
          [{ kind := .retired, stream := x.stream, segment := x.segment, value := 2, value2 := 0 },
           { kind := .relocated, stream := x.stream, segment := x.segment, value := x.target,
             value2 := x.damagedFrames }])) ∧
  ∀ (s : State) (x : Reloc) (p : Program) (left : Leftover), Performs s .relocation (.program p) →
    s.engine.reloc = some x →
    (∀ h hs, x.tried < 2 → x.target ∉ s.segments.pool → availableSegs s = h :: hs →
      ∃ t, exec (.relocationCopyEnd (.fail left)) s = .next t ∧ Programmed s t p (.fail left) ∧
        (segOf t x.target).state = .retired ∧ (segOf t h).state = .taken ∧
        ∃ stage, t.engine.reloc =
          some { x with target := h, tried := x.tried + 1, stage := stage, damagedFrames := 0 }) ∧
    (2 ≤ x.tried ∨ availableSegs s = [] → x.stream < s.streams.length →
      ∃ t, exec (.relocationCopyEnd (.fail left)) s = .next t ∧ Programmed s t p (.fail left) ∧
        t.engine.reloc = none ∧ (segOf t x.segment).state = .retired ∧ (streamOf t x.stream).state = .faulted ∧
        (streamOf t x.stream).tail = .exhausted ∧
        (streamOf t x.stream).chain = (streamOf s x.stream).chain.map
          (fun e => if e.segment = x.segment then { e with isRetired := true } else e) ∧
        (∀ k ∈ t.write.jobs, k.stream ≠ some x.stream) ∧ (s.events.holdClear = false → Raised t .media))

/-- An allocation erase has ended, or a background erase of a segment that a COMMIT has taken meanwhile. PASS: the segment
becomes the stream's open write segment and the COMMIT completes. FAIL: the segment is retired, and the next one is taken
or, where none is available, the COMMIT completes MEDIUM and its record stays staged. A background erase in the pool
makes its segment FREE_ERASED, or retires it. -/
def Obligations.ErasesOfFreeSegmentsEnd : Prop :=
  (∀ (i : EraseResult → Instr) (who : Requester),
    (i = .allocationEraseEnd ∧ who = .sequencer ∨ i = .backgroundEraseEnd ∧ who = .background) →
    ∀ (s : State) (d : Dispatched) (n g gen : Nat) (attr : Byte), Performs s who (.erase g) →
    s.sequencer.dispatched = some d → d.phase = .allocating g gen → d.cmd = .commit n attr → n < s.streams.length →
    ((segOf s g).state = .taken → d.eager = false → (streamOf s n).newest < 4294967294 →
      16 + (stagedPayload s).length < 512 → takesRecords (streamOf s n) = true →
      ∃ u, Ends (i .pass) s d
          { result := .done, value := (streamOf s n).newest + 1, aux := (streamOf s n).durable } u ∧
        u.medium = s.medium.erase g ∧
        segOf u g = { segOf s g with
          state := .owned, owner := some n, generation := gen, isOpen := true, weak := false } ∧
        streamOf u n = { streamOf s n with
          chain := (streamOf s n).chain ++
            [{ segment := g, generation := gen, first := (streamOf s n).newest + 1,
               last := (streamOf s n).newest + 1, isSealed := false, isRetired := false }]
          oldest := if (streamOf s n).chain = [] then (streamOf s n).newest + 1 else (streamOf s n).oldest
          newest := (streamOf s n).newest + 1, resumed := false, state := .opened
          tail := .pos (tailWith (tailAt g 0) ((streamOf s n).newest + 1) (recordBytes s n attr)) } ∧
        u.write = { staging := none, jobs := s.write.jobs }) ∧
    (∀ frames h hs, g ∉ s.segments.pool → s.power.state = .awake .ready → s.catalogue.retired.length < 40 →
      availableSegs s = h :: hs → (segOf s h).state = .freeStale →
      ∃ t, exec (i (.fail frames)) s = .next t ∧ t.medium = s.medium.endErase g (.fail frames) ∧
        t.sequencer.dispatched = some { d with phase := .allocating h gen } ∧
        Asked t { who := .sequencer, op := .erase h } ∧ (segOf t g).state = .retired ∧ (segOf t h).state = .taken ∧
        t.catalogue.retired = s.catalogue.retired ++ [g] ∧
        t.catalogue.queue = s.catalogue.queue ++ [.retire g false]) ∧
    (∀ frames, availableSegs s = [] →
      ∃ t, exec (i (.fail frames)) s = .next t ∧ t.sequencer.dispatched = none ∧
        Posts s t (completionOf d.tag d.opcode (cmdDetail d.cmd) d.abortLate
          { result := .medium, aux := (streamOf s n).durable }) ∧
        t.write.staging = s.write.staging.map (fun x => { x with owned := false }) ∧
        (streamOf t n).newest = (streamOf s n).newest ∧ (segOf t g).state = .retired)) ∧
  ∀ (s : State) (g : Nat), MediumSound s → Performs s .background (.erase g) → allocating g s = none →
    erasingTarget g s = none →
    ((segOf s g).state = .freeStale →
      ∃ t, exec (.backgroundEraseEnd .pass) s = .next t ∧ t.medium = s.medium.erase g ∧
        segOf t g = { segOf s g with state := .freeErased, weak := false } ∧
        t.segments.pool = s.segments.pool ∧ (NoLockedHead s → SameWork s t)) ∧
    (∀ frames, s.power.state = .awake .ready → s.catalogue.retired.length < 40 →
      ∃ t, exec (.backgroundEraseEnd (.fail frames)) s = .next t ∧ (segOf t g).state = .retired ∧
        t.segments.pool = s.segments.pool.filter (fun x => x ≠ g) ∧
        t.catalogue.queue = s.catalogue.queue ++ [.retire g false] ∧ (s.events.holdClear = false → Raised t .media))

/-- The catalogue writer. A version's program that passes makes its segment the active one, and the command that asked
for it is done: DEFINE STREAM leaves an empty OPEN stream with the version's generation as incarnation; DELETE STREAM
leaves the stream UNDEFINED and its segments at the pool's tail, or ARCHIVED with its sealed segments; FORMAT does so with
every stream, and one that was ARCHIVED stays so (log 40). The version of a DELETE STREAM or FORMAT keeps such a definition
with its archived flag set and drops the others. An erase that passes is followed by the program. A failure is followed by the erase of the other segment, or
where there is none by RESTRICTED with cause WORN_OUT and MEDIUM. The version is built when its first operation is handed
to the engine, from the definitions and the retired list as they then stand, with the next generation; it is placed in
the frame above the active segment's highest programmed one, or, when that is frame 31, in the other segment after its
erase; a version requested while another is under way waits for it. -/
def Obligations.CatalogueVersionsAreWrittenOrGivenUp : Prop :=
  (∀ (s : State) (d : Dispatched) (w : CatWork) (p : Program) (v : VersionFor) (vs : List VersionFor),
    Performs s .catalogue (.program p) → s.catalogue.work = some w → s.catalogue.queue = v :: vs →
    s.sequencer.dispatched = some d →
    (∀ n mode quota name, v = .define n mode quota name → n < s.streams.length →
      ∃ u, Ends (.catalogueProgramEnd .pass) s d { result := .done, value := w.version.generation } u ∧
        streamOf u n =
          { defn := some { mode := mode, quota := quota, name := name, incarnation := w.version.generation,
                           archived := false }
            state := .opened, chain := [], oldest := 0, newest := 0, durable := 0, cursor := 1, resumed := false,
            tail := .none } ∧
        (∀ m, m ≠ n → streamOf u m = streamOf s m) ∧ u.medium = s.medium.endProgram p .pass ∧
        u.catalogue = { s.catalogue with
          active := w.segment, top := some w.frame, generation := w.version.generation, queue := vs
          work := vs.head?.map (fun x => startWork x u) }) ∧
    (∀ n, v = .delete n → n < s.streams.length → (∀ x, (streamOf s n).defn = some x → x.archived = false) →
      (∀ e ∈ (streamOf s n).chain, e.isSealed = false) →
      ∃ u, Ends (.catalogueProgramEnd .pass) s d
          { result := .done, value := ((streamOf s n).chain.filter (fun e => !e.isRetired)).length } u ∧
        streamOf u n = Stream.blank ∧ (∀ m, m ≠ n → streamOf u m = streamOf s m) ∧
        u.segments.pool = s.segments.pool ++
          ((streamOf s n).chain.filter (fun e => !e.isRetired)).map (fun e => e.segment) ∧
        (∀ x, u.write.staging = some x → x.stream ≠ n) ∧ u.write.jobs = s.write.jobs) ∧
    (∀ n x, v = .delete n → n < s.streams.length → (streamOf s n).defn = some x →
      (∃ e ∈ (streamOf s n).chain, e.isSealed = true) →
      ∃ u, Ends (.catalogueProgramEnd .pass) s d
          { result := .done, aux := 1,
            value := ((streamOf s n).chain.filter (fun e => !e.isSealed && !e.isRetired)).length } u ∧
        (streamOf u n).state = .archived ∧ (streamOf u n).defn = some { x with archived := true } ∧
        (streamOf u n).chain = (streamOf s n).chain.filter (fun e => e.isSealed) ∧ (streamOf u n).tail = .none) ∧
    (v = .format → s.streams.length = 8 → (∀ m, ∀ e ∈ (streamOf s m).chain, e.isSealed = false) →
      (∀ m x, (streamOf s m).defn = some x → x.archived = false) →
      ∃ u, Ends (.catalogueProgramEnd .pass) s d
          { result := .done,
            value := (s.streams.map (fun x => (x.chain.filter (fun e => !e.isRetired)).length)).sum } u ∧
        u.streams = List.replicate 8 Stream.blank ∧ u.write = { staging := none, jobs := s.write.jobs } ∧
        (s.power.state = .awake (.restricted .catalogueLost) → u.power.state = .awake .ready)) ∧
    (∀ keeps : Stream → Bool,
      (∀ x, keeps x = true ↔ ∃ y, x.defn = some y ∧ (y.archived = true ∨ ∃ e ∈ x.chain, e.isSealed = true)) →
      v = .format → s.streams.length = 8 →
      ∃ u, Ends (.catalogueProgramEnd .pass) s d
          { result := .done, aux := s.streams.countP keeps,
            value := (s.streams.map (fun x => (x.chain.filter (fun e => !e.isSealed && !e.isRetired)).length)).sum } u ∧
        (∀ m, keeps (streamOf s m) = false → streamOf u m = Stream.blank) ∧
        (∀ m y, keeps (streamOf s m) = true → (streamOf s m).defn = some y →
          (streamOf u m).state = .archived ∧ (streamOf u m).defn = some { y with archived := true } ∧
          (streamOf u m).chain = (streamOf s m).chain.filter (fun e => e.isSealed) ∧ (streamOf u m).tail = .none ∧
          (streamOf u m).newest = (((streamOf u m).chain.getLast?).map (fun e => e.last)).getD 0 ∧
          (streamOf u m).durable = (streamOf u m).newest ∧
          (1 ≤ (streamOf u m).oldest → (streamOf u m).oldest ≤ (streamOf u m).newest →
            (streamOf u m).cursor = (streamOf u m).oldest)) ∧
        u.segments.pool = s.segments.pool ++
          (s.streams.flatMap (fun x => x.chain.filter (fun e => !e.isSealed && !e.isRetired))).map (fun e => e.segment) ∧
        u.write = { staging := none, jobs := s.write.jobs } ∧ u.vault = s.vault)) ∧
  (∀ (s : State) (w : CatWork) (g : Nat), EngineSound s → Performs s .catalogue (.erase g) →
    s.catalogue.work = some w →
    ∃ t, exec (.catalogueEraseEnd .pass) s = .next t ∧ t.medium = s.medium.erase g ∧
      t.catalogue = { s.catalogue with work := some { w with erasing := false } } ∧ (NoLockedHead s → SameWork s t)) ∧
  (∀ (i : Instr) (op : Op) (s : State) (w : CatWork), EngineSound s → Performs s .catalogue op →
    s.catalogue.work = some w →
    ((∃ g frames, op = .erase g ∧ i = .catalogueEraseEnd (.fail frames)) ∨
      ∃ p left, op = .program p ∧ i = .catalogueProgramEnd (.fail left)) →
    (∀ g, w.fallback = some g →
      ∃ t, exec i s = .next t ∧
        t.catalogue.work = some { w with erasing := true, segment := g, frame := 0, fallback := none } ∧
        t.catalogue.queue = s.catalogue.queue ∧ t.sequencer.dispatched = s.sequencer.dispatched) ∧
    (∀ v d, w.fallback = none → s.catalogue.queue = [v] → forCommand v = true → s.sequencer.dispatched = some d →
      ∃ t, exec i s = .next t ∧ t.power.state = .awake (.restricted .wornOut) ∧ t.catalogue.queue = [] ∧
        t.catalogue.work = none ∧ t.sequencer.dispatched = none ∧
        Posts s t (completionOf d.tag d.opcode (cmdDetail d.cmd) d.abortLate { result := .medium }))) ∧
  ∀ (s : State) (v : VersionFor),
    (∀ w, s.catalogue.work = some w → (s.withVersion v).catalogue.work = some w) ∧
    (s.power.state = .awake .ready → s.catalogue.work = none → s.catalogue.queue = [] →
      ∃ w, (s.withVersion v).catalogue = { s.catalogue with queue := [v], work := some w } ∧
        requestVersion v s = s.withVersion v ∧
        w.version.generation = s.catalogue.generation + 1 ∧ w.version.retired = s.catalogue.retired ∧
        (∀ g b, v = .retire g b → w.version.defs = s.streams.map (fun t => t.defn)) ∧
        (∀ n mode quota name, v = .define n mode quota name → n < s.streams.length →
          w.version.defs[n]? = some (some { mode := mode, quota := quota, name := name,
                                            incarnation := s.catalogue.generation + 1, archived := false }) ∧
          ∀ k, k ≠ n → w.version.defs[k]? = (s.streams.map (fun t => t.defn))[k]?) ∧
        (∀ n, v = .delete n → ∀ k, k ≠ n → w.version.defs[k]? = (s.streams.map (fun t => t.defn))[k]?) ∧
        (∀ n x, v = .delete n ∨ v = .format → v = .delete n ∨ n < s.streams.length → n < s.streams.length →
          (streamOf s n).defn = some x → w.version.defs[n]? =
            some (if x.archived = true ∨ ∃ e ∈ (streamOf s n).chain, e.isSealed = true then some { x with archived := true }
                  else none)) ∧
        (∀ n, v = .format → n < s.streams.length → (streamOf s n).defn = none → w.version.defs[n]? = some none) ∧
        (s.catalogue.top = none → w.erasing = false ∧ w.segment = s.catalogue.active ∧ w.frame = 0) ∧
        (∀ k, s.catalogue.top = some k → k < 31 →
          w.erasing = false ∧ w.segment = s.catalogue.active ∧ w.frame = k + 1) ∧
        (∀ k, s.catalogue.top = some k → 31 ≤ k →
          w.erasing = true ∧ w.segment = 1 - s.catalogue.active ∧ w.frame = 0))

/-- What a command of the model can write to the storage array: only the operation in progress writes, a PROGRAM nothing
but its range and its frame's margin, an ERASE nothing but its segment, a READ and an idle engine nothing at all; and an
ERASE that passes leaves every byte of a segment other than the factory's 0xFF and every frame of it erased. -/
def Obligations.OnlyTheOperationInProgressWritesTheArray : Prop :=
  (∀ (c : Instr) (s t : State), exec c s = .next t → WritesOnly s.medium t.medium (s.engine.op.map (fun r => r.op))) ∧
  ∀ (m : Medium) (g frame off lo hi : Nat), g ≠ 4 → frame < 32 → off < 512 →
    (m.endErase g .pass).byte (Config.address g frame off) = 0xFF ∧
    frameErased (readFrame (m.endErase g .pass) g frame lo hi quiet) = true

/-! ### Power fail and resets -/

/-- PFAIL_N falls. With an operation in progress everything else stops and the operation runs on; with none the device
enters DEAD, or under FINISH_ONE starts the head job as the one further program. In HALT it enters DEAD at once. The
operation that ends in PFAIL_FLUSH posts nothing; a job that passes leaves the queue. With an empty queue the candidate
is the last-commit stream's pending tail, as the job a sync would emit, if its segment is not locked. After the further
program the device is DEAD. -/
def Obligations.PowerFailStopsTheDevice : Prop :=
  (∀ s : State, operating s = true → s.power.state = .mounting ∨ isAwake s = true ∨ s.power.state = .doze →
    ∀ u, u = { s with
      pins := { s.pins with pfailN := false }
      sequencer := { s.sequencer with dispatched := none }
      write := { s.write with staging := none }
      engine := { s.engine with request := none, reloc := none }
      catalogue := { s.catalogue with queue := [], work := none }
      power := { s.power with
        state := .pfailFlush, entryDue := none, soft := none, mount := none
        flush := { holdup := decide (s.options.holdupUse = 1), relocating := s.engine.reloc.isSome, headFailed := false } } } →
    (s.engine.op ≠ none → exec .powerFailSequence s = .next u) ∧
    (s.engine.op = none → s.options.holdupUse ≠ 1 →
      exec .powerFailSequence s = .next { u with power := { u.power with state := .dead } }) ∧
    (∀ j js, s.engine.op = none → s.options.holdupUse = 1 → s.write.jobs = j :: js → s.engine.reloc = none →
      guarded s = false → locked s j.segment = false →
      exec .powerFailSequence s = .next
        { u with engine := { u.engine with op := some { who := .holdup, op := .program (jobProgram j) } } }) ∧
    (s.engine.op = none → s.options.holdupUse = 1 → s.write.jobs ≠ [] → s.engine.reloc ≠ none ∨ guarded s = true →
      exec .powerFailSequence s = .next { u with power := { u.power with state := .dead } }) ∧
    (s.engine.op = none → s.options.holdupUse = 1 → s.write.jobs = [] → s.power.state ≠ .mounting →
      (∀ n p, s.power.lastCommit = some n → (streamOf s n).tail = .pos p → p.unprog < p.offset →
        (guarded s = false → locked s p.segment = false →
          (p.portions < 3 → exec .powerFailSequence s = .next
            { u with engine := { u.engine with
                op := some { who := .holdup, op := .program (jobProgram (portionJob (streamOf s n) n p)) } } }) ∧
          (3 ≤ p.portions → p.image.length = p.offset → p.offset ≤ 512 → exec .powerFailSequence s = .next
            { u with engine := { u.engine with
                op := some { who := .holdup, op := .program (jobProgram (frameJob (streamOf s n) n p true)) } } })) ∧
        (guarded s = true ∨ locked s p.segment = true →
          exec .powerFailSequence s = .next { u with power := { u.power with state := .dead } })) ∧
      (s.power.lastCommit = none ∨ (∃ n, s.power.lastCommit = some n ∧ pendingBytes (streamOf s n).tail = 0) →
        exec .powerFailSequence s = .next { u with power := { u.power with state := .dead } }))) ∧
  (∀ s : State, operating s = true → s.power.state = .halt →
    exec .powerFailSequence s = .next
      { s with pins := { s.pins with pfailN := false }, power := { s.power with state := .dead } }) ∧
  (∀ (s : State) (p : Program) (r : ProgramResult), inProgress .job s = some (.program p) →
    s.power.state = .pfailFlush → s.power.flush.holdup = false →
    ∃ t, exec (.programJobEnd r) s = .next t ∧ Programmed s t p r ∧ t.power.state = .dead ∧ t.engine.op = none ∧
      t.write.jobs = (if r.failed then s.write.jobs else s.write.jobs.drop 1) ∧ t.streams = s.streams ∧
      t.sequencer = s.sequencer ∧ (s.cpl.fresh = [] → t.cpl = s.cpl)) ∧
  ∀ (s : State) (p : Program) (r : ProgramResult), inProgress .holdup s = some (.program p) →
    exec (.holdupProgramEnd r) s = .next
      { s with
        medium := s.medium.endProgram p r
        engine := { s.engine with op := none, prevFail := s.engine.lastFail, lastFail := r.failed }
        power := { s.power with state := .dead } }

/-- A power-on reset with RST_N and PFAIL_N high leaves the state right after reset, whatever went before: of the old
state only the storage array stays, with the operation in progress cut; LOCKEN gives the lock mode, the range is NONE and
the frozen flag clear. With PFAIL_N low the device is DEAD; with RST_N low the reset goes on. (The levels of LOCKEN and
GUARD_N in the state after reset are the model's choice, log 5, and so are the values there of the streams, the Segment
Map, the pool, the catalogue and the vault, which mount rebuilds, log 6.) -/
def Obligations.PowerOnResetLeavesTheResetState : Prop :=
  ∀ (s : State) (locken guardN : Bool) (cut : Cut),
    exec (.powerOnReset locken true true guardN cut) s = .next
      { State.reset with
        guard := { mode := if locken then .active else .disabled, range := none, frozen := false, level := guardN,
                   episode := false }
        medium := s.cutMedium cut
        pending := s.pending } ∧
    (∃ t, exec (.powerOnReset locken true false guardN cut) s = .next t ∧ t.power.state = .dead ∧
      t.power.reset = none ∧ t.engine.op = none ∧ windowLive t = false ∧ t.medium = s.cutMedium cut ∧
      t.time = State.reset.time ∧ t.options = State.reset.options) ∧
    ∀ pfailN, ∃ t, exec (.powerOnReset locken false pfailN guardN cut) s = .next t ∧ t.power.reset = some .por ∧
      t.pins.rstN = false ∧ t.engine.op = none ∧ windowLive t = false ∧ t.medium = s.cutMedium cut

/-- The pin reset and the power-fail recovery reset keep what R124 and R148 name: the lock mode, the frozen flag, a
frozen range, the counter, the epoch and TIME_VALID; they clear the prescaler count and the armed flag, set the
options to their defaults and empty the rest: the queues and buffers, the engine, the events, and, until mount rebuilds them
(log 6), the streams, the Segment Map and the pool, the catalogue and the vault. Each ends with PFAIL_N high in MOUNTING at the first READ of the scan,
with PFAIL_N low in DEAD. A loss of supply cuts the operation in progress and leaves nothing at work. (The state held
while a reset is in progress: log 22. That a hold episode ends with the reset, and that the value of the disarmed alarm
stays, are the model's choices: logs 60 and 61.) -/
def Obligations.MountingResetsKeepTimeAndLocks : Prop :=
  (∀ (s : State) (i : Instr) (kind : ResetKind) (m : Medium),
    ((∃ cut, i = .pinReset cut ∧ kind = .pin ∧ s.pins.supply = true ∧ s.pins.rstN = true ∧ m = s.cutMedium cut) ∨
      i = .pfailRecoveryReset ∧ kind = .pfail ∧ operating s = true ∧ s.power.state = .dead ∧ m = s.medium) →
    ∃ t, exec i s = .next t ∧ t.power.reset = some kind ∧ t.power.lastReset = kind ∧ windowLive t = false ∧
      t.time = { s.time with prescaler := 0, armed := false, running := true } ∧
      t.guard = { s.guard with range := if s.guard.frozen then s.guard.range else none, episode := false } ∧
      t.options = State.reset.options ∧ t.host = State.reset.host ∧ t.sequencer = State.reset.sequencer ∧
      t.cpl = State.reset.cpl ∧ t.rsp = State.reset.rsp ∧ t.write = State.reset.write ∧
      t.engine = { State.reset.engine with op := none } ∧ t.streams = State.reset.streams ∧
      t.segments = State.reset.segments ∧ t.catalogue = State.reset.catalogue ∧ t.vault = State.reset.vault ∧
      t.events = { latched := 0, mask := 0, notices := [], lost := 0, holdClear := true, fresh := [] } ∧ t.medium = m ∧
      t.pending = s.pending) ∧
  (∀ (s : State) (i : Instr) (pfailN guardN : Bool), s.pins.supply = true →
    (i = .pinResetEnd pfailN guardN ∧ s.pins.rstN = false ∧ s.power.reset ≠ none ∨
      i = .pfailRecoveryResetEnd pfailN guardN ∧ s.pins.rstN = true ∧ s.power.reset = some .pfail) →
    (pfailN = true → exec i s = .next
      { s with
        pins := { s.pins with rstN := true, pfailN := true }
        power := { s.power with state := .mounting, reset := none, mount := some Mount.first }
        events := { s.events with holdClear := false }
        guard := { s.guard with level := guardN }
        engine := { s.engine with op := some { who := .mount, op := .read 0 0 0 512 } } }) ∧
    (pfailN = false → exec i s = .next
      { s with
        pins := { s.pins with rstN := true, pfailN := false }
        power := { s.power with state := .dead, reset := none } })) ∧
  ∀ (s : State) (cut : Cut), s.pins.supply = true →
    exec (.supplyLoss cut) s = .next
      { s with
        pins := { s.pins with supply := false }
        engine := { s.engine with op := none }
        medium := s.cutMedium cut }

/-! ### Mount -/

/-- The mount scan: the READ that follows each READ (the order is the model's choice, log 18), with nothing changed but
the scan and the engine's operation; the class of each user segment by its frame 0; and the end of a scan that has found
no candidate: READY, or RESTRICTED with cause CATALOGUE_LOST, every defined stream empty with its cursor at 1, the vault
and the sealed set as they were found, and MOUNTED with its cause. A scan that ends with a candidate gives its stream the
chain, the bounds and the tail found, the cursor at the oldest record, and its segment to the stream, open. Of two
candidates of one stream and generation the SEALED one, then the one with the higher valid frame, then the lower segment
stays, and the winners stand by ascending generation. A frame 0 with one good portion holding one record gives that
record's sequence and an open tail behind it; a record cut short is discarded, and leaves the last sequence one below the
first. (Bounds beyond R166's words: log 19. Frames above the last frame: log 62. Headers beyond a torn-close: log 69.) -/
def Obligations.MountScansThenRebuilds : Prop :=
  (∀ (s : State) (m : Mount) (noise : ReadNoise) (seg frame : Nat), Scans s m → s.cpl.fresh = [] →
    s.events.fresh = [] → (m.frame < 31 → m.stage = .catalogue ∨ m.stage = .ledger ∨ m.stage = .vault → seg = m.segment ∧ frame = m.frame + 1) →
    (m.frame = 31 → m.stage = .catalogue → seg = (if m.segment = 0 then 1 else 2) ∧ frame = 0) →
    (m.frame = 31 → m.stage = .ledger → seg = 3 ∧ frame = 0) →
    (m.frame = 31 → m.stage = .vault → seg = 5 ∧ frame = 0) →
    (m.stage = .classify → m.segment < 1023 ∧ seg = m.segment + 1 ∧ frame = m.frame) →
    (m.stage = .chains → m.frame < 31 ∧ seg = m.segment ∧ frame = m.frame + 1) → m.frame ≤ 31 →
    ∃ m', exec (.mountReadEnd noise) s = .next (s.scansTo m') ∧ m'.segment = seg ∧ m'.frame = frame) ∧
  (∀ (s : State) (m : Mount) (noise : ReadNoise) (f : FrameRead) (retired : List Nat), Scans s m → s.cpl.fresh = [] →
    s.events.fresh = [] → m.stage = .classify → m.segment < 1023 →
    f = readFrame s.medium m.segment m.frame 0 512 noise → retired = (m.best.map (fun b => b.1.retired)).getD [] →
    ∃ k, m.dataIncarnation ≤ k ∧
      ∀ filed : Mount → Mount,
        ((m.segment ∈ retired ∧ filed = fun x => { x with retiredSegs := m.segment :: x.retiredSegs }) ∨
          (m.segment ∉ retired ∧ m.segment ∉ m.sealedSet ∧ frameErased f = true ∧
            filed = fun x => { x with freeErased := m.segment :: x.freeErased }) ∨
          (m.segment ∉ retired ∧ m.segment ∈ m.sealedSet ∧ (∀ l, f.label ≠ .valid l) ∧
            filed = fun x => { x with strayed := m.segment :: x.strayed }) ∨
          (m.segment ∉ retired ∧ m.segment ∉ m.sealedSet ∧ frameErased f = false ∧ (∀ l, f.label ≠ .valid l) ∧
            filed = fun x => { x with freeStale := m.segment :: x.freeStale }) ∨
          ∃ l d, m.segment ∉ retired ∧ f.label = .valid l ∧ l.kind = .data ∧ l.firstOffset = some 0 ∧ l.stream < 8 ∧
            m.best.bind (fun b => b.1.defs.getD l.stream none) = some d ∧ l.incarnation = d.incarnation ∧
            ((m.segment ∉ m.sealedSet ∧ d.archived = true ∧
                filed = fun x => { x with freeStale := m.segment :: x.freeStale }) ∨
              (m.segment ∈ m.sealedSet ∨ d.archived = false) ∧
                filed = fun x => { x with cands :=
                  { segment := m.segment, stream := l.stream, generation := l.generation, first := l.firstSeq,
                    isSealed := m.sealedSet.contains m.segment, frameZero := f } :: x.cands })) →
        exec (.mountReadEnd noise) s =
          .next (s.scansTo (filed { m with segment := m.segment + 1, dataIncarnation := k }))) ∧
  (∀ (s : State) (m : Mount) (noise : ReadNoise), Scans s m → m.stage = .classify → m.segment = 1023 →
    m.cands = [] → m.bounds = [] →
    labelMatch m (readFrame s.medium m.segment m.frame 0 512 noise) = none →
    ∃ t lost, exec (.mountReadEnd noise) s = .next t ∧
      (lost = true ↔ m.best = none ∧ ¬ (m.erased0 = true ∧ m.erased1 = true)) ∧
      t.power.state = .awake (if lost then .restricted .catalogueLost else .ready) ∧ t.power.mount = none ∧
      t.power.powerOnMark = false ∧
      (s.write.jobs = [] → ∀ n, n < 8 →
        (∀ d, m.best.bind (fun b => b.1.defs.getD n none) = some d → streamOf t n =
          { defn := some d, state := if d.archived then .archived else .opened, chain := [], oldest := 0, newest := 0,
            durable := 0, cursor := 1, resumed := false, tail := .none }) ∧
        (m.best.bind (fun b => b.1.defs.getD n none) = none → streamOf t n = Stream.blank)) ∧
      t.vault = { used := m.ledgerUsed, sealedSet := m.sealedSet, written := m.written, failed := [],
                  closed := m.vaultClosed } ∧
      t.medium = s.medium ∧ (lost = true → s.events.holdClear = false → Raised t .media) ∧
      (s.write.jobs = [] → guarded s = false → s.events = State.reset.events → lost = false → m.badLowest = none →
        ∃ k, t.events.notices =
          [{ kind := .mounted, stream := 0xFF, segment := 0xFFFF, value := mountCause s.power + 256 * k, value2 := 0 }] ∧
          (s.power.powerOnMark = true → mountCause s.power = 1) ∧
          (s.power.powerOnMark = false → s.power.lastReset = .pin → mountCause s.power = 2) ∧
          (s.power.powerOnMark = false → s.power.lastReset = .pfail → mountCause s.power = 3))) ∧
  (∀ (s : State) (m : Mount) (noise : ReadNoise) (c : Candidate) (d : Definition) (b : Bounds), Scans s m →
    m.stage = .chains → m.frame = 31 → m.cands = [c] → m.bounds = [] → c.stream < 8 → c.isSealed = false →
    m.best.bind (fun x => x.1.defs.getD c.stream none) = some d → d.archived = false → s.write.jobs = [] →
    b = boundsOf c (numberFrames ((readFrame s.medium m.segment m.frame 0 512 noise :: m.frames).reverse)) →
    b.last ≠ 4294967295 →
    ∃ t, exec (.mountReadEnd noise) s = .next t ∧ t.power.mount = none ∧ isAwake t = true ∧
      streamOf t c.stream =
        { defn := some d, state := .opened
          chain := [{ segment := c.segment, generation := c.generation, first := c.first, last := b.last,
                      isSealed := false, isRetired := false }]
          oldest := c.first, newest := b.last, durable := b.last
          cursor := if 1 ≤ c.first ∧ c.first ≤ b.last then c.first else b.last + 1
          resumed := decide (0 < b.discarded), tail := b.tail } ∧
      segOf t c.segment = { SegEntry.free with
        state := .owned, owner := some c.stream, generation := c.generation, isOpen := true } ∧
      c.segment ∉ t.segments.pool ∧ t.medium = s.medium ∧
      (s.events.holdClear = false → 0 < b.discarded → Raised t .media)) ∧
  (∀ a b : Bounds, a.cand.stream = b.cand.stream →
    (a.cand.generation = b.cand.generation →
      (a.cand.isSealed = true ∧ b.cand.isSealed = false ∨
        a.cand.isSealed = b.cand.isSealed ∧ (b.validTop < a.validTop ∨
          a.validTop = b.validTop ∧ a.cand.segment < b.cand.segment)) →
      winnersOf [a, b] a.cand.stream = [a] ∧ winnersOf [b, a] a.cand.stream = [a]) ∧
    (a.cand.generation < b.cand.generation →
      winnersOf [a, b] a.cand.stream = [a, b] ∧ winnersOf [b, a] a.cand.stream = [a, b])) ∧
  ∀ (c : Candidate) (l : Label) (q : PortionRead) (f : FrameRead) (seq length : Nat) (attr epoch : Byte)
      (ticks : Word32) (untimed resumed : Bool) (payload : List Byte) (b : Bounds),
    f.label = .valid l → l.firstOffset = some 0 → l.firstSeq = seq → f.entryZero = true → f.implausible = false →
    f.portions = [q] → q.lo = 0 → q.hi = q.bytes.length → q.grade ≠ .broken → q.pad = false → q.hi < 512 →
    q.bytes = recordHeader length attr epoch seq ticks untimed resumed c.stream ++ payload → length ≤ 1536 →
    seq < 4294967296 → c.stream < 8 → c.first = seq → b = boundsOf c (numberFrames (f :: List.replicate 31 emptyRead)) →
    b.tail = .pos { segment := c.segment, frame := 0, offset := q.hi, portions := 1, unprog := q.hi, image := q.bytes,
                    header := some (0, seq), ends := [] } ∧
    (payload.length = length → b.last = seq ∧ b.discarded = 0) ∧
    (payload.length < length → b.last = seq - 1 ∧ b.discarded = 1)

/-! ### Invariants -/

/-- Every step keeps the storage array and the Segment Map in canonical form, in whatever state it is taken; it keeps
that only the Sequencer and its ledger writer have a request pending at the Array Engine; that at most 32 ledger frames
are used and every ledger program is one of frames 0 to 31; and that a catalogue version is under way exactly while one is
requested. -/
def Obligations.EveryStepKeepsTheMediumSound : Prop :=
  (∀ s t : State, MediumSound s → step s = .next t → MediumSound t) ∧
  (∀ s t : State, EngineSound s → step s = .next t → EngineSound t) ∧
  (∀ s t : State, LedgerSound s → step s = .next t → LedgerSound t) ∧
  ∀ s t : State, WriterSound s → step s = .next t → WriterSound t

/-- Every step keeps the bounds of the Host Port, the Sequencer and the Notice List: at most 16 completion slots in use,
at most 8 command frames, a byte index below 12 that is 0 at an empty queue, at most 8 notices and a lost counter that
stops at 255. -/
def Obligations.EveryStepKeepsThePortSound : Prop :=
  ∀ s t : State, PortSound s → EventsSound s → step s = .next t → PortSound t ∧ EventsSound t

/-- Every step keeps the options in their ranges, the prescaler count below 2 raised to the divider, and the lock state
legal: a range within the user segments, and in DISABLED none, no frozen flag and no lock command past its judgement. -/
def Obligations.EveryStepKeepsTimeAndLocksSound : Prop :=
  ∀ s t : State, TimeSound s → LocksSound s → step s = .next t → TimeSound t ∧ LocksSound t

/-- The state right after reset is safe: all that the steps keep holds of it. (The levels of LOCKEN and GUARD_N in it are
the model's choice, log 5.) -/
def Obligations.ResetStateIsSafe : Prop := Safe State.reset
end

