-- ==== Sys2Proof/Laws/Held.lean ====
section
/-!
SUPPORT. What the posting of an event, the engine's choice of work and the events due leave alone: the held part of the
state, and without a locked head job also the streams, the Program Queue and the deferred commands. One lemma per shared
operation, cited in place of unfolding it.
-/

namespace Sys2Proof.Machine

open Sys2Proof

/-! ### Lists in order of their keys -/

theorem mem_insertByKey {α : Type} (k : Nat) (v x : α) (l : List (Nat × α)) :
    (∃ n, (n, x) ∈ insertByKey k v l) ↔ x = v ∨ ∃ n, (n, x) ∈ l := by
  induction l with
  | nil => simp [insertByKey]
  | cons e t ih =>
    unfold insertByKey
    split
    · constructor
      · rintro ⟨n, h⟩
        rcases List.mem_cons.1 h with h | h
        · exact .inl (by injection h)
        · exact .inr ⟨n, h⟩
      · rintro (rfl | ⟨n, h⟩)
        · exact ⟨k, List.mem_cons_self⟩
        · exact ⟨n, List.mem_cons_of_mem _ h⟩
    · constructor
      · rintro ⟨n, h⟩
        rcases List.mem_cons.1 h with h | h
        · exact .inr ⟨n, by rw [h]; exact List.mem_cons_self⟩
        · rcases ih.1 ⟨n, h⟩ with h | ⟨m, h⟩
          · exact .inl h
          · exact .inr ⟨m, List.mem_cons_of_mem _ h⟩
      · rintro (h | ⟨n, h⟩)
        · obtain ⟨m, hm⟩ := ih.2 (.inl h)
          exact ⟨m, List.mem_cons_of_mem _ hm⟩
        · rcases List.mem_cons.1 h with h | h
          · exact ⟨n, by rw [h]; exact List.mem_cons_self⟩
          · obtain ⟨m, hm⟩ := ih.2 (.inr ⟨n, h⟩)
            exact ⟨m, List.mem_cons_of_mem _ hm⟩

theorem mem_foldl_insertByKey {α : Type} (x : α) (l acc : List (Nat × α)) :
    (∃ n, (n, x) ∈ l.foldl (fun a e => insertByKey e.1 e.2 a) acc) ↔ (∃ n, (n, x) ∈ l) ∨ ∃ n, (n, x) ∈ acc := by
  induction l generalizing acc with
  | nil => simp
  | cons e t ih =>
    rw [List.foldl_cons, ih, mem_insertByKey]
    constructor
    · rintro (⟨n, h⟩ | rfl | h)
      · exact .inl ⟨n, List.mem_cons_of_mem _ h⟩
      · exact .inl ⟨e.1, List.mem_cons_self⟩
      · exact .inr h
    · rintro (⟨n, h⟩ | h)
      · rcases List.mem_cons.1 h with h | h
        · exact .inr (.inl (by rw [← h]))
        · exact .inl ⟨n, h⟩
      · exact .inr (.inr h)

/-- An ordered list holds what the list held. -/
theorem mem_orderByKey {α : Type} (x : α) (l : List (Nat × α)) : x ∈ orderByKey l ↔ ∃ n, (n, x) ∈ l := by
  have h := mem_foldl_insertByKey x l []
  simp only [List.not_mem_nil, exists_false, or_false] at h
  rw [← h, orderByKey, List.mem_map]
  constructor
  · rintro ⟨e, he, rfl⟩; exact ⟨e.1, he⟩
  · rintro ⟨n, hn⟩; exact ⟨(n, x), hn, rfl⟩

theorem length_insertByKey {α : Type} (k : Nat) (v : α) (l : List (Nat × α)) :
    (insertByKey k v l).length = l.length + 1 := by
  induction l with
  | nil => rfl
  | cons e t ih => unfold insertByKey; split <;> simp [ih]

/-- An ordered list is as long as the list. -/
theorem length_orderByKey {α : Type} (l : List (Nat × α)) : (orderByKey l).length = l.length := by
  have h : ∀ (l acc : List (Nat × α)),
      (l.foldl (fun a e => insertByKey e.1 e.2 a) acc).length = l.length + acc.length := by
    intro l
    induction l with
    | nil => simp
    | cons e t ih => intro acc; rw [List.foldl_cons, ih, length_insertByKey]; simp; omega
  simp [orderByKey, h]

/-! ### Events and notices -/

@[simp] theorem raise_held (e : Event) (s : State) : (raise e s).held = s.held := by
  unfold raise; split <;> rfl

@[simp] theorem addNoticeAt_held (k : Nat) (n : Notice) (s : State) : (addNoticeAt k n s).held = s.held := by
  unfold addNoticeAt; split <;> rfl

@[simp] theorem addNotice_held (n : Notice) (s : State) : (addNotice n s).held = s.held := addNoticeAt_held ..

theorem raise_work (e : Event) (s : State) : SameWork s (raise e s) := by
  unfold raise; split <;> exact ⟨rfl, rfl, rfl⟩

theorem addNotice_work (n : Notice) (s : State) : SameWork s (addNotice n s) := by
  unfold addNotice addNoticeAt; split <;> exact ⟨rfl, rfl, rfl⟩

theorem SameWork.trans {a b c : State} (h : SameWork a b) (k : SameWork b c) : SameWork a c :=
  ⟨k.1.trans h.1, k.2.1.trans h.2.1, k.2.2.trans h.2.2⟩

theorem SameWork.refl (s : State) : SameWork s s := ⟨rfl, rfl, rfl⟩

/-! ### The posting at an event's end -/

theorem joinNotices_keep (ns : List Notice) (e : EventUnit) :
    (ns.foldl joinNotice e).mask = e.mask ∧ (ns.foldl joinNotice e).holdClear = e.holdClear ∧
    (ns.foldl joinNotice e).latched = e.latched ∧ (ns.foldl joinNotice e).fresh = e.fresh := by
  induction ns generalizing e with
  | nil => exact ⟨rfl, rfl, rfl, rfl⟩
  | cons n ns ih =>
    rw [List.foldl_cons]
    have h := ih (joinNotice e n)
    have k : (joinNotice e n).mask = e.mask ∧ (joinNotice e n).holdClear = e.holdClear ∧
        (joinNotice e n).latched = e.latched ∧ (joinNotice e n).fresh = e.fresh := by
      unfold joinNotice; split <;> exact ⟨rfl, rfl, rfl, rfl⟩
    exact ⟨h.1.trans k.1, h.2.1.trans k.2.1, h.2.2.1.trans k.2.2.1, h.2.2.2.trans k.2.2.2⟩

/-- The end of an event: the fresh completions are in place, the event bits and everything held are as they were. -/
theorem settle_spec (s : State) :
    (settle s).held = s.held ∧ SameWork s (settle s) ∧ (settle s).engine = s.engine ∧
    (settle s).catalogue = s.catalogue ∧ (settle s).guard = s.guard ∧
    (settle s).events.latched = s.events.latched ∧
    (settle s).cpl.records = s.cpl.records ++ orderByKey s.cpl.fresh ∧ (settle s).cpl.fresh = [] ∧
    (settle s).events.fresh = [] := by
  have h := joinNotices_keep (orderByKey s.events.fresh) { s.events with fresh := [] }
  refine ⟨?_, ⟨rfl, rfl, rfl⟩, rfl, rfl, rfl, h.2.2.1, rfl, rfl, h.2.2.2⟩
  simp only [settle, flushNotices, flushCompletions, State.held, h.1, h.2.1]

@[simp] theorem settle_held (s : State) : (settle s).held = s.held := (settle_spec s).1

theorem settle_work (s : State) : SameWork s (settle s) := (settle_spec s).2.1

@[simp] theorem settle_records (s : State) : (settle s).cpl.records = s.cpl.records ++ orderByKey s.cpl.fresh := rfl

@[simp] theorem settle_engine (s : State) : (settle s).engine = s.engine := rfl

/-- A completion among the fresh ones is posted when the event settles. -/
theorem settle_posts {s : State} {k : Nat} {c : Completion} (h : (k, c) ∈ s.cpl.fresh) : Posts s (settle s) c := by
  obtain ⟨a, b, hab⟩ := List.append_of_mem ((mem_orderByKey c s.cpl.fresh).2 ⟨k, h⟩)
  exact ⟨a, b, by rw [settle_records, hab, List.append_assoc]⟩

end Sys2Proof.Machine
end

