-- ==== Sys2Proof/Laws/Choice.lean ====
section
/-!
SUPPORT. All that the engine's choice of work can do (R55 to R58, R125, R128), said once: `Later`, kept by every operation
the choice is made of.
-/

namespace Sys2Proof.Machine

open Sys2Proof

theorem SameEntry.refl (a : Stream) : SameEntry a a := rfl

theorem SameEntry.trans {a b c : Stream} (h : SameEntry a b) (k : SameEntry b c) : SameEntry a c := by
  unfold SameEntry at *; rw [k, h]

/-- What lies between two states when only work was chosen or deferred commands were posted: the held part stands,
completions and notices of the event are only added, event bits only set, the posted records stand, streams keep their
records, and a request of the Sequencer is kept or started. -/
structure Later (s t : State) : Prop where
  held : t.held = s.held
  records : t.cpl.records = s.cpl.records
  completions : s.cpl.fresh <+: t.cpl.fresh
  notices : s.events.fresh <+: t.events.fresh
  listed : t.events.notices = s.events.notices ∧ t.events.lost = s.events.lost
  bits : ∀ b, s.events.latched &&& b = b → t.events.latched &&& b = b
  entries : ∀ n, SameEntry (streamOf s n) (streamOf t n)
  number : t.streams.length = s.streams.length
  asked : ∀ r, s.engine.request = some r → Asked t r

theorem Later.refl (s : State) : Later s s :=
  ⟨rfl, rfl, List.prefix_refl _, List.prefix_refl _, ⟨rfl, rfl⟩, fun _ h => h, fun _ => rfl, rfl, fun _ h => .inl h⟩

/-- Two parts of a choice, when the second leaves a started operation in place. -/
theorem Later.trans {s t u : State} (h : Later s t) (k : Later t u)
    (keep : ∀ r, t.engine.op = some r → u.engine.op = some r) : Later s u where
  held := k.held.trans h.held
  records := k.records.trans h.records
  completions := h.completions.trans k.completions
  notices := h.notices.trans k.notices
  listed := ⟨k.listed.1.trans h.listed.1, k.listed.2.trans h.listed.2⟩
  bits := fun b hb => k.bits b (h.bits b hb)
  entries := fun n => (h.entries n).trans (k.entries n)
  number := k.number.trans h.number
  asked := fun r hr => (h.asked r hr).elim (k.asked r) (fun ho => .inr (keep r ho))

/-- The engine is as it was. -/
theorem Later.trans_engine {s t u : State} (h : Later s t) (k : Later t u) (e : u.engine = t.engine) : Later s u :=
  h.trans k (fun r hr => by rw [e]; exact hr)

/-- `Later`, with the engine as it was. -/
def Posting (s t : State) : Prop := Later s t ∧ t.engine = s.engine

theorem Posting.refl (s : State) : Posting s s := ⟨Later.refl s, rfl⟩

theorem Posting.trans {s t u : State} (h : Posting s t) (k : Posting t u) : Posting s u :=
  ⟨h.1.trans k.1 (fun r hr => by rw [k.2]; exact hr), k.2.trans h.2⟩

/-! ### The operations of a choice -/

theorem or_keeps {a b c : Byte} (h : a &&& b = b) : (a ||| c) &&& b = b := by
  apply BitVec.eq_of_getLsbD_eq
  intro i hi
  have := congrArg (fun x => x.getLsbD i) h
  simp at this ⊢
  grind

theorem raise_posting (e : Event) (s : State) : Posting s (raise e s) := by
  unfold raise
  split
  · exact Posting.refl s
  · exact ⟨⟨rfl, rfl, List.prefix_refl _, List.prefix_refl _, ⟨rfl, rfl⟩, fun b h => or_keeps h, fun _ => rfl, rfl,
      fun _ h => .inl h⟩, rfl⟩

theorem addNotice_posting (n : Notice) (s : State) : Posting s (addNotice n s) := by
  unfold addNotice addNoticeAt
  split
  · exact Posting.refl s
  · exact ⟨⟨rfl, rfl, List.prefix_refl _, List.prefix_append .., ⟨rfl, rfl⟩, fun _ h => h, fun _ => rfl, rfl,
      fun _ h => .inl h⟩, rfl⟩

theorem postRecord_posting (k : Nat) (c : Completion) (s : State) : Posting s (postRecord k c s) := by
  have h : Posting s { s with cpl := { s.cpl with fresh := s.cpl.fresh ++ [(k, c)] } } :=
    ⟨⟨rfl, rfl, List.prefix_append .., List.prefix_refl _, ⟨rfl, rfl⟩, fun _ h => h, fun _ => rfl, rfl,
      fun _ h => .inl h⟩, rfl⟩
  unfold postRecord
  dsimp only
  split
  · exact h.trans (raise_posting ..)
  · exact h

/-- A stream of the table replaced. -/
theorem streamOf_setStream (n m : Nat) (t : Stream) (s : State) :
    streamOf (setStream n t s) m = if n = m ∧ n < s.streams.length then t else streamOf s m := by
  unfold streamOf setStream
  simp only [List.getD_eq_getElem?_getD, List.getElem?_set]
  by_cases h : n = m
  · subst h
    by_cases k : n < s.streams.length <;> simp [k]
  · simp [h]

theorem setStream_posting {n : Nat} {t : Stream} {s : State} (h : SameEntry (streamOf s n) t) :
    Posting s (setStream n t s) := by
  refine ⟨⟨rfl, rfl, List.prefix_refl _, List.prefix_refl _, ⟨rfl, rfl⟩, fun _ h => h, fun m => ?_, ?_, fun _ h => .inl h⟩,
    rfl⟩
  · rw [streamOf_setStream]
    split
    · rename_i hm; obtain ⟨rfl, _⟩ := hm; exact h
    · exact SameEntry.refl _
  · simp [setStream]

theorem enterFull_posting (n : Nat) (r : FullReason) (s : State) : Posting s (enterFull n r s) := by
  unfold enterFull
  dsimp only
  split
  · exact Posting.refl s
  · have h : Posting s (setStream n { streamOf s n with state := .full r } s) :=
      setStream_posting (by unfold SameEntry; rfl)
    exact (h.trans (raise_posting ..)).trans (addNotice_posting ..)

theorem postDeferred_posting (d : Deferred) (s : State) : Posting s (postDeferred d s) := by
  unfold postDeferred
  dsimp only
  split
  · split
    · exact (postRecord_posting ..).trans (enterFull_posting ..)
    · exact postRecord_posting ..
  · exact postRecord_posting ..
  · exact postRecord_posting ..

theorem postAll_posting (ds : List Deferred) (s : State) : Posting s (postAll ds s) := by
  induction ds generalizing s with
  | nil => exact Posting.refl s
  | cons d ds ih => exact (postDeferred_posting d s).trans (ih _)

/-- Changes of the jobs and the deferred list alone. -/
theorem jobs_posting (s : State) (js : List Job) (ds : List Deferred) :
    Posting s { s with write := { s.write with jobs := js }, sequencer := { s.sequencer with deferred := ds } } :=
  ⟨⟨rfl, rfl, List.prefix_refl _, List.prefix_refl _, ⟨rfl, rfl⟩, fun _ h => h, fun _ => rfl, rfl, fun _ h => .inl h⟩, rfl⟩

theorem releaseDeferred_posting (s : State) : Posting s (releaseDeferred s) :=
  (jobs_posting s s.write.jobs _).trans (postAll_posting ..)

theorem updStream_posting {n : Nat} {f : Stream → Stream} {s : State} (h : ∀ t, SameEntry t (f t)) :
    Posting s (updStream n f s) := setStream_posting (h _)

theorem faultStream_posting (n seg cause : Nat) (s : State) : Posting s (faultStream n seg cause s) := by
  unfold faultStream
  refine Posting.trans (Posting.trans (Posting.trans (Posting.trans (jobs_posting s _ _)
    (updStream_posting (fun t => ?_))) (addNotice_posting ..)) (raise_posting ..)) (releaseDeferred_posting _)
  unfold SameEntry
  rfl

theorem failByLock_posting (s : State) : Posting s (failByLock s) := by
  unfold failByLock
  split
  · exact Posting.refl s
  · exact (faultStream_posting ..).trans (raise_posting ..)

theorem holdWrite_posting (h : Nat × Nat × Nat) (s : State) : Posting s (holdWrite h s) := by
  unfold holdWrite
  split
  · exact Posting.refl s
  · have h1 : Posting s { s with guard := { s.guard with episode := true } } :=
      ⟨⟨rfl, rfl, List.prefix_refl _, List.prefix_refl _, ⟨rfl, rfl⟩, fun _ h => h, fun _ => rfl, rfl, fun _ h => .inl h⟩,
        rfl⟩
    exact (h1.trans (addNotice_posting ..)).trans (raise_posting ..)

theorem holdWrite_work (h : Nat × Nat × Nat) (s : State) : SameWork s (holdWrite h s) := by
  unfold holdWrite
  split
  · exact SameWork.refl s
  · have h1 : SameWork s { s with guard := { s.guard with episode := true } } := ⟨rfl, rfl, rfl⟩
    exact (h1.trans (addNotice_work ..)).trans (raise_work ..)

/-- Whether a segment is locked depends on the held part alone. -/
theorem locked_of_held {s t : State} (h : t.held = s.held) (g : Nat) : locked t g = locked s g := by
  have k := congrArg Held.guard h
  simp only [State.held] at k
  have k1 : t.guard.mode = s.guard.mode := by injection k
  have k2 : t.guard.range = s.guard.range := by injection k
  unfold locked
  rw [k1, k2]

theorem NoLockedHead.later {s t : State} (h : NoLockedHead s) (k : t.held = s.held) (w : SameWork s t) :
    NoLockedHead t := by
  intro j hj
  rw [locked_of_held k]
  rw [w.2.1] at hj
  exact h j hj

/-! ### The choice -/

theorem startWorkOn_later {c : WorkItem} {s : State}
    (hr : c.request.who = .sequencer ∨ c.request.who = .ledger → s.engine.request = some c.request) :
    Later s (startWorkOn c s) where
  held := by unfold startWorkOn State.held; rfl
  records := rfl
  completions := List.prefix_refl _
  notices := List.prefix_refl _
  listed := ⟨rfl, rfl⟩
  bits := fun _ h => h
  entries := fun _ => rfl
  number := rfl
  asked := fun r h => by
    unfold startWorkOn Asked
    dsimp only
    split
    · rename_i hw; right; rw [hr hw] at h; exact h
    · exact .inl h

theorem startBackgroundErase_later (s : State) : Later s (startBackgroundErase s) := by
  unfold startBackgroundErase
  split
  · split
    · exact ⟨rfl, rfl, List.prefix_refl _, List.prefix_refl _, ⟨rfl, rfl⟩, fun _ h => h, fun _ => rfl, rfl,
        fun _ h => .inl h⟩
    · exact Later.refl s
  · exact Later.refl s

theorem startBackgroundErase_work (s : State) : SameWork s (startBackgroundErase s) := by
  unfold startBackgroundErase
  split
  · split <;> exact ⟨rfl, rfl, rfl⟩
  · exact SameWork.refl s

/-- Every candidate made for the Sequencer or the ledger is the request that is pending. -/
def Faithful (s : State) (cs : List WorkItem) : Prop :=
  ∀ c ∈ cs, c.request.who = .sequencer ∨ c.request.who = .ledger → s.engine.request = some c.request

theorem candidates_faithful (s : State) : Faithful s (candidates s) := by
  intro c hc
  unfold candidates rankOne catalogueCandidate sequencerCandidate jobCandidate candidate at hc
  simp only [List.mem_append] at hc
  rcases hc with (((((hc | hc) | hc) | hc) | hc) | hc) | hc <;>
    (repeat' split at hc) <;> simp_all
  rename_i r _ _ _ _ he
  intro _
  rw [← he]

theorem Faithful.posting {s t : State} {cs : List WorkItem} (h : Faithful s cs) (k : Posting s t) : Faithful t cs := by
  intro c hc
  rw [k.2]
  exact h c hc

/-- A head job that is not locked is not failed (R125). -/
theorem lockedOut_of_free {s : State} (h : NoLockedHead s) (c : WorkItem) : lockedOut c s = false := by
  unfold lockedOut
  cases hj : s.write.jobs.head? with
  | none => simp
  | some j => simp [h j (by rw [hj]; rfl)]

/-- What `tryCandidates` does, given what the choice made again after a failed job does. -/
theorem tryCandidates_later (again : State → State)
    (ha : ∀ s, s.engine.op = none → Later s (again s)) (cs : List WorkItem) (s : State) (ho : s.engine.op = none)
    (hf : Faithful s cs) :
    Later s (tryCandidates again cs s) ∧ (NoLockedHead s → SameWork s (tryCandidates again cs s)) := by
  induction cs generalizing s with
  | nil => exact ⟨startBackgroundErase_later s, fun _ => startBackgroundErase_work s⟩
  | cons c cs ih =>
    have hc := hf c List.mem_cons_self
    have hs : Later s (startWorkOn c s) ∧ (NoLockedHead s → SameWork s (startWorkOn c s)) :=
      ⟨startWorkOn_later hc, fun _ => ⟨rfl, rfl, rfl⟩⟩
    unfold tryCandidates
    split
    · rename_i h hh
      split
      · have hp := holdWrite_posting h s
        have hw := holdWrite_work h s
        have ho' : (holdWrite h s).engine.op = none := by rw [hp.2]; exact ho
        have hf' : Faithful (holdWrite h s) cs :=
          Faithful.posting (fun c hc => hf c (List.mem_cons_of_mem _ hc)) hp
        have k := ih (holdWrite h s) ho' hf'
        refine ⟨hp.1.trans k.1 (fun r hr => ?_), fun hn => hw.trans (k.2 (hn.later hp.1.held hw))⟩
        rw [ho'] at hr; cases hr
      · split
        · rename_i hl
          have hp := failByLock_posting s
          have ho' : (failByLock s).engine.op = none := by rw [hp.2]; exact ho
          refine ⟨hp.1.trans (ha _ ho') (fun r hr => by rw [ho'] at hr; cases hr), fun hn => ?_⟩
          rw [lockedOut_of_free hn] at hl
          cases hl
        · exact hs
    · exact hs

theorem chooseWork_later (fuel : Nat) (s : State) :
    Later s (chooseWork fuel s) ∧ (NoLockedHead s → SameWork s (chooseWork fuel s)) := by
  induction fuel generalizing s with
  | zero => exact ⟨Later.refl s, fun _ => SameWork.refl s⟩
  | succ fuel ih =>
    unfold chooseWork
    split
    · rename_i h
      simp only [Bool.and_eq_true, Option.isNone_iff_eq_none] at h
      exact tryCandidates_later _ (fun s _ => (ih s).1) _ s h.2 (candidates_faithful s)
    · exact ⟨Later.refl s, fun _ => SameWork.refl s⟩

/-- All that the engine's choice of work can do. -/
theorem choose_later (s : State) : Later s (choose s) := (chooseWork_later 10 s).1

@[simp] theorem choose_held (s : State) : (choose s).held = s.held := (choose_later s).held

/-- Without a locked head job the choice leaves the streams, the jobs and the deferred commands alone. -/
theorem choose_work {s : State} (h : NoLockedHead s) : SameWork s (choose s) := (chooseWork_later 10 s).2 h

/-- A busy engine chooses nothing. -/
theorem choose_busy {s : State} (h : s.engine.op.isSome) : choose s = s := by
  unfold choose chooseWork
  rw [if_neg]
  simp only [Bool.and_eq_true, Option.isNone_iff_eq_none, not_and]
  intro _ hn; rw [hn] at h; cases h

/-! ### The end of an event -/

/-- What an event's choice and posting leave of the state in which its body ended. -/
structure Closed (s t : State) : Prop where
  held : t.held = s.held
  posted : ∀ k c, (k, c) ∈ s.cpl.fresh → ∃ a b, t.cpl.records = s.cpl.records ++ a ++ c :: b
  bits : ∀ b, s.events.latched &&& b = b → t.events.latched &&& b = b
  entries : ∀ n, SameEntry (streamOf s n) (streamOf t n)
  number : t.streams.length = s.streams.length
  asked : ∀ r, s.engine.request = some r → Asked t r
  work : NoLockedHead s → SameWork s t

theorem close_spec (s : State) : Closed s (settle (choose s)) where
  held := by simp
  posted := fun k c h => by
    have hc := choose_later s
    have := settle_posts (s := choose s) (hc.completions.subset h)
    obtain ⟨a, b, hab⟩ := this
    exact ⟨a, b, by rw [hab, hc.records]⟩
  bits := fun b h => by rw [(settle_spec _).2.2.2.2.2.1]; exact (choose_later s).bits b h
  entries := fun n => by
    have h := (choose_later s).entries n
    have hs : streamOf (settle (choose s)) n = streamOf (choose s) n := by unfold streamOf; rw [(settle_work _).1]
    rw [hs]; exact h
  number := by rw [(settle_work _).1]; exact (choose_later s).number
  asked := fun r h => (choose_later s).asked r h
  work := fun h => (choose_work h).trans (settle_work _)

end Sys2Proof.Machine
end

