-- ==== Sys2Proof/Laws/Copying.lean ====
section
/-!
SUPPORT. What the operations of a COMMIT's copying, of a frame's READ and of the write segment can do, said once each:
the cases of `stride` (R76), the fields of `readFrame` (R52), what `writeEntry` and `tailOf` answer (R64, R76, R77).
-/

namespace Sys2Proof.Machine

open Sys2Proof

/-! ### The write segment -/

/-- The write segment is the newest entry, unsealed and open in the Segment Map. -/
theorem writeEntry_some {s : State} {t : Stream} {e : ChainEntry} (h : writeEntry s t = some e) :
    t.chain.getLast? = some e ∧ e.isSealed = false ∧ (segOf s e.segment).isOpen = true := by
  rcases hc : t.chain.getLast? with _ | x <;> simp only [writeEntry, hc] at h
  · cases h
  · obtain ⟨hx, he⟩ := Option.ite_none_right_eq_some.mp h
    cases he
    simpa using hx

@[simp] theorem tailOf_nil (t : Tail) : tailOf [] t = .none := rfl

@[simp] theorem tailOf_cons (e : ChainEntry) (es : List ChainEntry) (t : Tail) : tailOf (e :: es) t = t := rfl

/-! ### The copying of a record, one job an internal event -/

/-- A tail is filled with as many of the bytes as its frame has room for. -/
@[simp] theorem fillTail_offset (seq : Nat) (bytes : List Byte) (p : TailPos) :
    (fillTail seq bytes p).offset = p.offset + min (512 - p.offset) bytes.length := by
  simp [fillTail]

/-- The bytes stay below the frame's end: nothing is emitted but, under EAGER, the record's last job. -/
theorem stride_within {eager free : Bool} {n inc gen seq : Nat} {bytes : List Byte} {p : TailPos}
    (h : (fillTail seq bytes p).offset < 512) :
    stride eager free n inc gen seq bytes p = strideEnd eager free n inc gen (fillTail seq bytes p) := by
  rw [stride, if_neg (fun k => Nat.not_le.mpr h k.2), strideFill, if_pos h]

/-- The frame is filled in an event that has emitted a job already: it stands full until the next one (R75, R76). -/
theorem stride_waits {eager : Bool} {n inc gen seq : Nat} {bytes : List Byte} {p : TailPos}
    (h : 512 ≤ (fillTail seq bytes p).offset) :
    stride eager false n inc gen seq bytes p =
      { job := none, tail := .pos (fillTail seq bytes p), left := some (bytes.drop (512 - p.offset)) } := by
  rw [stride, if_neg (fun k => Bool.false_ne_true k.1), strideFill, if_neg (Nat.not_lt.mpr h)]

/-- The frame is filled: its FRAME job is the event's one job. -/
theorem stride_completes {eager : Bool} {n inc gen seq : Nat} {bytes : List Byte} {p : TailPos}
    (h : 512 ≤ (fillTail seq bytes p).offset) :
    (stride eager true n inc gen seq bytes p).job =
      some (tailJob n inc gen (fillTail seq bytes p) .frame 512 false) := by
  rw [stride, if_pos ⟨rfl, h⟩]
  cases nextFrame p <;> rfl

/-- Under LAZY the end of a record emits nothing. -/
theorem strideEnd_lazy {free : Bool} {n inc gen : Nat} {p : TailPos} :
    strideEnd false free n inc gen p = { job := none, tail := .pos p, left := none } := rfl

/-- One internal event emits at most one job (R76), and none where it is not free to. -/
theorem stride_job_free {eager : Bool} {n inc gen seq : Nat} {bytes : List Byte} {p : TailPos} :
    (stride eager false n inc gen seq bytes p).job = none := by
  rcases Nat.lt_or_ge (fillTail seq bytes p).offset 512 with h | h
  · rw [stride_within h]
    unfold strideEnd
    split <;> rfl
  · rw [stride_waits h]

/-! ### A READ -/

@[simp] theorem readFrame_portions (m : Medium) (g f lo hi : Nat) (n : ReadNoise) :
    (readFrame m g f lo hi n).portions = (readPortions m g f n 4 0 0).1 := rfl

@[simp] theorem readFrame_implausible (m : Medium) (g f lo hi : Nat) (n : ReadNoise) :
    (readFrame m g f lo hi n).implausible = (readPortions m g f n 4 0 0).2 := rfl

/-- The range of a READ decides its bytes and its class alone (R52). -/
theorem readFrame_range (m : Medium) (g f lo hi lo' hi' : Nat) (n : ReadNoise) :
    readFrame m g f lo' hi' n =
      { readFrame m g f lo hi n with
        grade := (readFrame m g f lo' hi' n).grade, bytes := (readFrame m g f lo' hi' n).bytes } := rfl

/-- A valid label is of its frame, its check was good, and portion 0 is not BROKEN (R118). -/
theorem readLabel_valid {m : Medium} {g f : Nat} {n : ReadNoise} {ps : List PortionRead} {l : Label}
    (h : readLabel m g f n ps = .valid l) : firstGrade ps ≠ .broken ∧ l.checkGood = true ∧ l.frameIndex = f := by
  unfold readLabel at h
  dsimp only at h
  repeat' split at h
  · next hc => cases h; exact hc
  all_goals cases h

end Sys2Proof.Machine
end

