-- ==== Sys2Proof/Laws/Dispatch.lean ====
section
/-!
SUPPORT. Dispatch said once (Figure 2-1): which row takes a frame, and what a command that completes, waits, defers or
goes on in its dispatch event leaves behind.
-/

namespace Sys2Proof.Machine

open Sys2Proof

/-! ### Little-endian numbers -/

theorem leBytes_length (n v : Nat) : (leBytes n v).length = n := by
  induction n generalizing v with
  | zero => rfl
  | succ n ih => simp [leBytes, ih]

/-- A number that fits is read back from its bytes. -/
theorem leNat_leBytes (n v : Nat) (h : v < 256 ^ n) : leNat (leBytes n v) = v := by
  induction n generalizing v with
  | zero => simp at h; simp [leBytes, leNat, h]
  | succ n ih =>
    have h' : v / 256 < 256 ^ n := by rw [Nat.div_lt_iff_lt_mul (by decide)]; rwa [Nat.pow_succ] at h
    simp only [leBytes, leNat, ih _ h', BitVec.toNat_ofNat]
    omega

theorem leNat_lt (bs : List Byte) : leNat bs < 256 ^ bs.length := by
  induction bs with
  | nil => simp [leNat]
  | cons b bs ih =>
    have := b.isLt
    simp only [leNat, List.length_cons, Nat.pow_succ]
    omega

/-- Bytes are the low bytes of the number they spell. -/
theorem leBytes_leNat (bs : List Byte) : leBytes bs.length (leNat bs) = bs := by
  induction bs with
  | nil => rfl
  | cons b bs ih =>
    have hb := b.isLt
    have h1 : BitVec.ofNat 8 (b.toNat + 256 * leNat bs) = b := by
      apply BitVec.eq_of_toNat_eq
      rw [BitVec.toNat_ofNat, show (2 ^ 8 : Nat) = 256 from rfl, Nat.add_mul_mod_self_left]
      exact Nat.mod_eq_of_lt hb
    have h2 : (b.toNat + 256 * leNat bs) / 256 = leNat bs := by
      rw [Nat.add_mul_div_left _ _ (by decide), Nat.div_eq_of_lt hb, Nat.zero_add]
    simp only [List.length_cons, leNat, leBytes, h1, h2, ih]

/-! ### The command of a frame -/

/-- Each payload shape spells only commands of its own constructor. -/
theorem payloads_code {p : List Byte} {c : Cmd} {k : Byte} :
    (∀ x, payload0 x p = some c → x.code = k → c.code = k) ∧
    (∀ f, payload1 f p = some c → (∀ a, (f a).code = k) → c.code = k) ∧
    (∀ f, payload2 f p = some c → (∀ a b, (f a b).code = k) → c.code = k) ∧
    (∀ f, payload5 f p = some c → (∀ a b, (f a b).code = k) → c.code = k) ∧
    (∀ f, payloadData f p = some c → (∀ a b, (f a b).code = k) → c.code = k) := by
  refine ⟨fun x h hx => ?_, fun f h hf => ?_, fun f h hf => ?_, fun f h hf => ?_, fun f h hf => ?_⟩
  · unfold payload0 at h; split at h <;> cases h; exact hx
  · unfold payload1 at h; split at h <;> cases h; exact hf _
  · unfold payload2 at h; split at h <;> cases h; exact hf _ _
  · unfold payload5 at h; split at h <;> cases h; exact hf _ _
  · unfold payloadData at h; split at h <;> (try split at h) <;> cases h; exact hf _ _

theorem payloadOthers_code {p : List Byte} {c : Cmd} :
    (payloadDefine p = some c → c.code = 0x10) ∧ (payloadSeek p = some c → c.code = 0x31) ∧
    (payloadUnlock p = some c → c.code = 0x41) ∧ (payloadSegment p = some c → c.code = 0x43) := by
  refine ⟨fun h => ?_, fun h => ?_, fun h => ?_, fun h => ?_⟩
  · unfold payloadDefine at h; split at h <;> (try split at h) <;> cases h; rfl
  · unfold payloadSeek at h; split at h <;> cases h; rfl
  · unfold payloadUnlock at h; split at h <;> cases h; rfl
  · unfold payloadSegment at h; split at h <;> cases h; rfl

theorem of_ite {α : Type} {q : Prop} [Decidable q] {a b : Option α} {c : α} (h : (if q then a else b) = some c) :
    (q ∧ a = some c) ∨ b = some c := by
  split at h
  · exact .inl ⟨‹q›, h⟩
  · exact .inr h

/-- A frame spells a command of its own opcode (R21). -/
theorem decodeCmd_code {op : Byte} {p : List Byte} {c : Cmd} (h : decodeCmd op p = some c) : c.code = op := by
  obtain ⟨h0, h1, h2, h5, hd⟩ := payloads_code (p := p) (c := c) (k := op)
  obtain ⟨g1, g2, g3, g4⟩ := payloadOthers_code (p := p) (c := c)
  unfold decodeCmd at h
  repeat
    rcases of_ite h with ⟨hk, hp⟩ | h'
    · subst hk
      first
        | exact h0 _ hp rfl
        | exact h1 _ hp (fun _ => rfl)
        | exact h2 _ hp (fun _ _ => rfl)
        | exact h5 _ hp (fun _ _ => by simp only [Cmd.code])
        | exact hd _ hp (fun _ _ => rfl)
        | exact g1 hp
        | exact g2 hp
        | exact g3 hp
    replace h := h'
    clear h'
  cases h

theorem goodHead_eq {s : State} {f : CmdFrame} {c : Cmd} (h : goodHead s = some (f, c)) :
    ∃ rest, s.sequencer.queue = f :: rest ∧ f.oversize = false ∧ decodeCmd f.opcode f.payload = some c := by
  unfold goodHead at h
  split at h
  · cases h
  · rename_i g rest hq
    split at h
    · cases h
    · rename_i ho
      cases hd : decodeCmd g.opcode g.payload with
      | none => rw [hd] at h; cases h
      | some c' =>
        rw [hd] at h
        injection h with h
        injection h with h1 h2
        subst h1 h2
        exact ⟨rest, hq, by simpa using ho, hd⟩

theorem goodHead_code {s : State} {f : CmdFrame} {c : Cmd} (h : goodHead s = some (f, c)) : f.opcode = c.code :=
  let ⟨_, _, _, hd⟩ := goodHead_eq h
  (decodeCmd_code hd).symm

theorem postRecord_work (k : Nat) (c : Completion) (s : State) : SameWork s (postRecord k c s) := by
  unfold postRecord
  dsimp only
  split
  · have h : SameWork s { s with cpl := { s.cpl with fresh := s.cpl.fresh ++ [(k, c)] } } := ⟨rfl, rfl, rfl⟩
    exact h.trans (raise_work ..)
  · exact ⟨rfl, rfl, rfl⟩

/-- A completion leaves the streams, the jobs and the deferred commands alone. -/
theorem complete_work (d : Dispatched) (o : Outcome) (s : State) : SameWork s (complete d o s) := postRecord_work ..

/-! ### The dispatch event -/

/-- The state in which a dispatched command executes: the frame has left the queue (R23, R26). -/
def afterTake (s : State) (f : CmdFrame) (c : Cmd) : State := takeHead (some (newDispatched s f c)) s

theorem Dispatches.canDispatch {s : State} {f : CmdFrame} {c : Cmd} (h : Dispatches s f c) : CanDispatch s := by
  obtain ⟨_, hq, _⟩ := goodHead_eq h.head
  exact ⟨by rw [hq]; exact List.cons_ne_nil _ _, h.ready⟩

/-- The head's command executes. -/
theorem dispatchHead_of {s : State} {f : CmdFrame} {c : Cmd} (h : Dispatches s f c) :
    dispatchHead s = runOf c (newDispatched s f c) (afterTake s f c) := by
  unfold dispatchHead
  simp only [h.head, h.accepted]
  rfl

/-- The head's command is refused in steps 3 to 5 of Figure 2-1. -/
theorem dispatchHead_refused {s : State} {f : CmdFrame} {c : Cmd} {r : Result} (h : goodHead s = some (f, c))
    (hf : dispatchFault s c = some r) :
    dispatchHead s = complete (newDispatched s f c) { result := r } (afterTake s f c) := by
  unfold dispatchHead
  simp only [h, hf]
  rfl

/-- Nothing is dispatched where nothing can be. -/
theorem dispatchFrames_none {s : State} (h : ¬ CanDispatch s) : dispatchFrames s = s := by
  unfold dispatchFrames
  cases hq : s.sequencer.queue with
  | nil => rfl
  | cons f fs =>
    rw [List.length_cons, dispatchNext, if_neg (fun hr => h ⟨by rw [hq]; exact List.cons_ne_nil _ _, hr⟩)]

/-- Where the head can be dispatched it is, and the frames behind it follow while commands defer (R30). -/
theorem dispatchFrames_head {s : State} (h : CanDispatch s) :
    dispatchFrames s = ifDeferred (dispatchNext (s.sequencer.queue.length - 1)) s (dispatchHead s) := by
  obtain ⟨hq, hr⟩ := h
  unfold dispatchFrames
  cases hs : s.sequencer.queue with
  | nil => exact absurd hs hq
  | cons f fs => rw [List.length_cons, dispatchNext, if_pos hr, Nat.add_sub_cancel]

/-- No command has deferred: nothing follows in the event. -/
theorem ifDeferred_not {goOn : State → State} {s t : State}
    (h : t.sequencer.deferred.length ≤ s.sequencer.deferred.length) : ifDeferred goOn s t = t := by
  rw [ifDeferred, if_neg]
  simpa [hasDeferred] using h

/-- A command has deferred: the next frame follows in the same event. -/
theorem ifDeferred_yes {goOn : State → State} {s t : State}
    (h : s.sequencer.deferred.length < t.sequencer.deferred.length) : ifDeferred goOn s t = goOn t := by
  rw [ifDeferred, if_pos]
  simpa [hasDeferred] using h

/-- The row of the head's command is the event that dispatches it. -/
theorem dispatch_head {s : State} {f : CmdFrame} {c : Cmd} (h : goodHead s = some (f, c)) (hr : dispatchReady s = true) :
    dispatch c.code s = settle (choose (dispatchFrames s)) := by
  unfold dispatch
  simp only [h]
  rw [if_pos ⟨hr, goodHead_code h⟩]

/-- The row of the head's command runs it; it does not defer. -/
theorem dispatch_of {s : State} {f : CmdFrame} {c : Cmd} (h : Dispatches s f c)
    (hd : (runOf c (newDispatched s f c) (afterTake s f c)).sequencer.deferred.length ≤ s.sequencer.deferred.length) :
    dispatch c.code s = settle (choose (runOf c (newDispatched s f c) (afterTake s f c))) := by
  rw [dispatch_head h.head h.ready, dispatchFrames_head h.canDispatch, dispatchHead_of h, ifDeferred_not hd]

/-- The row of the head's command runs it; it defers, and the frames behind it follow (R30). -/
theorem dispatch_deferred {s v : State} {f : CmdFrame} {c : Cmd} (h : Dispatches s f c)
    (hv : runOf c (newDispatched s f c) (afterTake s f c) = v)
    (hd : s.sequencer.deferred.length < v.sequencer.deferred.length)
    (hq : v.sequencer.queue = s.sequencer.queue.drop 1) :
    dispatch c.code s = settle (choose (dispatchFrames v)) := by
  rw [dispatch_head h.head h.ready, dispatchFrames_head h.canDispatch, dispatchHead_of h, hv, ifDeferred_yes hd,
    dispatchFrames, hq, List.length_drop]

/-- A command's row dispatches it where R23 allows it. -/
theorem exec_rowOf {s : State} (c : Cmd) (hr : dispatchReady s = true) :
    exec (rowOf c) s = .next (dispatch c.code s) := by
  cases c <;> try rfl
  unfold dispatchReady nothingDue at hr
  simp only [Bool.and_eq_true, Option.isNone_iff_eq_none] at hr
  change Host.Outcome.next (if (placingDue s).isSome = true then _ else _) = _
  rw [hr.1.1.2.1.2]
  rfl

/-- The row of the head dispatches it, whatever it is. -/
theorem exec_headRow {s : State} (h : CanDispatch s) : exec (headRow s) s = .next (settle (choose (dispatchFrames s))) := by
  obtain ⟨hq, hr⟩ := h
  unfold headRow
  cases hg : goodHead s with
  | some fc => rw [exec_rowOf fc.2 hr, dispatch_head (f := fc.1) (c := fc.2) hg hr]
  | none =>
    have hb : (badHead s).isSome := by
      unfold goodHead at hg
      unfold badHead
      cases hs : s.sequencer.queue with
      | nil => exact absurd hs hq
      | cons f fs =>
        rw [hs] at hg
        by_cases ho : f.oversize = true
        · simp [ho]
        · simp [ho] at hg; simp [hg]
    obtain ⟨f, hf⟩ := Option.isSome_iff_exists.mp hb
    change Host.Outcome.next _ = _
    simp only [hf, if_pos hr]

/-- An event in which a command has deferred, the machine then being `v`. -/
theorem afterDeferral {i : Instr} {s v : State} {ended : State → Prop}
    (hi : exec i s = .next (settle (choose (dispatchFrames v)))) (he : ended (settle (choose v))) :
    AfterDeferral i s v ended := by
  refine ⟨_, hi, fun h => exec_headRow h, fun h => ?_⟩
  rw [dispatchFrames_none h]
  exact he

theorem signalRoom_held (b : Bool) (s : State) : (signalRoom b s).held = s.held := by
  unfold signalRoom; split <;> simp

theorem signalRoom_posting (b : Bool) (s : State) : Posting s (signalRoom b s) := by
  unfold signalRoom
  split
  · exact raise_posting ..
  · exact Posting.refl s

/-- The Sequencer as a command executes. -/
def takenSequencer (s : State) (f : CmdFrame) (c : Cmd) : Sequencer :=
  { s.sequencer with
    queue := s.sequencer.queue.drop 1
    dispatched := some (newDispatched s f c)
    arm := none
    nextId := s.sequencer.nextId + 1 }

/-- What `afterTake` leaves of the state. -/
theorem afterTake_spec (s : State) (f : CmdFrame) (c : Cmd) :
    (afterTake s f c).held = { s.held.taken with dispatched := some (newDispatched s f c) } ∧
    (afterTake s f c).cpl = s.cpl ∧ (afterTake s f c).streams = s.streams ∧
    (afterTake s f c).write = s.write ∧ (afterTake s f c).engine = s.engine ∧
    (afterTake s f c).catalogue = s.catalogue ∧ (afterTake s f c).guard = s.guard ∧
    (afterTake s f c).sequencer = takenSequencer s f c ∧
    (afterTake s f c).events.notices = s.events.notices ∧ (afterTake s f c).events.lost = s.events.lost ∧
    (afterTake s f c).events.fresh = s.events.fresh ∧
    (∀ b, s.events.latched &&& b = b → (afterTake s f c).events.latched &&& b = b) := by
  unfold afterTake takeHead signalRoom raise
  split
  · split
    · exact ⟨rfl, rfl, rfl, rfl, rfl, rfl, rfl, rfl, rfl, rfl, rfl, fun _ h => h⟩
    · exact ⟨rfl, rfl, rfl, rfl, rfl, rfl, rfl, rfl, rfl, rfl, rfl, fun _ h => or_keeps h⟩
  · exact ⟨rfl, rfl, rfl, rfl, rfl, rfl, rfl, rfl, rfl, rfl, rfl, fun _ h => h⟩

theorem afterTake_held (s : State) (f : CmdFrame) (c : Cmd) :
    (afterTake s f c).held = { s.held.taken with dispatched := some (newDispatched s f c) } := (afterTake_spec s f c).1

@[simp] theorem afterTake_cpl (s : State) (f : CmdFrame) (c : Cmd) : (afterTake s f c).cpl = s.cpl :=
  (afterTake_spec s f c).2.1

@[simp] theorem afterTake_streams (s : State) (f : CmdFrame) (c : Cmd) : (afterTake s f c).streams = s.streams :=
  (afterTake_spec s f c).2.2.1

@[simp] theorem afterTake_write (s : State) (f : CmdFrame) (c : Cmd) : (afterTake s f c).write = s.write :=
  (afterTake_spec s f c).2.2.2.1

@[simp] theorem afterTake_engine (s : State) (f : CmdFrame) (c : Cmd) : (afterTake s f c).engine = s.engine :=
  (afterTake_spec s f c).2.2.2.2.1

@[simp] theorem afterTake_catalogue (s : State) (f : CmdFrame) (c : Cmd) : (afterTake s f c).catalogue = s.catalogue :=
  (afterTake_spec s f c).2.2.2.2.2.1

@[simp] theorem afterTake_guard (s : State) (f : CmdFrame) (c : Cmd) : (afterTake s f c).guard = s.guard :=
  (afterTake_spec s f c).2.2.2.2.2.2.1

@[simp] theorem afterTake_sequencer (s : State) (f : CmdFrame) (c : Cmd) :
    (afterTake s f c).sequencer = takenSequencer s f c :=
  (afterTake_spec s f c).2.2.2.2.2.2.2.1

@[simp] theorem afterTake_notices (s : State) (f : CmdFrame) (c : Cmd) :
    (afterTake s f c).events.notices = s.events.notices ∧ (afterTake s f c).events.lost = s.events.lost :=
  ⟨(afterTake_spec s f c).2.2.2.2.2.2.2.2.1, (afterTake_spec s f c).2.2.2.2.2.2.2.2.2.1⟩

@[simp] theorem afterTake_rest (s : State) (f : CmdFrame) (c : Cmd) :
    (afterTake s f c).host = s.host ∧ (afterTake s f c).rsp = s.rsp ∧ (afterTake s f c).segments = s.segments ∧
    (afterTake s f c).vault = s.vault ∧ (afterTake s f c).time = s.time ∧ (afterTake s f c).power = s.power ∧
    (afterTake s f c).options = s.options ∧ (afterTake s f c).pins = s.pins ∧ (afterTake s f c).medium = s.medium := by
  have h := afterTake_held s f c
  refine ⟨congrArg Held.host h, congrArg Held.rsp h, congrArg Held.segments h, congrArg Held.vault h,
    congrArg Held.time h, congrArg Held.power h, congrArg Held.options h, congrArg Held.pins h, congrArg Held.medium h⟩

theorem afterTake_lost (s : State) (f : CmdFrame) (c : Cmd) : (afterTake s f c).events.lost = s.events.lost :=
  (afterTake_spec s f c).2.2.2.2.2.2.2.2.2.1

/-- A refusal of steps 3 to 5 of Figure 2-1. -/
theorem dispatch_refused {s : State} {f : CmdFrame} {c : Cmd} {r : Result} (h : goodHead s = some (f, c))
    (hr : dispatchReady s = true) (hf : dispatchFault s c = some r) :
    dispatch c.code s = settle (choose (complete (newDispatched s f c) { result := r } (afterTake s f c))) := by
  obtain ⟨_, hq, _⟩ := goodHead_eq h
  rw [dispatch_head h hr, dispatchFrames_head ⟨by rw [hq]; exact List.cons_ne_nil _ _, hr⟩, dispatchHead_refused h hf,
    ifDeferred_not]
  rw [(complete_work ..).2.2, afterTake_sequencer]
  exact Nat.le_refl _

/-- A malformed frame at the head is not a good one, and can be dispatched where R23 allows it. -/
theorem badHead_spec {s : State} {f : CmdFrame} (h : badHead s = some f) :
    goodHead s = none ∧ s.sequencer.queue ≠ [] := by
  unfold badHead at h
  unfold goodHead
  cases hs : s.sequencer.queue with
  | nil => rw [hs] at h; cases h
  | cons g gs =>
    rw [hs] at h
    refine ⟨?_, List.cons_ne_nil _ _⟩
    obtain ⟨hb, -⟩ := Option.ite_none_right_eq_some.mp h
    by_cases ho : g.oversize = true
    · simp [ho]
    · simp only [ho, Bool.false_or, Option.isNone_iff_eq_none] at hb
      simp [ho, hb]

/-- BAD_FRAME posts the malformed frame's completion and takes the frame. -/
theorem exec_badFrame {s : State} {f : CmdFrame} (h : badHead s = some f) (hr : dispatchReady s = true) :
    exec .badFrame s =
      .next (settle (choose (postRecord (s.sequencer.nextId + 1) (badCompletion f) (takeHead none s)))) := by
  obtain ⟨hg, hq⟩ := badHead_spec h
  have hh : dispatchHead s = postRecord (s.sequencer.nextId + 1) (badCompletion f) (takeHead none s) := by
    unfold dispatchHead
    simp only [hg, h]
  have hd : (takeHead none s).sequencer.deferred = s.sequencer.deferred := by
    unfold takeHead signalRoom raise
    split
    · split <;> rfl
    · rfl
  have he : execBadFrame s = .next (settle (choose (dispatchFrames s))) := by
    unfold execBadFrame
    simp only [h, if_pos hr]
  change execBadFrame s = _
  rw [he, dispatchFrames_head ⟨hq, hr⟩, hh, ifDeferred_not]
  rw [(postRecord_work ..).2.2, hd]

/-! ### A command that completes -/

theorem postRecord_fresh (k : Nat) (c : Completion) (s : State) : (k, c) ∈ (postRecord k c s).cpl.fresh := by
  unfold postRecord
  dsimp only
  split
  · unfold raise; split <;> simp
  · simp

/-- What posting and retiring leaves of the state (R34). -/
theorem complete_spec (d : Dispatched) (o : Outcome) (s : State) :
    (complete d o s).held = { s.held with dispatched := none } ∧ SameWork s (complete d o s) ∧
    (∃ k, (k, completionOf d.tag d.opcode (cmdDetail d.cmd) d.abortLate o) ∈ (complete d o s).cpl.fresh) ∧
    (complete d o s).cpl.records = s.cpl.records ∧ (complete d o s).engine = s.engine ∧
    (∀ b, s.events.latched &&& b = b → (complete d o s).events.latched &&& b = b) := by
  have h := postRecord_posting (if o.result = .aborted then 0 else d.id + 1)
    (completionOf d.tag d.opcode (cmdDetail d.cmd) d.abortLate o)
    { s with sequencer := { s.sequencer with dispatched := none } }
  have w : SameWork s { s with sequencer := { s.sequencer with dispatched := none } } := ⟨rfl, rfl, rfl⟩
  exact ⟨h.1.held, w.trans (postRecord_work ..), ⟨_, postRecord_fresh ..⟩,
    h.1.records, h.2, h.1.bits⟩

/-- A command that completes ends its event with its record posted, and all it did before the posting in place. -/
theorem close_complete (d : Dispatched) (o : Outcome) (s0 s : State) (h0 : s.cpl.records = s0.cpl.records) :
    Posts s0 (settle (choose (complete d o s))) (completionOf d.tag d.opcode (cmdDetail d.cmd) d.abortLate o) ∧
    (settle (choose (complete d o s))).held = { s.held with dispatched := none } ∧
    (NoLockedHead s → SameWork s (settle (choose (complete d o s)))) ∧
    (∀ n, SameEntry (streamOf s n) (streamOf (settle (choose (complete d o s))) n)) ∧
    (∀ r, s.engine.request = some r → Asked (settle (choose (complete d o s))) r) ∧
    (∀ b, s.events.latched &&& b = b → (settle (choose (complete d o s))).events.latched &&& b = b) := by
  have hc := complete_spec d o s
  have k := close_spec (complete d o s)
  obtain ⟨n, hn⟩ := hc.2.2.1
  have hl : ∀ g, locked (complete d o s) g = locked s g := by
    intro g
    have hg : (complete d o s).held.guard = s.held.guard := by rw [hc.1]
    have h1 : (complete d o s).guard.mode = s.guard.mode := by simp only [State.held] at hg; injection hg
    have h2 : (complete d o s).guard.range = s.guard.range := by simp only [State.held] at hg; injection hg
    unfold locked; rw [h1, h2]
  refine ⟨?_, by rw [k.held, hc.1], ?_, ?_, ?_, ?_⟩
  · obtain ⟨a, b, hab⟩ := k.posted n _ hn
    exact ⟨a, b, by rw [hab, hc.2.2.2.1, h0]⟩
  · intro hn
    refine hc.2.1.trans (k.work ?_)
    intro j hj
    rw [hl]
    rw [hc.2.1.2.1] at hj
    exact hn j hj
  · intro n
    have := k.entries n
    have hs : streamOf (complete d o s) n = streamOf s n := by unfold streamOf; rw [hc.2.1.1]
    rw [hs] at this
    exact this
  · intro r hr
    exact k.asked r (by rw [hc.2.2.2.2.1]; exact hr)
  · intro b hb
    exact k.bits b (hc.2.2.2.2.2 b hb)

end Sys2Proof.Machine
end

