-- ==== Sys2Proof/Laws/Settled.lean ====
section
/-!
SUPPORT. How an event ends, in the words of the statements (`Settled`, `Taken`): from the state its body leaves to the
state after the engine's choice and the posting.
-/

namespace Sys2Proof.Machine

open Sys2Proof

/-! ### A calm choice -/

theorem tryCandidates_calm (again : State → State) (cs : List WorkItem) (s : State) (hn : NoLockedHead s)
    (hg : guarded s = false) :
    (tryCandidates again cs s).cpl = s.cpl ∧ (tryCandidates again cs s).events = s.events := by
  cases cs with
  | nil =>
    unfold tryCandidates startBackgroundErase
    split
    · split <;> exact ⟨rfl, rfl⟩
    · exact ⟨rfl, rfl⟩
  | cons c cs =>
    unfold tryCandidates
    split
    · rw [hg, lockedOut_of_free hn]; exact ⟨rfl, rfl⟩
    · exact ⟨rfl, rfl⟩

/-- Where no job can be failed and no write is held, the choice of work posts and reports nothing. -/
theorem choose_calm {s : State} (hn : NoLockedHead s) (hg : guarded s = false) :
    (choose s).cpl = s.cpl ∧ (choose s).events = s.events := by
  unfold choose chooseWork
  split
  · exact tryCandidates_calm _ _ s hn hg
  · exact ⟨rfl, rfl⟩

/-- Nothing but the bit of ROOM was raised. -/
def RoomOnly (a b : Byte) : Prop :=
  (∀ e : Event, a &&& e.bit = e.bit → b &&& e.bit = e.bit) ∧
  (∀ e : Event, e ≠ .room → b &&& e.bit = e.bit → a &&& e.bit = e.bit)

theorem RoomOnly.refl (a : Byte) : RoomOnly a a := ⟨fun _ h => h, fun _ _ h => h⟩

theorem roomOnly_or (a : Byte) : RoomOnly a (a ||| 0x02) := by
  refine ⟨fun e h => or_keeps h, fun e he h => ?_⟩
  cases e <;> simp only [Event.bit] at h ⊢ <;> first
    | exact absurd rfl he
    | (revert h; revert a; decide)

/-! ### From the body's end to the event's end -/

/-- What the body of an event leaves in `v`, seen from `u`: they differ in the completion, the bits it raises and what is
held. -/
structure Near (u v : State) (c : Option Completion) : Prop where
  records : v.cpl.records = u.cpl.records
  fresh : ∃ k, v.cpl.fresh = u.cpl.fresh ++ (c.map (fun x => (k, x))).toList
  streams : v.streams = u.streams
  jobs : v.write.jobs = u.write.jobs
  deferred : v.sequencer.deferred = u.sequencer.deferred
  request : v.engine.request = u.engine.request
  guard : v.guard = u.guard
  notices : v.events.notices = u.events.notices
  lost : v.events.lost = u.events.lost
  noticed : v.events.fresh = u.events.fresh
  holdClear : v.events.holdClear = u.events.holdClear
  bits : ∀ e, Raised u e → Raised v e
  others : (∀ x, c = some x → x.result ≠ .writeProtected) → ∀ e, e ≠ .room → Raised v e → Raised u e
  guardHeld : ∀ x, c = some x → x.result = .writeProtected → u.events.holdClear = false → Raised v .guardHeld

theorem Near.locked {u v : State} {c : Option Completion} (h : Near u v c) (g : Nat) : locked v g = locked u g := by
  unfold Machine.locked; rw [h.guard]

theorem Near.unlocked {u v : State} {c : Option Completion} (h : Near u v c) (k : NoLockedHead u) : NoLockedHead v := by
  intro j hj
  rw [h.locked]
  rw [h.jobs] at hj
  exact k j hj

/-- An event whose body has left `v` ends as `Settled` says. -/
theorem Near.settled {u v : State} {c : Option Completion} (h : Near u v c) :
    Settled u (settle (choose v)) v.held c := by
  have k := close_spec v
  have ks := settle_spec (choose v)
  refine ⟨k.held, ?_, ?_, ?_, ?_, ?_, ?_, ?_⟩
  · intro x hx
    subst hx
    obtain ⟨n, hn⟩ := h.fresh
    obtain ⟨a, b, hab⟩ := k.posted n x (by rw [hn]; simp)
    exact ⟨a, b, by rw [hab, h.records]⟩
  · intro x hx hr hc
    exact k.bits _ (h.guardHeld x hx hr hc)
  · intro n
    have := k.entries n
    have e : streamOf v n = streamOf u n := by unfold streamOf; rw [h.streams]
    rwa [e] at this
  · intro hn
    have w := k.work (h.unlocked hn)
    exact ⟨w.1.trans h.streams, w.2.1.trans h.jobs, w.2.2.trans h.deferred⟩
  · intro r hr
    exact k.asked r (by rw [h.request]; exact hr)
  · intro e he
    exact k.bits _ (h.bits e he)
  · intro hc
    have hg : guarded v = false := by unfold guarded; rw [h.guard]; exact hc.unguarded
    have q := choose_calm (h.unlocked hc.unlocked) hg
    obtain ⟨n, hn⟩ := h.fresh
    rw [hc.noCompletion] at hn
    have hf : v.events.fresh = [] := by rw [h.noticed, hc.noNotice]
    have hev : (settle (choose v)).events.notices = v.events.notices ∧
        (settle (choose v)).events.lost = v.events.lost := by
      simp [settle, flushNotices, flushCompletions, q.2, hf, orderByKey]
    refine ⟨?_, hev.1.trans h.notices, hev.2.trans h.lost, fun hw e he hr => h.others hw e he ?_⟩
    · rw [settle_records, q.1, h.records, hn]
      cases c <;> simp [orderByKey, insertByKey]
    · unfold Raised at *
      rw [ks.2.2.2.2.2.1, q.2] at hr
      exact hr

/-- A command that completes: its record is fresh, and a PROTECTED outcome raises GUARD. -/
theorem Near.complete {u w : State} (h : Near u w none) (d : Dispatched) (o : Outcome) :
    Near u (complete d o w) (some (completionOf d.tag d.opcode (cmdDetail d.cmd) d.abortLate o)) := by
  obtain ⟨_, hn⟩ := h.fresh
  simp only [Option.map_none, Option.toList_none, List.append_nil] at hn
  by_cases hw : o.result = .writeProtected
  · unfold Machine.complete postRecord raise
    simp only [completionOf, hw]
    by_cases hc : w.events.holdClear = true
    · simp only [hc, if_true]
      refine ⟨h.records, ⟨_, by rw [hn]; rfl⟩, h.streams, h.jobs, h.deferred, h.request, h.guard, h.notices, h.lost,
        h.noticed, h.holdClear, h.bits, ?_, ?_⟩
      · intro hx; exact absurd rfl (hx _ rfl)
      · intro x _ _ hc'; rw [← h.holdClear, hc] at hc'; cases hc'
    · simp only [Bool.not_eq_true] at hc
      simp only [hc, if_true]
      refine ⟨h.records, ⟨_, by rw [hn]; rfl⟩, h.streams, h.jobs, h.deferred, h.request, h.guard, h.notices, h.lost,
        h.noticed, hc.symm.trans h.holdClear, fun e he => or_keeps (h.bits e he), ?_, ?_⟩
      · intro hx; exact absurd rfl (hx _ rfl)
      · intro x _ _ _; simp [Raised, Event.bit]; ext i; simp; grind
  · unfold Machine.complete postRecord
    simp only [completionOf, hw, if_false]
    refine ⟨h.records, ⟨_, by rw [hn]; rfl⟩, h.streams, h.jobs, h.deferred, h.request, h.guard, h.notices, h.lost,
        h.noticed, h.holdClear, h.bits, fun _ e he => h.others (by simp) e he, ?_⟩
    intro x hx hr
    injection hx with hx
    subst hx
    exact absurd hr hw

/-- Two states that agree in all that an event's end looks at. -/
theorem near_of {u v : State} (h1 : v.cpl = u.cpl) (h2 : v.streams = u.streams) (h3 : v.write.jobs = u.write.jobs)
    (h4 : v.sequencer.deferred = u.sequencer.deferred) (h5 : v.engine.request = u.engine.request)
    (h6 : v.guard = u.guard) (h7 : v.events = u.events) : Near u v none :=
  ⟨by rw [h1], ⟨0, by rw [h1]; simp⟩, h2, h3, h4, h5, h6, by rw [h7], by rw [h7], by rw [h7], by rw [h7],
    fun e h => by unfold Raised; rw [h7]; exact h, fun _ e _ h => by unfold Raised at h; rw [h7] at h; exact h,
    fun x hx => by cases hx⟩

/-! ### A dispatch event -/

/-- The event bits once the head has left the queue (R11). -/
def roomEvents (s : State) : EventUnit :=
  { s.events with latched :=
      if (!cmdRoom s && cmdRoom { s with sequencer := { s.sequencer with queue := s.sequencer.queue.drop 1 } }) &&
          !s.events.holdClear then s.events.latched ||| 0x02 else s.events.latched }

/-- The state in which a dispatched command executes, written out. -/
theorem afterTake_eq (s : State) (f : CmdFrame) (c : Cmd) :
    afterTake s f c = { s with sequencer := takenSequencer s f c, events := roomEvents s } := by
  have hc : cmdRoom { s with sequencer := takenSequencer s f c } =
      cmdRoom { s with sequencer := { s.sequencer with queue := s.sequencer.queue.drop 1 } } := rfl
  unfold afterTake takeHead signalRoom raise roomEvents
  change (if (!cmdRoom s && cmdRoom { s with sequencer := takenSequencer s f c }) = true then _ else _) = _
  rw [hc]
  generalize (!cmdRoom s && cmdRoom { s with sequencer := { s.sequencer with queue := s.sequencer.queue.drop 1 } }) = b
  cases b
  · rfl
  · simp only [if_true]
    cases h : s.events.holdClear
    · simp [Event.bit, takenSequencer]
    · simp [takenSequencer]
      rw [← h]

theorem roomEvents_spec (s : State) :
    (roomEvents s).notices = s.events.notices ∧ (roomEvents s).lost = s.events.lost ∧
    (roomEvents s).fresh = s.events.fresh ∧ (roomEvents s).holdClear = s.events.holdClear ∧
    (roomEvents s).mask = s.events.mask ∧ RoomOnly s.events.latched (roomEvents s).latched := by
  refine ⟨rfl, rfl, rfl, rfl, rfl, ?_⟩
  unfold roomEvents
  dsimp only
  split
  · exact roomOnly_or _
  · exact RoomOnly.refl _

/-- A state left by a dispatched command, before its completion. -/
theorem near_taken {s u w : State} (hu : u.events = s.events) (he : w.events = roomEvents s) (h1 : w.cpl = u.cpl)
    (h2 : w.streams = u.streams) (h3 : w.write.jobs = u.write.jobs)
    (h4 : w.sequencer.deferred = u.sequencer.deferred) (h5 : w.engine.request = u.engine.request)
    (h6 : w.guard = u.guard) : Near u w none := by
  have k := roomEvents_spec s
  refine ⟨by rw [h1], ⟨0, by rw [h1]; simp⟩, h2, h3, h4, h5, h6, by rw [he, hu, k.1], by rw [he, hu, k.2.1],
    by rw [he, hu, k.2.2.1], by rw [he, hu, k.2.2.2.1], ?_, ?_, fun x hx => by cases hx⟩
  · intro e h; unfold Raised at *; rw [he]; rw [hu] at h; exact k.2.2.2.2.2.1 e h
  · intro _ e hne h; unfold Raised at *; rw [he] at h; rw [hu]; exact k.2.2.2.2.2.2 e hne h

/-- ROOM is pending after a dispatch from a full queue (R11). -/
theorem room_raised {s : State} (hr : dispatchReady s = true) (hq : s.sequencer.queue.length = 8)
    (ha : s.host.assembler = .idle) (hc : s.events.holdClear = false) :
    (roomEvents s).latched &&& Event.room.bit = Event.room.bit := by
  unfold dispatchReady nothingDue at hr
  simp only [Bool.and_eq_true, Bool.not_eq_true', Option.isNone_iff_eq_none] at hr
  have h1 : cmdRoom s = false := by unfold cmdRoom; simp [hq]
  have h2 : cmdRoom { s with sequencer := { s.sequencer with queue := s.sequencer.queue.drop 1 } } = true := by
    unfold cmdRoom
    simp [hq, ha, hr.1.1.2.1.1, hr.1.2]
  unfold roomEvents
  simp only [h1, h2, hc, Event.bit]
  ext i; simp; grind

/-- A dispatched command that completes in its dispatch event. -/
theorem taken_complete {s u w : State} {d : Dispatched} {o : Outcome} {x : Option Dispatched}
    (hr : dispatchReady s = true) (hu : u.events = s.events) (he : w.events = roomEvents s) (h1 : w.cpl = u.cpl)
    (h2 : w.streams = u.streams) (h3 : w.write.jobs = u.write.jobs)
    (h4 : w.sequencer.deferred = u.sequencer.deferred) (h5 : w.engine.request = u.engine.request)
    (h6 : w.guard = u.guard) (hh : w.held = { u.held.taken with dispatched := x }) :
    Taken s u (settle (choose (complete d o w))) none
      (some (completionOf d.tag d.opcode (cmdDetail d.cmd) d.abortLate o)) := by
  have n := near_taken hu he h1 h2 h3 h4 h5 h6
  have k := (n.complete d o).settled
  rw [(complete_spec d o w).1, hh] at k
  refine ⟨k, fun hq ha hc => ?_⟩
  have := room_raised hr hq ha hc
  rw [← he] at this
  exact (close_complete d o w w rfl).2.2.2.2.2 _ this

/-- A dispatched command that goes on, or defers, in its dispatch event. -/
theorem taken_goesOn {s u w : State} {p : Option Dispatched}
    (hr : dispatchReady s = true) (hu : u.events = s.events) (he : w.events = roomEvents s) (h1 : w.cpl = u.cpl)
    (h2 : w.streams = u.streams) (h3 : w.write.jobs = u.write.jobs)
    (h4 : w.sequencer.deferred = u.sequencer.deferred) (h5 : w.engine.request = u.engine.request)
    (h6 : w.guard = u.guard) (hh : w.held = { u.held.taken with dispatched := p }) :
    Taken s u (settle (choose w)) p none := by
  have k := (near_taken hu he h1 h2 h3 h4 h5 h6).settled
  rw [hh] at k
  refine ⟨k, fun hq ha hc => ?_⟩
  have := room_raised hr hq ha hc
  rw [← he] at this
  exact (close_spec w).bits _ this

end Sys2Proof.Machine
end

