-- ==== Sys2Proof/Laws/Duties.lean ====
section
/-!
SUPPORT. What the events due bring (R39, R76, R157, R159, R170, R171), and that nothing due changes nothing.
-/

namespace Sys2Proof.Machine

open Sys2Proof

theorem softTails_none {s : State} (h : tailsDue s = none) : softTails s = s := by unfold softTails; rw [h]

theorem goOnPlacing_none {s : State} (h : placingDue s = none) : goOnPlacing s = s := by unfold goOnPlacing; rw [h]

theorem takeEntry_none {s : State} (h : s.power.entryDue = none) : takeEntry s = s := by unfold takeEntry; rw [h]

/-- A soft reset that does not stand at its tails owes nothing of them. -/
theorem tailsDue_none {s : State} (h : s.power.soft ≠ some .judgeTails) (k : ∀ ns, s.power.soft ≠ some (.room ns)) :
    tailsDue s = none := by
  unfold tailsDue
  split
  · split
    · contradiction
    · rename_i ns e; exact absurd e (k ns)
    · rfl
  · rfl

/-- A state in which no COMMIT stands between two jobs of its record. -/
theorem placingDue_none {s : State} (h : ∀ d, s.sequencer.dispatched = some d → ∀ q r, d.phase ≠ .placing q r) :
    placingDue s = none := by
  unfold placingDue
  split
  · rename_i d e
    split
    · rename_i hp _; exact absurd hp (h d e _ _)
    · rfl
  · rfl

/-- Nothing due: the next internal event brings nothing of its own. -/
theorem due_none {s : State} (h : nothingDue s = true) : due s = s := by
  unfold nothingDue at h
  simp only [Bool.and_eq_true, Bool.not_eq_true', Option.isNone_iff_eq_none, decide_eq_true_eq] at h
  obtain ⟨⟨⟨⟨ha, hs⟩, ht⟩, hp⟩, he⟩ := h
  unfold due
  simp only [softTails_none ht, ha, Bool.false_eq_true, if_false, if_neg hs, goOnPlacing_none hp, takeEntry_none he,
    ite_self]

/-- An internal event with nothing due whose body defers no command. -/
theorem internalEvent_of {s : State} (h : nothingDue s = true) {body : State → State}
    (hd : (body s).sequencer.deferred.length ≤ s.sequencer.deferred.length) :
    internalEvent body s = settle (choose (body s)) := by
  have hs : hasDeferred s s = false := by simp [hasDeferred]
  have hb : hasDeferred s (body s) = false := by simpa [hasDeferred] using hd
  unfold internalEvent
  simp only [due_none h, hs, hb, Bool.or_self, Bool.false_eq_true, if_false]

/-- An internal event with nothing due whose body defers the DISPATCHED command (R30). -/
theorem internalEvent_deferred {s : State} (h : nothingDue s = true) {body : State → State}
    (hd : s.sequencer.deferred.length < (body s).sequencer.deferred.length) :
    internalEvent body s = settle (choose (dispatchFrames (body s))) := by
  have hb : hasDeferred s (body s) = true := by simpa [hasDeferred] using hd
  unfold internalEvent
  simp only [due_none h, hb, Bool.or_true, if_true]

/-- Steps 3 to 6 of Figure 2-2 for the DISPATCHED command and its completion. -/
theorem abortSteps_spec (s : State) :
    (abortSteps s).held = { s.held with
      dispatched := abortedDispatch s.sequencer.dispatched, arm := none, rsp := { bytes := [], index := 0 },
      staging := s.write.staging.filter (fun g => g.owned) } ∧
    SameWork s (abortSteps s) ∧ (abortSteps s).events = s.events ∧ (abortSteps s).guard = s.guard ∧
    (abortSteps s).engine = s.engine ∧ (abortSteps s).catalogue = s.catalogue ∧
    (abortSteps s).cpl.records = s.cpl.records ∧
    (∀ d, s.sequencer.dispatched = some d → waits d.phase = true →
      (0, completionOf d.tag d.opcode (cmdDetail d.cmd) d.abortLate { result := .aborted }) ∈
        (abortSteps s).cpl.fresh) := by
  have ha : ∀ d : Dispatched, complete d { result := .aborted } s =
      { s with
        sequencer := { s.sequencer with dispatched := none }
        cpl := { s.cpl with fresh := s.cpl.fresh ++
          [(0, completionOf d.tag d.opcode (cmdDetail d.cmd) d.abortLate { result := .aborted })] } } := fun _ => rfl
  unfold abortSteps
  simp only [ha]
  cases hd : s.sequencer.dispatched with
  | none =>
    refine ⟨?_, ⟨rfl, rfl, rfl⟩, rfl, rfl, rfl, rfl, rfl, fun d h => by cases h⟩
    simp [State.held, abortedDispatch, ResponseBuffer.empty, hd]
  | some d =>
    obtain ⟨id, tag, opcode, cmd, eager, late, phase⟩ := d
    cases phase <;>
      (refine ⟨?_, ⟨rfl, rfl, rfl⟩, rfl, rfl, rfl, rfl, rfl, ?_⟩
       · simp [State.held, abortedDispatch, ResponseBuffer.empty, waits]
       · intro e he hw
         injection he with he
         subst he
         simp [waits] at hw ⊢)

end Sys2Proof.Machine
end

