-- ==== Sys2Proof/Laws/State.lean ====
section
/-!
SUPPORT. The named updates of the state, field by field: what each writes, and that it leaves every other field alone. All
are true by `rfl` and simp lemmas, so that no proof unfolds an update.
-/

namespace Sys2Proof.Machine

open Sys2Proof

/-! ### What the updates write -/

@[simp] theorem setPhase_dispatched (d : Dispatched) (p : Phase) (s : State) :
    (setPhase d p s).sequencer.dispatched = some { d with phase := p } := rfl

@[simp] theorem setPhase_queue (d : Dispatched) (p : Phase) (s : State) :
    (setPhase d p s).sequencer.queue = s.sequencer.queue := rfl

@[simp] theorem setPhase_deferred (d : Dispatched) (p : Phase) (s : State) :
    (setPhase d p s).sequencer.deferred = s.sequencer.deferred := rfl

@[simp] theorem defer_dispatched (d : Dispatched) (k : DeferredKind) (s : State) :
    (defer d k s).sequencer.dispatched = none := rfl

@[simp] theorem defer_queue (d : Dispatched) (k : DeferredKind) (s : State) :
    (defer d k s).sequencer.queue = s.sequencer.queue := rfl

@[simp] theorem setStream_streams (n : Nat) (t : Stream) (s : State) :
    (setStream n t s).streams = s.streams.set n t := rfl

@[simp] theorem setSeg_pool (g : Nat) (e : SegEntry) (s : State) : (setSeg g e s).segments.pool = s.segments.pool := rfl

@[simp] theorem updSeg_pool (g : Nat) (f : SegEntry → SegEntry) (s : State) :
    (updSeg g f s).segments.pool = s.segments.pool := rfl

@[simp] theorem leavePool_map (g : Nat) (s : State) : (leavePool g s).segments.map = s.segments.map := rfl

@[simp] theorem leavePool_pool (g : Nat) (s : State) :
    (leavePool g s).segments.pool = s.segments.pool.filter (fun x => x ≠ g) := rfl

@[simp] theorem joinPool_map (g : Nat) (s : State) : (joinPool g s).segments.map = s.segments.map := rfl

@[simp] theorem joinPool_pool (g : Nat) (s : State) : (joinPool g s).segments.pool = s.segments.pool ++ [g] := rfl

@[simp] theorem emitJob_jobs (j : Job) (s : State) : (emitJob j s).write.jobs = s.write.jobs ++ [j] := rfl

@[simp] theorem emitJob_staging (j : Job) (s : State) : (emitJob j s).write.staging = s.write.staging := rfl

@[simp] theorem dropHead_jobs (s : State) : (dropHead s).write.jobs = s.write.jobs.drop 1 := rfl

@[simp] theorem requestVersion_queue (v : VersionFor) (s : State) :
    (requestVersion v s).catalogue.queue = s.catalogue.queue ++ [v] := rfl

@[simp] theorem requestVersion_work (v : VersionFor) (s : State) :
    (requestVersion v s).catalogue.work = s.catalogue.work.or (some (startWork (s.catalogue.queue.headD v) s)) := by
  have h : (s.catalogue.queue ++ [v]).head? = some (s.catalogue.queue.headD v) := by
    cases s.catalogue.queue <;> rfl
  show s.catalogue.work.or ((s.catalogue.queue ++ [v]).head?.map _) = _
  rw [h]
  rfl

@[simp] theorem handVersion_queue (s : State) : (handVersion s).catalogue.queue = s.catalogue.queue := rfl

@[simp] theorem handVersion_work (s : State) :
    (handVersion s).catalogue.work = s.catalogue.work.or (s.catalogue.queue.head?.map (fun v => startWork v s)) := rfl

@[simp] theorem listRetired_retired (g : Nat) (s : State) :
    (listRetired g s).catalogue.retired = s.catalogue.retired ++ [g] := rfl

@[simp] theorem listRetired_queue (g : Nat) (s : State) : (listRetired g s).catalogue.queue = s.catalogue.queue := rfl

@[simp] theorem requestRead_request (segment frame lo hi : Nat) (s : State) :
    (requestRead segment frame lo hi s).engine.request =
      some { who := .sequencer, op := .read segment frame lo hi } := rfl

@[simp] theorem requestRead_op (segment frame lo hi : Nat) (s : State) :
    (requestRead segment frame lo hi s).engine.op = s.engine.op := rfl

@[simp] theorem setReloc_reloc (r : Option Reloc) (s : State) : (setReloc r s).engine.reloc = r := rfl

@[simp] theorem setReloc_op (r : Option Reloc) (s : State) : (setReloc r s).engine.op = s.engine.op := rfl

@[simp] theorem setReloc_request (r : Option Reloc) (s : State) : (setReloc r s).engine.request = s.engine.request := rfl

@[simp] theorem engineIdle_op (s : State) : (engineIdle s).engine.op = none := rfl

@[simp] theorem engineIdle_reloc (s : State) : (engineIdle s).engine.reloc = s.engine.reloc := rfl

@[simp] theorem engineIdle_request (s : State) : (engineIdle s).engine.request = s.engine.request := rfl

@[simp] theorem noteProgram_lastFail (failed : Bool) (s : State) : (noteProgram failed s).engine.lastFail = failed := rfl

@[simp] theorem noteProgram_prevFail (failed : Bool) (s : State) :
    (noteProgram failed s).engine.prevFail = s.engine.lastFail := rfl

@[simp] theorem noteProgram_op (failed : Bool) (s : State) : (noteProgram failed s).engine.op = s.engine.op := rfl

@[simp] theorem wake_state (s : State) : (wake s).power.state = .awake (s.power.remembered.getD .ready) := rfl

@[simp] theorem drive_latch (b : Byte) (s : State) : (drive b s).host.latch = s.host.latch := rfl

/-! ### The Sequencer's updates: every other field -/

@[simp] theorem setPhase_host (d : Dispatched) (p : Phase) (s : State) : (setPhase d p s).host = s.host := rfl
@[simp] theorem setPhase_cpl (d : Dispatched) (p : Phase) (s : State) : (setPhase d p s).cpl = s.cpl := rfl
@[simp] theorem setPhase_rsp (d : Dispatched) (p : Phase) (s : State) : (setPhase d p s).rsp = s.rsp := rfl
@[simp] theorem setPhase_write (d : Dispatched) (p : Phase) (s : State) : (setPhase d p s).write = s.write := rfl
@[simp] theorem setPhase_engine (d : Dispatched) (p : Phase) (s : State) : (setPhase d p s).engine = s.engine := rfl
@[simp] theorem setPhase_catalogue (d : Dispatched) (p : Phase) (s : State) :
    (setPhase d p s).catalogue = s.catalogue := rfl
@[simp] theorem setPhase_segments (d : Dispatched) (p : Phase) (s : State) :
    (setPhase d p s).segments = s.segments := rfl
@[simp] theorem setPhase_streams (d : Dispatched) (p : Phase) (s : State) : (setPhase d p s).streams = s.streams := rfl
@[simp] theorem setPhase_guard (d : Dispatched) (p : Phase) (s : State) : (setPhase d p s).guard = s.guard := rfl
@[simp] theorem setPhase_vault (d : Dispatched) (p : Phase) (s : State) : (setPhase d p s).vault = s.vault := rfl
@[simp] theorem setPhase_time (d : Dispatched) (p : Phase) (s : State) : (setPhase d p s).time = s.time := rfl
@[simp] theorem setPhase_events (d : Dispatched) (p : Phase) (s : State) : (setPhase d p s).events = s.events := rfl
@[simp] theorem setPhase_power (d : Dispatched) (p : Phase) (s : State) : (setPhase d p s).power = s.power := rfl
@[simp] theorem setPhase_options (d : Dispatched) (p : Phase) (s : State) : (setPhase d p s).options = s.options := rfl
@[simp] theorem setPhase_pins (d : Dispatched) (p : Phase) (s : State) : (setPhase d p s).pins = s.pins := rfl
@[simp] theorem setPhase_medium (d : Dispatched) (p : Phase) (s : State) : (setPhase d p s).medium = s.medium := rfl
@[simp] theorem setPhase_pending (d : Dispatched) (p : Phase) (s : State) : (setPhase d p s).pending = s.pending := rfl
@[simp] theorem defer_host (d : Dispatched) (k : DeferredKind) (s : State) : (defer d k s).host = s.host := rfl
@[simp] theorem defer_cpl (d : Dispatched) (k : DeferredKind) (s : State) : (defer d k s).cpl = s.cpl := rfl
@[simp] theorem defer_rsp (d : Dispatched) (k : DeferredKind) (s : State) : (defer d k s).rsp = s.rsp := rfl
@[simp] theorem defer_write (d : Dispatched) (k : DeferredKind) (s : State) : (defer d k s).write = s.write := rfl
@[simp] theorem defer_engine (d : Dispatched) (k : DeferredKind) (s : State) : (defer d k s).engine = s.engine := rfl
@[simp] theorem defer_catalogue (d : Dispatched) (k : DeferredKind) (s : State) :
    (defer d k s).catalogue = s.catalogue := rfl
@[simp] theorem defer_segments (d : Dispatched) (k : DeferredKind) (s : State) :
    (defer d k s).segments = s.segments := rfl
@[simp] theorem defer_streams (d : Dispatched) (k : DeferredKind) (s : State) :
    (defer d k s).streams = s.streams := rfl
@[simp] theorem defer_guard (d : Dispatched) (k : DeferredKind) (s : State) : (defer d k s).guard = s.guard := rfl
@[simp] theorem defer_vault (d : Dispatched) (k : DeferredKind) (s : State) : (defer d k s).vault = s.vault := rfl
@[simp] theorem defer_time (d : Dispatched) (k : DeferredKind) (s : State) : (defer d k s).time = s.time := rfl
@[simp] theorem defer_events (d : Dispatched) (k : DeferredKind) (s : State) : (defer d k s).events = s.events := rfl
@[simp] theorem defer_power (d : Dispatched) (k : DeferredKind) (s : State) : (defer d k s).power = s.power := rfl
@[simp] theorem defer_options (d : Dispatched) (k : DeferredKind) (s : State) :
    (defer d k s).options = s.options := rfl
@[simp] theorem defer_pins (d : Dispatched) (k : DeferredKind) (s : State) : (defer d k s).pins = s.pins := rfl
@[simp] theorem defer_medium (d : Dispatched) (k : DeferredKind) (s : State) : (defer d k s).medium = s.medium := rfl
@[simp] theorem defer_pending (d : Dispatched) (k : DeferredKind) (s : State) :
    (defer d k s).pending = s.pending := rfl

/-! ### The Stream Table, the Segment Map and the Free Pool: every other field -/

@[simp] theorem setStream_host (n : Nat) (t : Stream) (s : State) : (setStream n t s).host = s.host := rfl
@[simp] theorem setStream_sequencer (n : Nat) (t : Stream) (s : State) :
    (setStream n t s).sequencer = s.sequencer := rfl
@[simp] theorem setStream_cpl (n : Nat) (t : Stream) (s : State) : (setStream n t s).cpl = s.cpl := rfl
@[simp] theorem setStream_rsp (n : Nat) (t : Stream) (s : State) : (setStream n t s).rsp = s.rsp := rfl
@[simp] theorem setStream_write (n : Nat) (t : Stream) (s : State) : (setStream n t s).write = s.write := rfl
@[simp] theorem setStream_engine (n : Nat) (t : Stream) (s : State) : (setStream n t s).engine = s.engine := rfl
@[simp] theorem setStream_catalogue (n : Nat) (t : Stream) (s : State) :
    (setStream n t s).catalogue = s.catalogue := rfl
@[simp] theorem setStream_segments (n : Nat) (t : Stream) (s : State) : (setStream n t s).segments = s.segments := rfl
@[simp] theorem setStream_guard (n : Nat) (t : Stream) (s : State) : (setStream n t s).guard = s.guard := rfl
@[simp] theorem setStream_vault (n : Nat) (t : Stream) (s : State) : (setStream n t s).vault = s.vault := rfl
@[simp] theorem setStream_time (n : Nat) (t : Stream) (s : State) : (setStream n t s).time = s.time := rfl
@[simp] theorem setStream_events (n : Nat) (t : Stream) (s : State) : (setStream n t s).events = s.events := rfl
@[simp] theorem setStream_power (n : Nat) (t : Stream) (s : State) : (setStream n t s).power = s.power := rfl
@[simp] theorem setStream_options (n : Nat) (t : Stream) (s : State) : (setStream n t s).options = s.options := rfl
@[simp] theorem setStream_pins (n : Nat) (t : Stream) (s : State) : (setStream n t s).pins = s.pins := rfl
@[simp] theorem setStream_medium (n : Nat) (t : Stream) (s : State) : (setStream n t s).medium = s.medium := rfl
@[simp] theorem setStream_pending (n : Nat) (t : Stream) (s : State) : (setStream n t s).pending = s.pending := rfl
@[simp] theorem updStream_host (n : Nat) (f : Stream → Stream) (s : State) : (updStream n f s).host = s.host := rfl
@[simp] theorem updStream_sequencer (n : Nat) (f : Stream → Stream) (s : State) :
    (updStream n f s).sequencer = s.sequencer := rfl
@[simp] theorem updStream_cpl (n : Nat) (f : Stream → Stream) (s : State) : (updStream n f s).cpl = s.cpl := rfl
@[simp] theorem updStream_rsp (n : Nat) (f : Stream → Stream) (s : State) : (updStream n f s).rsp = s.rsp := rfl
@[simp] theorem updStream_write (n : Nat) (f : Stream → Stream) (s : State) : (updStream n f s).write = s.write := rfl
@[simp] theorem updStream_engine (n : Nat) (f : Stream → Stream) (s : State) :
    (updStream n f s).engine = s.engine := rfl
@[simp] theorem updStream_catalogue (n : Nat) (f : Stream → Stream) (s : State) :
    (updStream n f s).catalogue = s.catalogue := rfl
@[simp] theorem updStream_segments (n : Nat) (f : Stream → Stream) (s : State) :
    (updStream n f s).segments = s.segments := rfl
@[simp] theorem updStream_guard (n : Nat) (f : Stream → Stream) (s : State) : (updStream n f s).guard = s.guard := rfl
@[simp] theorem updStream_vault (n : Nat) (f : Stream → Stream) (s : State) : (updStream n f s).vault = s.vault := rfl
@[simp] theorem updStream_time (n : Nat) (f : Stream → Stream) (s : State) : (updStream n f s).time = s.time := rfl
@[simp] theorem updStream_events (n : Nat) (f : Stream → Stream) (s : State) :
    (updStream n f s).events = s.events := rfl
@[simp] theorem updStream_power (n : Nat) (f : Stream → Stream) (s : State) : (updStream n f s).power = s.power := rfl
@[simp] theorem updStream_options (n : Nat) (f : Stream → Stream) (s : State) :
    (updStream n f s).options = s.options := rfl
@[simp] theorem updStream_pins (n : Nat) (f : Stream → Stream) (s : State) : (updStream n f s).pins = s.pins := rfl
@[simp] theorem updStream_medium (n : Nat) (f : Stream → Stream) (s : State) :
    (updStream n f s).medium = s.medium := rfl
@[simp] theorem updStream_pending (n : Nat) (f : Stream → Stream) (s : State) :
    (updStream n f s).pending = s.pending := rfl
@[simp] theorem setSeg_host (g : Nat) (e : SegEntry) (s : State) : (setSeg g e s).host = s.host := rfl
@[simp] theorem setSeg_sequencer (g : Nat) (e : SegEntry) (s : State) : (setSeg g e s).sequencer = s.sequencer := rfl
@[simp] theorem setSeg_cpl (g : Nat) (e : SegEntry) (s : State) : (setSeg g e s).cpl = s.cpl := rfl
@[simp] theorem setSeg_rsp (g : Nat) (e : SegEntry) (s : State) : (setSeg g e s).rsp = s.rsp := rfl
@[simp] theorem setSeg_write (g : Nat) (e : SegEntry) (s : State) : (setSeg g e s).write = s.write := rfl
@[simp] theorem setSeg_engine (g : Nat) (e : SegEntry) (s : State) : (setSeg g e s).engine = s.engine := rfl
@[simp] theorem setSeg_catalogue (g : Nat) (e : SegEntry) (s : State) : (setSeg g e s).catalogue = s.catalogue := rfl
@[simp] theorem setSeg_streams (g : Nat) (e : SegEntry) (s : State) : (setSeg g e s).streams = s.streams := rfl
@[simp] theorem setSeg_guard (g : Nat) (e : SegEntry) (s : State) : (setSeg g e s).guard = s.guard := rfl
@[simp] theorem setSeg_vault (g : Nat) (e : SegEntry) (s : State) : (setSeg g e s).vault = s.vault := rfl
@[simp] theorem setSeg_time (g : Nat) (e : SegEntry) (s : State) : (setSeg g e s).time = s.time := rfl
@[simp] theorem setSeg_events (g : Nat) (e : SegEntry) (s : State) : (setSeg g e s).events = s.events := rfl
@[simp] theorem setSeg_power (g : Nat) (e : SegEntry) (s : State) : (setSeg g e s).power = s.power := rfl
@[simp] theorem setSeg_options (g : Nat) (e : SegEntry) (s : State) : (setSeg g e s).options = s.options := rfl
@[simp] theorem setSeg_pins (g : Nat) (e : SegEntry) (s : State) : (setSeg g e s).pins = s.pins := rfl
@[simp] theorem setSeg_medium (g : Nat) (e : SegEntry) (s : State) : (setSeg g e s).medium = s.medium := rfl
@[simp] theorem setSeg_pending (g : Nat) (e : SegEntry) (s : State) : (setSeg g e s).pending = s.pending := rfl
@[simp] theorem updSeg_host (g : Nat) (f : SegEntry → SegEntry) (s : State) : (updSeg g f s).host = s.host := rfl
@[simp] theorem updSeg_sequencer (g : Nat) (f : SegEntry → SegEntry) (s : State) :
    (updSeg g f s).sequencer = s.sequencer := rfl
@[simp] theorem updSeg_cpl (g : Nat) (f : SegEntry → SegEntry) (s : State) : (updSeg g f s).cpl = s.cpl := rfl
@[simp] theorem updSeg_rsp (g : Nat) (f : SegEntry → SegEntry) (s : State) : (updSeg g f s).rsp = s.rsp := rfl
@[simp] theorem updSeg_write (g : Nat) (f : SegEntry → SegEntry) (s : State) : (updSeg g f s).write = s.write := rfl
@[simp] theorem updSeg_engine (g : Nat) (f : SegEntry → SegEntry) (s : State) : (updSeg g f s).engine = s.engine := rfl
@[simp] theorem updSeg_catalogue (g : Nat) (f : SegEntry → SegEntry) (s : State) :
    (updSeg g f s).catalogue = s.catalogue := rfl
@[simp] theorem updSeg_streams (g : Nat) (f : SegEntry → SegEntry) (s : State) :
    (updSeg g f s).streams = s.streams := rfl
@[simp] theorem updSeg_guard (g : Nat) (f : SegEntry → SegEntry) (s : State) : (updSeg g f s).guard = s.guard := rfl
@[simp] theorem updSeg_vault (g : Nat) (f : SegEntry → SegEntry) (s : State) : (updSeg g f s).vault = s.vault := rfl
@[simp] theorem updSeg_time (g : Nat) (f : SegEntry → SegEntry) (s : State) : (updSeg g f s).time = s.time := rfl
@[simp] theorem updSeg_events (g : Nat) (f : SegEntry → SegEntry) (s : State) : (updSeg g f s).events = s.events := rfl
@[simp] theorem updSeg_power (g : Nat) (f : SegEntry → SegEntry) (s : State) : (updSeg g f s).power = s.power := rfl
@[simp] theorem updSeg_options (g : Nat) (f : SegEntry → SegEntry) (s : State) :
    (updSeg g f s).options = s.options := rfl
@[simp] theorem updSeg_pins (g : Nat) (f : SegEntry → SegEntry) (s : State) : (updSeg g f s).pins = s.pins := rfl
@[simp] theorem updSeg_medium (g : Nat) (f : SegEntry → SegEntry) (s : State) : (updSeg g f s).medium = s.medium := rfl
@[simp] theorem updSeg_pending (g : Nat) (f : SegEntry → SegEntry) (s : State) :
    (updSeg g f s).pending = s.pending := rfl
@[simp] theorem leavePool_host (g : Nat) (s : State) : (leavePool g s).host = s.host := rfl
@[simp] theorem leavePool_sequencer (g : Nat) (s : State) : (leavePool g s).sequencer = s.sequencer := rfl
@[simp] theorem leavePool_cpl (g : Nat) (s : State) : (leavePool g s).cpl = s.cpl := rfl
@[simp] theorem leavePool_rsp (g : Nat) (s : State) : (leavePool g s).rsp = s.rsp := rfl
@[simp] theorem leavePool_write (g : Nat) (s : State) : (leavePool g s).write = s.write := rfl
@[simp] theorem leavePool_engine (g : Nat) (s : State) : (leavePool g s).engine = s.engine := rfl
@[simp] theorem leavePool_catalogue (g : Nat) (s : State) : (leavePool g s).catalogue = s.catalogue := rfl
@[simp] theorem leavePool_streams (g : Nat) (s : State) : (leavePool g s).streams = s.streams := rfl
@[simp] theorem leavePool_guard (g : Nat) (s : State) : (leavePool g s).guard = s.guard := rfl
@[simp] theorem leavePool_vault (g : Nat) (s : State) : (leavePool g s).vault = s.vault := rfl
@[simp] theorem leavePool_time (g : Nat) (s : State) : (leavePool g s).time = s.time := rfl
@[simp] theorem leavePool_events (g : Nat) (s : State) : (leavePool g s).events = s.events := rfl
@[simp] theorem leavePool_power (g : Nat) (s : State) : (leavePool g s).power = s.power := rfl
@[simp] theorem leavePool_options (g : Nat) (s : State) : (leavePool g s).options = s.options := rfl
@[simp] theorem leavePool_pins (g : Nat) (s : State) : (leavePool g s).pins = s.pins := rfl
@[simp] theorem leavePool_medium (g : Nat) (s : State) : (leavePool g s).medium = s.medium := rfl
@[simp] theorem leavePool_pending (g : Nat) (s : State) : (leavePool g s).pending = s.pending := rfl
@[simp] theorem joinPool_host (g : Nat) (s : State) : (joinPool g s).host = s.host := rfl
@[simp] theorem joinPool_sequencer (g : Nat) (s : State) : (joinPool g s).sequencer = s.sequencer := rfl
@[simp] theorem joinPool_cpl (g : Nat) (s : State) : (joinPool g s).cpl = s.cpl := rfl
@[simp] theorem joinPool_rsp (g : Nat) (s : State) : (joinPool g s).rsp = s.rsp := rfl
@[simp] theorem joinPool_write (g : Nat) (s : State) : (joinPool g s).write = s.write := rfl
@[simp] theorem joinPool_engine (g : Nat) (s : State) : (joinPool g s).engine = s.engine := rfl
@[simp] theorem joinPool_catalogue (g : Nat) (s : State) : (joinPool g s).catalogue = s.catalogue := rfl
@[simp] theorem joinPool_streams (g : Nat) (s : State) : (joinPool g s).streams = s.streams := rfl
@[simp] theorem joinPool_guard (g : Nat) (s : State) : (joinPool g s).guard = s.guard := rfl
@[simp] theorem joinPool_vault (g : Nat) (s : State) : (joinPool g s).vault = s.vault := rfl
@[simp] theorem joinPool_time (g : Nat) (s : State) : (joinPool g s).time = s.time := rfl
@[simp] theorem joinPool_events (g : Nat) (s : State) : (joinPool g s).events = s.events := rfl
@[simp] theorem joinPool_power (g : Nat) (s : State) : (joinPool g s).power = s.power := rfl
@[simp] theorem joinPool_options (g : Nat) (s : State) : (joinPool g s).options = s.options := rfl
@[simp] theorem joinPool_pins (g : Nat) (s : State) : (joinPool g s).pins = s.pins := rfl
@[simp] theorem joinPool_medium (g : Nat) (s : State) : (joinPool g s).medium = s.medium := rfl
@[simp] theorem joinPool_pending (g : Nat) (s : State) : (joinPool g s).pending = s.pending := rfl
@[simp] theorem releaseSegment_host (g : Nat) (s : State) : (releaseSegment g s).host = s.host := rfl
@[simp] theorem releaseSegment_sequencer (g : Nat) (s : State) : (releaseSegment g s).sequencer = s.sequencer := rfl
@[simp] theorem releaseSegment_cpl (g : Nat) (s : State) : (releaseSegment g s).cpl = s.cpl := rfl
@[simp] theorem releaseSegment_rsp (g : Nat) (s : State) : (releaseSegment g s).rsp = s.rsp := rfl
@[simp] theorem releaseSegment_write (g : Nat) (s : State) : (releaseSegment g s).write = s.write := rfl
@[simp] theorem releaseSegment_engine (g : Nat) (s : State) : (releaseSegment g s).engine = s.engine := rfl
@[simp] theorem releaseSegment_catalogue (g : Nat) (s : State) : (releaseSegment g s).catalogue = s.catalogue := rfl
@[simp] theorem releaseSegment_streams (g : Nat) (s : State) : (releaseSegment g s).streams = s.streams := rfl
@[simp] theorem releaseSegment_guard (g : Nat) (s : State) : (releaseSegment g s).guard = s.guard := rfl
@[simp] theorem releaseSegment_vault (g : Nat) (s : State) : (releaseSegment g s).vault = s.vault := rfl
@[simp] theorem releaseSegment_time (g : Nat) (s : State) : (releaseSegment g s).time = s.time := rfl
@[simp] theorem releaseSegment_events (g : Nat) (s : State) : (releaseSegment g s).events = s.events := rfl
@[simp] theorem releaseSegment_power (g : Nat) (s : State) : (releaseSegment g s).power = s.power := rfl
@[simp] theorem releaseSegment_options (g : Nat) (s : State) : (releaseSegment g s).options = s.options := rfl
@[simp] theorem releaseSegment_pins (g : Nat) (s : State) : (releaseSegment g s).pins = s.pins := rfl
@[simp] theorem releaseSegment_medium (g : Nat) (s : State) : (releaseSegment g s).medium = s.medium := rfl
@[simp] theorem releaseSegment_pending (g : Nat) (s : State) : (releaseSegment g s).pending = s.pending := rfl
@[simp] theorem takeSegment_host (g : Nat) (s : State) : (takeSegment g s).host = s.host := rfl
@[simp] theorem takeSegment_sequencer (g : Nat) (s : State) : (takeSegment g s).sequencer = s.sequencer := rfl
@[simp] theorem takeSegment_cpl (g : Nat) (s : State) : (takeSegment g s).cpl = s.cpl := rfl
@[simp] theorem takeSegment_rsp (g : Nat) (s : State) : (takeSegment g s).rsp = s.rsp := rfl
@[simp] theorem takeSegment_write (g : Nat) (s : State) : (takeSegment g s).write = s.write := rfl
@[simp] theorem takeSegment_engine (g : Nat) (s : State) : (takeSegment g s).engine = s.engine := rfl
@[simp] theorem takeSegment_catalogue (g : Nat) (s : State) : (takeSegment g s).catalogue = s.catalogue := rfl
@[simp] theorem takeSegment_streams (g : Nat) (s : State) : (takeSegment g s).streams = s.streams := rfl
@[simp] theorem takeSegment_guard (g : Nat) (s : State) : (takeSegment g s).guard = s.guard := rfl
@[simp] theorem takeSegment_vault (g : Nat) (s : State) : (takeSegment g s).vault = s.vault := rfl
@[simp] theorem takeSegment_time (g : Nat) (s : State) : (takeSegment g s).time = s.time := rfl
@[simp] theorem takeSegment_events (g : Nat) (s : State) : (takeSegment g s).events = s.events := rfl
@[simp] theorem takeSegment_power (g : Nat) (s : State) : (takeSegment g s).power = s.power := rfl
@[simp] theorem takeSegment_options (g : Nat) (s : State) : (takeSegment g s).options = s.options := rfl
@[simp] theorem takeSegment_pins (g : Nat) (s : State) : (takeSegment g s).pins = s.pins := rfl
@[simp] theorem takeSegment_medium (g : Nat) (s : State) : (takeSegment g s).medium = s.medium := rfl
@[simp] theorem takeSegment_pending (g : Nat) (s : State) : (takeSegment g s).pending = s.pending := rfl

/-! ### Jobs, versions and requests: every other field -/

@[simp] theorem emitJob_host (j : Job) (s : State) : (emitJob j s).host = s.host := rfl
@[simp] theorem emitJob_sequencer (j : Job) (s : State) : (emitJob j s).sequencer = s.sequencer := rfl
@[simp] theorem emitJob_cpl (j : Job) (s : State) : (emitJob j s).cpl = s.cpl := rfl
@[simp] theorem emitJob_rsp (j : Job) (s : State) : (emitJob j s).rsp = s.rsp := rfl
@[simp] theorem emitJob_engine (j : Job) (s : State) : (emitJob j s).engine = s.engine := rfl
@[simp] theorem emitJob_catalogue (j : Job) (s : State) : (emitJob j s).catalogue = s.catalogue := rfl
@[simp] theorem emitJob_segments (j : Job) (s : State) : (emitJob j s).segments = s.segments := rfl
@[simp] theorem emitJob_streams (j : Job) (s : State) : (emitJob j s).streams = s.streams := rfl
@[simp] theorem emitJob_guard (j : Job) (s : State) : (emitJob j s).guard = s.guard := rfl
@[simp] theorem emitJob_vault (j : Job) (s : State) : (emitJob j s).vault = s.vault := rfl
@[simp] theorem emitJob_time (j : Job) (s : State) : (emitJob j s).time = s.time := rfl
@[simp] theorem emitJob_events (j : Job) (s : State) : (emitJob j s).events = s.events := rfl
@[simp] theorem emitJob_power (j : Job) (s : State) : (emitJob j s).power = s.power := rfl
@[simp] theorem emitJob_options (j : Job) (s : State) : (emitJob j s).options = s.options := rfl
@[simp] theorem emitJob_pins (j : Job) (s : State) : (emitJob j s).pins = s.pins := rfl
@[simp] theorem emitJob_medium (j : Job) (s : State) : (emitJob j s).medium = s.medium := rfl
@[simp] theorem emitJob_pending (j : Job) (s : State) : (emitJob j s).pending = s.pending := rfl
@[simp] theorem nameAll_host (id : Nat) (s : State) : (nameAll id s).host = s.host := rfl
@[simp] theorem nameAll_sequencer (id : Nat) (s : State) : (nameAll id s).sequencer = s.sequencer := rfl
@[simp] theorem nameAll_cpl (id : Nat) (s : State) : (nameAll id s).cpl = s.cpl := rfl
@[simp] theorem nameAll_rsp (id : Nat) (s : State) : (nameAll id s).rsp = s.rsp := rfl
@[simp] theorem nameAll_engine (id : Nat) (s : State) : (nameAll id s).engine = s.engine := rfl
@[simp] theorem nameAll_catalogue (id : Nat) (s : State) : (nameAll id s).catalogue = s.catalogue := rfl
@[simp] theorem nameAll_segments (id : Nat) (s : State) : (nameAll id s).segments = s.segments := rfl
@[simp] theorem nameAll_streams (id : Nat) (s : State) : (nameAll id s).streams = s.streams := rfl
@[simp] theorem nameAll_guard (id : Nat) (s : State) : (nameAll id s).guard = s.guard := rfl
@[simp] theorem nameAll_vault (id : Nat) (s : State) : (nameAll id s).vault = s.vault := rfl
@[simp] theorem nameAll_time (id : Nat) (s : State) : (nameAll id s).time = s.time := rfl
@[simp] theorem nameAll_events (id : Nat) (s : State) : (nameAll id s).events = s.events := rfl
@[simp] theorem nameAll_power (id : Nat) (s : State) : (nameAll id s).power = s.power := rfl
@[simp] theorem nameAll_options (id : Nat) (s : State) : (nameAll id s).options = s.options := rfl
@[simp] theorem nameAll_pins (id : Nat) (s : State) : (nameAll id s).pins = s.pins := rfl
@[simp] theorem nameAll_medium (id : Nat) (s : State) : (nameAll id s).medium = s.medium := rfl
@[simp] theorem nameAll_pending (id : Nat) (s : State) : (nameAll id s).pending = s.pending := rfl
@[simp] theorem spoilNamed_host (jobs : List Job) (s : State) : (spoilNamed jobs s).host = s.host := rfl
@[simp] theorem spoilNamed_cpl (jobs : List Job) (s : State) : (spoilNamed jobs s).cpl = s.cpl := rfl
@[simp] theorem spoilNamed_rsp (jobs : List Job) (s : State) : (spoilNamed jobs s).rsp = s.rsp := rfl
@[simp] theorem spoilNamed_write (jobs : List Job) (s : State) : (spoilNamed jobs s).write = s.write := rfl
@[simp] theorem spoilNamed_engine (jobs : List Job) (s : State) : (spoilNamed jobs s).engine = s.engine := rfl
@[simp] theorem spoilNamed_catalogue (jobs : List Job) (s : State) : (spoilNamed jobs s).catalogue = s.catalogue := rfl
@[simp] theorem spoilNamed_segments (jobs : List Job) (s : State) : (spoilNamed jobs s).segments = s.segments := rfl
@[simp] theorem spoilNamed_streams (jobs : List Job) (s : State) : (spoilNamed jobs s).streams = s.streams := rfl
@[simp] theorem spoilNamed_guard (jobs : List Job) (s : State) : (spoilNamed jobs s).guard = s.guard := rfl
@[simp] theorem spoilNamed_vault (jobs : List Job) (s : State) : (spoilNamed jobs s).vault = s.vault := rfl
@[simp] theorem spoilNamed_time (jobs : List Job) (s : State) : (spoilNamed jobs s).time = s.time := rfl
@[simp] theorem spoilNamed_events (jobs : List Job) (s : State) : (spoilNamed jobs s).events = s.events := rfl
@[simp] theorem spoilNamed_power (jobs : List Job) (s : State) : (spoilNamed jobs s).power = s.power := rfl
@[simp] theorem spoilNamed_options (jobs : List Job) (s : State) : (spoilNamed jobs s).options = s.options := rfl
@[simp] theorem spoilNamed_pins (jobs : List Job) (s : State) : (spoilNamed jobs s).pins = s.pins := rfl
@[simp] theorem spoilNamed_medium (jobs : List Job) (s : State) : (spoilNamed jobs s).medium = s.medium := rfl
@[simp] theorem spoilNamed_pending (jobs : List Job) (s : State) : (spoilNamed jobs s).pending = s.pending := rfl
@[simp] theorem dropHead_host (s : State) : (dropHead s).host = s.host := rfl
@[simp] theorem dropHead_sequencer (s : State) : (dropHead s).sequencer = s.sequencer := rfl
@[simp] theorem dropHead_cpl (s : State) : (dropHead s).cpl = s.cpl := rfl
@[simp] theorem dropHead_rsp (s : State) : (dropHead s).rsp = s.rsp := rfl
@[simp] theorem dropHead_engine (s : State) : (dropHead s).engine = s.engine := rfl
@[simp] theorem dropHead_catalogue (s : State) : (dropHead s).catalogue = s.catalogue := rfl
@[simp] theorem dropHead_segments (s : State) : (dropHead s).segments = s.segments := rfl
@[simp] theorem dropHead_streams (s : State) : (dropHead s).streams = s.streams := rfl
@[simp] theorem dropHead_guard (s : State) : (dropHead s).guard = s.guard := rfl
@[simp] theorem dropHead_vault (s : State) : (dropHead s).vault = s.vault := rfl
@[simp] theorem dropHead_time (s : State) : (dropHead s).time = s.time := rfl
@[simp] theorem dropHead_events (s : State) : (dropHead s).events = s.events := rfl
@[simp] theorem dropHead_power (s : State) : (dropHead s).power = s.power := rfl
@[simp] theorem dropHead_options (s : State) : (dropHead s).options = s.options := rfl
@[simp] theorem dropHead_pins (s : State) : (dropHead s).pins = s.pins := rfl
@[simp] theorem dropHead_medium (s : State) : (dropHead s).medium = s.medium := rfl
@[simp] theorem dropHead_pending (s : State) : (dropHead s).pending = s.pending := rfl
@[simp] theorem requestVersion_host (v : VersionFor) (s : State) : (requestVersion v s).host = s.host := rfl
@[simp] theorem requestVersion_sequencer (v : VersionFor) (s : State) :
    (requestVersion v s).sequencer = s.sequencer := rfl
@[simp] theorem requestVersion_cpl (v : VersionFor) (s : State) : (requestVersion v s).cpl = s.cpl := rfl
@[simp] theorem requestVersion_rsp (v : VersionFor) (s : State) : (requestVersion v s).rsp = s.rsp := rfl
@[simp] theorem requestVersion_write (v : VersionFor) (s : State) : (requestVersion v s).write = s.write := rfl
@[simp] theorem requestVersion_engine (v : VersionFor) (s : State) : (requestVersion v s).engine = s.engine := rfl
@[simp] theorem requestVersion_segments (v : VersionFor) (s : State) :
    (requestVersion v s).segments = s.segments := rfl
@[simp] theorem requestVersion_streams (v : VersionFor) (s : State) : (requestVersion v s).streams = s.streams := rfl
@[simp] theorem requestVersion_guard (v : VersionFor) (s : State) : (requestVersion v s).guard = s.guard := rfl
@[simp] theorem requestVersion_vault (v : VersionFor) (s : State) : (requestVersion v s).vault = s.vault := rfl
@[simp] theorem requestVersion_time (v : VersionFor) (s : State) : (requestVersion v s).time = s.time := rfl
@[simp] theorem requestVersion_events (v : VersionFor) (s : State) : (requestVersion v s).events = s.events := rfl
@[simp] theorem requestVersion_power (v : VersionFor) (s : State) : (requestVersion v s).power = s.power := rfl
@[simp] theorem requestVersion_options (v : VersionFor) (s : State) : (requestVersion v s).options = s.options := rfl
@[simp] theorem requestVersion_pins (v : VersionFor) (s : State) : (requestVersion v s).pins = s.pins := rfl
@[simp] theorem requestVersion_medium (v : VersionFor) (s : State) : (requestVersion v s).medium = s.medium := rfl
@[simp] theorem requestVersion_pending (v : VersionFor) (s : State) : (requestVersion v s).pending = s.pending := rfl
@[simp] theorem handVersion_host (s : State) : (handVersion s).host = s.host := rfl
@[simp] theorem handVersion_sequencer (s : State) :
    (handVersion s).sequencer = s.sequencer := rfl
@[simp] theorem handVersion_cpl (s : State) : (handVersion s).cpl = s.cpl := rfl
@[simp] theorem handVersion_rsp (s : State) : (handVersion s).rsp = s.rsp := rfl
@[simp] theorem handVersion_write (s : State) : (handVersion s).write = s.write := rfl
@[simp] theorem handVersion_engine (s : State) : (handVersion s).engine = s.engine := rfl
@[simp] theorem handVersion_segments (s : State) :
    (handVersion s).segments = s.segments := rfl
@[simp] theorem handVersion_streams (s : State) : (handVersion s).streams = s.streams := rfl
@[simp] theorem handVersion_guard (s : State) : (handVersion s).guard = s.guard := rfl
@[simp] theorem handVersion_vault (s : State) : (handVersion s).vault = s.vault := rfl
@[simp] theorem handVersion_time (s : State) : (handVersion s).time = s.time := rfl
@[simp] theorem handVersion_events (s : State) : (handVersion s).events = s.events := rfl
@[simp] theorem handVersion_power (s : State) : (handVersion s).power = s.power := rfl
@[simp] theorem handVersion_options (s : State) : (handVersion s).options = s.options := rfl
@[simp] theorem handVersion_pins (s : State) : (handVersion s).pins = s.pins := rfl
@[simp] theorem handVersion_medium (s : State) : (handVersion s).medium = s.medium := rfl
@[simp] theorem handVersion_pending (s : State) : (handVersion s).pending = s.pending := rfl
@[simp] theorem listRetired_host (g : Nat) (s : State) : (listRetired g s).host = s.host := rfl
@[simp] theorem listRetired_sequencer (g : Nat) (s : State) : (listRetired g s).sequencer = s.sequencer := rfl
@[simp] theorem listRetired_cpl (g : Nat) (s : State) : (listRetired g s).cpl = s.cpl := rfl
@[simp] theorem listRetired_rsp (g : Nat) (s : State) : (listRetired g s).rsp = s.rsp := rfl
@[simp] theorem listRetired_write (g : Nat) (s : State) : (listRetired g s).write = s.write := rfl
@[simp] theorem listRetired_engine (g : Nat) (s : State) : (listRetired g s).engine = s.engine := rfl
@[simp] theorem listRetired_segments (g : Nat) (s : State) : (listRetired g s).segments = s.segments := rfl
@[simp] theorem listRetired_streams (g : Nat) (s : State) : (listRetired g s).streams = s.streams := rfl
@[simp] theorem listRetired_guard (g : Nat) (s : State) : (listRetired g s).guard = s.guard := rfl
@[simp] theorem listRetired_vault (g : Nat) (s : State) : (listRetired g s).vault = s.vault := rfl
@[simp] theorem listRetired_time (g : Nat) (s : State) : (listRetired g s).time = s.time := rfl
@[simp] theorem listRetired_events (g : Nat) (s : State) : (listRetired g s).events = s.events := rfl
@[simp] theorem listRetired_power (g : Nat) (s : State) : (listRetired g s).power = s.power := rfl
@[simp] theorem listRetired_options (g : Nat) (s : State) : (listRetired g s).options = s.options := rfl
@[simp] theorem listRetired_pins (g : Nat) (s : State) : (listRetired g s).pins = s.pins := rfl
@[simp] theorem listRetired_medium (g : Nat) (s : State) : (listRetired g s).medium = s.medium := rfl
@[simp] theorem listRetired_pending (g : Nat) (s : State) : (listRetired g s).pending = s.pending := rfl
@[simp] theorem requestRead_host (segment frame lo hi : Nat) (s : State) :
    (requestRead segment frame lo hi s).host = s.host := rfl
@[simp] theorem requestRead_sequencer (segment frame lo hi : Nat) (s : State) :
    (requestRead segment frame lo hi s).sequencer = s.sequencer := rfl
@[simp] theorem requestRead_cpl (segment frame lo hi : Nat) (s : State) :
    (requestRead segment frame lo hi s).cpl = s.cpl := rfl
@[simp] theorem requestRead_rsp (segment frame lo hi : Nat) (s : State) :
    (requestRead segment frame lo hi s).rsp = s.rsp := rfl
@[simp] theorem requestRead_write (segment frame lo hi : Nat) (s : State) :
    (requestRead segment frame lo hi s).write = s.write := rfl
@[simp] theorem requestRead_catalogue (segment frame lo hi : Nat) (s : State) :
    (requestRead segment frame lo hi s).catalogue = s.catalogue := rfl
@[simp] theorem requestRead_segments (segment frame lo hi : Nat) (s : State) :
    (requestRead segment frame lo hi s).segments = s.segments := rfl
@[simp] theorem requestRead_streams (segment frame lo hi : Nat) (s : State) :
    (requestRead segment frame lo hi s).streams = s.streams := rfl
@[simp] theorem requestRead_guard (segment frame lo hi : Nat) (s : State) :
    (requestRead segment frame lo hi s).guard = s.guard := rfl
@[simp] theorem requestRead_vault (segment frame lo hi : Nat) (s : State) :
    (requestRead segment frame lo hi s).vault = s.vault := rfl
@[simp] theorem requestRead_time (segment frame lo hi : Nat) (s : State) :
    (requestRead segment frame lo hi s).time = s.time := rfl
@[simp] theorem requestRead_events (segment frame lo hi : Nat) (s : State) :
    (requestRead segment frame lo hi s).events = s.events := rfl
@[simp] theorem requestRead_power (segment frame lo hi : Nat) (s : State) :
    (requestRead segment frame lo hi s).power = s.power := rfl
@[simp] theorem requestRead_options (segment frame lo hi : Nat) (s : State) :
    (requestRead segment frame lo hi s).options = s.options := rfl
@[simp] theorem requestRead_pins (segment frame lo hi : Nat) (s : State) :
    (requestRead segment frame lo hi s).pins = s.pins := rfl
@[simp] theorem requestRead_medium (segment frame lo hi : Nat) (s : State) :
    (requestRead segment frame lo hi s).medium = s.medium := rfl
@[simp] theorem requestRead_pending (segment frame lo hi : Nat) (s : State) :
    (requestRead segment frame lo hi s).pending = s.pending := rfl
@[simp] theorem requestLedger_host (content : LedgerFrame) (s : State) : (requestLedger content s).host = s.host := rfl
@[simp] theorem requestLedger_sequencer (content : LedgerFrame) (s : State) :
    (requestLedger content s).sequencer = s.sequencer := rfl
@[simp] theorem requestLedger_cpl (content : LedgerFrame) (s : State) : (requestLedger content s).cpl = s.cpl := rfl
@[simp] theorem requestLedger_rsp (content : LedgerFrame) (s : State) : (requestLedger content s).rsp = s.rsp := rfl
@[simp] theorem requestLedger_write (content : LedgerFrame) (s : State) :
    (requestLedger content s).write = s.write := rfl
@[simp] theorem requestLedger_catalogue (content : LedgerFrame) (s : State) :
    (requestLedger content s).catalogue = s.catalogue := rfl
@[simp] theorem requestLedger_segments (content : LedgerFrame) (s : State) :
    (requestLedger content s).segments = s.segments := rfl
@[simp] theorem requestLedger_streams (content : LedgerFrame) (s : State) :
    (requestLedger content s).streams = s.streams := rfl
@[simp] theorem requestLedger_guard (content : LedgerFrame) (s : State) :
    (requestLedger content s).guard = s.guard := rfl
@[simp] theorem requestLedger_vault (content : LedgerFrame) (s : State) :
    (requestLedger content s).vault = s.vault := rfl
@[simp] theorem requestLedger_time (content : LedgerFrame) (s : State) : (requestLedger content s).time = s.time := rfl
@[simp] theorem requestLedger_events (content : LedgerFrame) (s : State) :
    (requestLedger content s).events = s.events := rfl
@[simp] theorem requestLedger_power (content : LedgerFrame) (s : State) :
    (requestLedger content s).power = s.power := rfl
@[simp] theorem requestLedger_options (content : LedgerFrame) (s : State) :
    (requestLedger content s).options = s.options := rfl
@[simp] theorem requestLedger_pins (content : LedgerFrame) (s : State) : (requestLedger content s).pins = s.pins := rfl
@[simp] theorem requestLedger_medium (content : LedgerFrame) (s : State) :
    (requestLedger content s).medium = s.medium := rfl
@[simp] theorem requestLedger_pending (content : LedgerFrame) (s : State) :
    (requestLedger content s).pending = s.pending := rfl
@[simp] theorem dropRequest_host (s : State) : (dropRequest s).host = s.host := rfl
@[simp] theorem dropRequest_sequencer (s : State) : (dropRequest s).sequencer = s.sequencer := rfl
@[simp] theorem dropRequest_cpl (s : State) : (dropRequest s).cpl = s.cpl := rfl
@[simp] theorem dropRequest_rsp (s : State) : (dropRequest s).rsp = s.rsp := rfl
@[simp] theorem dropRequest_write (s : State) : (dropRequest s).write = s.write := rfl
@[simp] theorem dropRequest_catalogue (s : State) : (dropRequest s).catalogue = s.catalogue := rfl
@[simp] theorem dropRequest_segments (s : State) : (dropRequest s).segments = s.segments := rfl
@[simp] theorem dropRequest_streams (s : State) : (dropRequest s).streams = s.streams := rfl
@[simp] theorem dropRequest_guard (s : State) : (dropRequest s).guard = s.guard := rfl
@[simp] theorem dropRequest_vault (s : State) : (dropRequest s).vault = s.vault := rfl
@[simp] theorem dropRequest_time (s : State) : (dropRequest s).time = s.time := rfl
@[simp] theorem dropRequest_events (s : State) : (dropRequest s).events = s.events := rfl
@[simp] theorem dropRequest_power (s : State) : (dropRequest s).power = s.power := rfl
@[simp] theorem dropRequest_options (s : State) : (dropRequest s).options = s.options := rfl
@[simp] theorem dropRequest_pins (s : State) : (dropRequest s).pins = s.pins := rfl
@[simp] theorem dropRequest_medium (s : State) : (dropRequest s).medium = s.medium := rfl
@[simp] theorem dropRequest_pending (s : State) : (dropRequest s).pending = s.pending := rfl

/-! ### The engine, the power states and the host's pins: every other field -/

@[simp] theorem setReloc_host (r : Option Reloc) (s : State) : (setReloc r s).host = s.host := rfl
@[simp] theorem setReloc_sequencer (r : Option Reloc) (s : State) : (setReloc r s).sequencer = s.sequencer := rfl
@[simp] theorem setReloc_cpl (r : Option Reloc) (s : State) : (setReloc r s).cpl = s.cpl := rfl
@[simp] theorem setReloc_rsp (r : Option Reloc) (s : State) : (setReloc r s).rsp = s.rsp := rfl
@[simp] theorem setReloc_write (r : Option Reloc) (s : State) : (setReloc r s).write = s.write := rfl
@[simp] theorem setReloc_catalogue (r : Option Reloc) (s : State) : (setReloc r s).catalogue = s.catalogue := rfl
@[simp] theorem setReloc_segments (r : Option Reloc) (s : State) : (setReloc r s).segments = s.segments := rfl
@[simp] theorem setReloc_streams (r : Option Reloc) (s : State) : (setReloc r s).streams = s.streams := rfl
@[simp] theorem setReloc_guard (r : Option Reloc) (s : State) : (setReloc r s).guard = s.guard := rfl
@[simp] theorem setReloc_vault (r : Option Reloc) (s : State) : (setReloc r s).vault = s.vault := rfl
@[simp] theorem setReloc_time (r : Option Reloc) (s : State) : (setReloc r s).time = s.time := rfl
@[simp] theorem setReloc_events (r : Option Reloc) (s : State) : (setReloc r s).events = s.events := rfl
@[simp] theorem setReloc_power (r : Option Reloc) (s : State) : (setReloc r s).power = s.power := rfl
@[simp] theorem setReloc_options (r : Option Reloc) (s : State) : (setReloc r s).options = s.options := rfl
@[simp] theorem setReloc_pins (r : Option Reloc) (s : State) : (setReloc r s).pins = s.pins := rfl
@[simp] theorem setReloc_medium (r : Option Reloc) (s : State) : (setReloc r s).medium = s.medium := rfl
@[simp] theorem setReloc_pending (r : Option Reloc) (s : State) : (setReloc r s).pending = s.pending := rfl
@[simp] theorem noteProgram_host (failed : Bool) (s : State) : (noteProgram failed s).host = s.host := rfl
@[simp] theorem noteProgram_sequencer (failed : Bool) (s : State) :
    (noteProgram failed s).sequencer = s.sequencer := rfl
@[simp] theorem noteProgram_cpl (failed : Bool) (s : State) : (noteProgram failed s).cpl = s.cpl := rfl
@[simp] theorem noteProgram_rsp (failed : Bool) (s : State) : (noteProgram failed s).rsp = s.rsp := rfl
@[simp] theorem noteProgram_write (failed : Bool) (s : State) : (noteProgram failed s).write = s.write := rfl
@[simp] theorem noteProgram_catalogue (failed : Bool) (s : State) :
    (noteProgram failed s).catalogue = s.catalogue := rfl
@[simp] theorem noteProgram_segments (failed : Bool) (s : State) : (noteProgram failed s).segments = s.segments := rfl
@[simp] theorem noteProgram_streams (failed : Bool) (s : State) : (noteProgram failed s).streams = s.streams := rfl
@[simp] theorem noteProgram_guard (failed : Bool) (s : State) : (noteProgram failed s).guard = s.guard := rfl
@[simp] theorem noteProgram_vault (failed : Bool) (s : State) : (noteProgram failed s).vault = s.vault := rfl
@[simp] theorem noteProgram_time (failed : Bool) (s : State) : (noteProgram failed s).time = s.time := rfl
@[simp] theorem noteProgram_events (failed : Bool) (s : State) : (noteProgram failed s).events = s.events := rfl
@[simp] theorem noteProgram_power (failed : Bool) (s : State) : (noteProgram failed s).power = s.power := rfl
@[simp] theorem noteProgram_options (failed : Bool) (s : State) : (noteProgram failed s).options = s.options := rfl
@[simp] theorem noteProgram_pins (failed : Bool) (s : State) : (noteProgram failed s).pins = s.pins := rfl
@[simp] theorem noteProgram_medium (failed : Bool) (s : State) : (noteProgram failed s).medium = s.medium := rfl
@[simp] theorem noteProgram_pending (failed : Bool) (s : State) : (noteProgram failed s).pending = s.pending := rfl
@[simp] theorem engineIdle_host (s : State) : (engineIdle s).host = s.host := rfl
@[simp] theorem engineIdle_sequencer (s : State) : (engineIdle s).sequencer = s.sequencer := rfl
@[simp] theorem engineIdle_cpl (s : State) : (engineIdle s).cpl = s.cpl := rfl
@[simp] theorem engineIdle_rsp (s : State) : (engineIdle s).rsp = s.rsp := rfl
@[simp] theorem engineIdle_write (s : State) : (engineIdle s).write = s.write := rfl
@[simp] theorem engineIdle_catalogue (s : State) : (engineIdle s).catalogue = s.catalogue := rfl
@[simp] theorem engineIdle_segments (s : State) : (engineIdle s).segments = s.segments := rfl
@[simp] theorem engineIdle_streams (s : State) : (engineIdle s).streams = s.streams := rfl
@[simp] theorem engineIdle_guard (s : State) : (engineIdle s).guard = s.guard := rfl
@[simp] theorem engineIdle_vault (s : State) : (engineIdle s).vault = s.vault := rfl
@[simp] theorem engineIdle_time (s : State) : (engineIdle s).time = s.time := rfl
@[simp] theorem engineIdle_events (s : State) : (engineIdle s).events = s.events := rfl
@[simp] theorem engineIdle_power (s : State) : (engineIdle s).power = s.power := rfl
@[simp] theorem engineIdle_options (s : State) : (engineIdle s).options = s.options := rfl
@[simp] theorem engineIdle_pins (s : State) : (engineIdle s).pins = s.pins := rfl
@[simp] theorem engineIdle_medium (s : State) : (engineIdle s).medium = s.medium := rfl
@[simp] theorem engineIdle_pending (s : State) : (engineIdle s).pending = s.pending := rfl
@[simp] theorem setSoft_host (x : Option SoftStep) (s : State) : (setSoft x s).host = s.host := rfl
@[simp] theorem setSoft_sequencer (x : Option SoftStep) (s : State) : (setSoft x s).sequencer = s.sequencer := rfl
@[simp] theorem setSoft_cpl (x : Option SoftStep) (s : State) : (setSoft x s).cpl = s.cpl := rfl
@[simp] theorem setSoft_rsp (x : Option SoftStep) (s : State) : (setSoft x s).rsp = s.rsp := rfl
@[simp] theorem setSoft_write (x : Option SoftStep) (s : State) : (setSoft x s).write = s.write := rfl
@[simp] theorem setSoft_engine (x : Option SoftStep) (s : State) : (setSoft x s).engine = s.engine := rfl
@[simp] theorem setSoft_catalogue (x : Option SoftStep) (s : State) : (setSoft x s).catalogue = s.catalogue := rfl
@[simp] theorem setSoft_segments (x : Option SoftStep) (s : State) : (setSoft x s).segments = s.segments := rfl
@[simp] theorem setSoft_streams (x : Option SoftStep) (s : State) : (setSoft x s).streams = s.streams := rfl
@[simp] theorem setSoft_guard (x : Option SoftStep) (s : State) : (setSoft x s).guard = s.guard := rfl
@[simp] theorem setSoft_vault (x : Option SoftStep) (s : State) : (setSoft x s).vault = s.vault := rfl
@[simp] theorem setSoft_time (x : Option SoftStep) (s : State) : (setSoft x s).time = s.time := rfl
@[simp] theorem setSoft_events (x : Option SoftStep) (s : State) : (setSoft x s).events = s.events := rfl
@[simp] theorem setSoft_options (x : Option SoftStep) (s : State) : (setSoft x s).options = s.options := rfl
@[simp] theorem setSoft_pins (x : Option SoftStep) (s : State) : (setSoft x s).pins = s.pins := rfl
@[simp] theorem setSoft_medium (x : Option SoftStep) (s : State) : (setSoft x s).medium = s.medium := rfl
@[simp] theorem setSoft_pending (x : Option SoftStep) (s : State) : (setSoft x s).pending = s.pending := rfl
@[simp] theorem wake_host (s : State) : (wake s).host = s.host := rfl
@[simp] theorem wake_sequencer (s : State) : (wake s).sequencer = s.sequencer := rfl
@[simp] theorem wake_cpl (s : State) : (wake s).cpl = s.cpl := rfl
@[simp] theorem wake_rsp (s : State) : (wake s).rsp = s.rsp := rfl
@[simp] theorem wake_write (s : State) : (wake s).write = s.write := rfl
@[simp] theorem wake_engine (s : State) : (wake s).engine = s.engine := rfl
@[simp] theorem wake_catalogue (s : State) : (wake s).catalogue = s.catalogue := rfl
@[simp] theorem wake_segments (s : State) : (wake s).segments = s.segments := rfl
@[simp] theorem wake_streams (s : State) : (wake s).streams = s.streams := rfl
@[simp] theorem wake_guard (s : State) : (wake s).guard = s.guard := rfl
@[simp] theorem wake_vault (s : State) : (wake s).vault = s.vault := rfl
@[simp] theorem wake_time (s : State) : (wake s).time = s.time := rfl
@[simp] theorem wake_events (s : State) : (wake s).events = s.events := rfl
@[simp] theorem wake_options (s : State) : (wake s).options = s.options := rfl
@[simp] theorem wake_pins (s : State) : (wake s).pins = s.pins := rfl
@[simp] theorem wake_medium (s : State) : (wake s).medium = s.medium := rfl
@[simp] theorem wake_pending (s : State) : (wake s).pending = s.pending := rfl
@[simp] theorem drive_sequencer (b : Byte) (s : State) : (drive b s).sequencer = s.sequencer := rfl
@[simp] theorem drive_cpl (b : Byte) (s : State) : (drive b s).cpl = s.cpl := rfl
@[simp] theorem drive_rsp (b : Byte) (s : State) : (drive b s).rsp = s.rsp := rfl
@[simp] theorem drive_write (b : Byte) (s : State) : (drive b s).write = s.write := rfl
@[simp] theorem drive_engine (b : Byte) (s : State) : (drive b s).engine = s.engine := rfl
@[simp] theorem drive_catalogue (b : Byte) (s : State) : (drive b s).catalogue = s.catalogue := rfl
@[simp] theorem drive_segments (b : Byte) (s : State) : (drive b s).segments = s.segments := rfl
@[simp] theorem drive_streams (b : Byte) (s : State) : (drive b s).streams = s.streams := rfl
@[simp] theorem drive_guard (b : Byte) (s : State) : (drive b s).guard = s.guard := rfl
@[simp] theorem drive_vault (b : Byte) (s : State) : (drive b s).vault = s.vault := rfl
@[simp] theorem drive_time (b : Byte) (s : State) : (drive b s).time = s.time := rfl
@[simp] theorem drive_events (b : Byte) (s : State) : (drive b s).events = s.events := rfl
@[simp] theorem drive_power (b : Byte) (s : State) : (drive b s).power = s.power := rfl
@[simp] theorem drive_options (b : Byte) (s : State) : (drive b s).options = s.options := rfl
@[simp] theorem drive_pins (b : Byte) (s : State) : (drive b s).pins = s.pins := rfl
@[simp] theorem drive_medium (b : Byte) (s : State) : (drive b s).medium = s.medium := rfl
@[simp] theorem drive_pending (b : Byte) (s : State) : (drive b s).pending = s.pending := rfl

end Sys2Proof.Machine
end

