-- ==== Sys2Proof/Laws/Frames.lean ====
section
/-!
SUPPORT. What no operation of a command touches: the storage array, the Timebase, the options, the pins and the queue of
commands. One simp lemma per operation; an invariant about these fields follows without unfolding an operation. Not here
are the few that write them: a program's or an erase's end, a source pulse, SET OPTION, SET TIME, SET ALARM, the entry into
HALT, and the resets.
-/

namespace Sys2Proof.Machine

open Sys2Proof

/-- The storage array, the Timebase, the options, the pins and the queue of commands. -/
def State.outer (s : State) : Medium × Timebase × Options × Pins × List Instr :=
  (s.medium, s.time, s.options, s.pins, s.pending)

/-- The storage array is one part of it. -/
theorem medium_of_outer {s t : State} (h : t.outer = s.outer) : t.medium = s.medium := congrArg (fun x => x.1) h

/-- The Timebase is one part of it. -/
theorem time_of_outer {s t : State} (h : t.outer = s.outer) : t.time = s.time := congrArg (fun x => x.2.1) h

/-- The options are one part of it. -/
theorem options_of_outer {s t : State} (h : t.outer = s.outer) : t.options = s.options := congrArg (fun x => x.2.2.1) h

theorem outer_of_held {s t : State} (h : t.held = s.held) : t.outer = s.outer := by
  unfold State.held at h
  injection h
  simp_all [State.outer]

@[simp] theorem choose_outer (s : State) : (choose s).outer = s.outer := outer_of_held (choose_held s)

/-! ### Events, completions, streams, segments, jobs -/

@[simp] theorem raise_outer (e : Event) (s : State) : (raise e s).outer = s.outer := by
  unfold raise
  split <;> rfl

@[simp] theorem addNoticeAt_outer (rank : Nat) (n : Notice) (s : State) : (addNoticeAt rank n s).outer = s.outer := by
  unfold addNoticeAt
  split <;> rfl

@[simp] theorem addNotice_outer (n : Notice) (s : State) : (addNotice n s).outer = s.outer := by
  unfold addNotice
  simp

@[simp] theorem flushNotices_outer (s : State) : (flushNotices s).outer = s.outer := rfl

@[simp] theorem flushCompletions_outer (s : State) : (flushCompletions s).outer = s.outer := rfl

@[simp] theorem settle_outer (s : State) : (settle s).outer = s.outer := rfl

@[simp] theorem hostError_outer (code : Byte) (s : State) : (hostError code s).outer = s.outer := by
  unfold hostError
  simp; rfl

@[simp] theorem postRecord_outer (key : Nat) (c : Completion) (s : State) : (postRecord key c s).outer = s.outer := by
  unfold postRecord; (try dsimp only); (repeat' split) <;> first | rfl | (simp; done) | (simp; rfl)

@[simp] theorem complete_outer (d : Dispatched) (o : Outcome) (s : State) : (complete d o s).outer = s.outer := by
  unfold complete
  simp; rfl

@[simp] theorem respond_outer (d : Dispatched) (o : Outcome) (bytes : List Byte) (s : State) :
    (respond d o bytes s).outer = s.outer := by
  unfold respond
  simp; rfl

@[simp] theorem setPhase_outer (d : Dispatched) (p : Phase) (s : State) : (setPhase d p s).outer = s.outer := rfl

@[simp] theorem defer_outer (d : Dispatched) (k : DeferredKind) (s : State) : (defer d k s).outer = s.outer := rfl

@[simp] theorem setStream_outer (n : Nat) (t : Stream) (s : State) : (setStream n t s).outer = s.outer := rfl

@[simp] theorem updStream_outer (n : Nat) (f : Stream → Stream) (s : State) : (updStream n f s).outer = s.outer := rfl

@[simp] theorem enterFull_outer (n : Nat) (r : FullReason) (s : State) : (enterFull n r s).outer = s.outer := by
  unfold enterFull
  dsimp only; split <;> simp

@[simp] theorem setSeg_outer (g : Nat) (e : SegEntry) (s : State) : (setSeg g e s).outer = s.outer := rfl

@[simp] theorem updSeg_outer (g : Nat) (f : SegEntry → SegEntry) (s : State) : (updSeg g f s).outer = s.outer := rfl

@[simp] theorem leavePool_outer (g : Nat) (s : State) : (leavePool g s).outer = s.outer := rfl

@[simp] theorem joinPool_outer (g : Nat) (s : State) : (joinPool g s).outer = s.outer := rfl

@[simp] theorem takeSegment_outer (g : Nat) (s : State) : (takeSegment g s).outer = s.outer := rfl

@[simp] theorem releaseSegment_outer (g : Nat) (s : State) : (releaseSegment g s).outer = s.outer := rfl

@[simp] theorem retireSegment_outer (g : Nat) (s : State) : (retireSegment g s).outer = s.outer := rfl

@[simp] theorem clearWeak_outer (g : Nat) (s : State) : (clearWeak g s).outer = s.outer := rfl

@[simp] theorem noteProgram_outer (failed : Bool) (s : State) : (noteProgram failed s).outer = s.outer := rfl

@[simp] theorem emitJob_outer (j : Job) (s : State) : (emitJob j s).outer = s.outer := rfl

@[simp] theorem syncTail_outer (n : Nat) (s : State) : (syncTail n s).outer = s.outer := by
  unfold syncTail
  dsimp only; (repeat' split) <;> simp

@[simp] theorem syncTails_outer (l : List Nat) (s : State) : (syncTails l s).outer = s.outer := by
  induction l generalizing s with
  | nil => rfl
  | cons x l ih => unfold syncTails; rw [ih]; simp

@[simp] theorem postDeferred_outer (d : Deferred) (s : State) : (postDeferred d s).outer = s.outer := by
  unfold postDeferred
  (repeat' split) <;> simp

@[simp] theorem postAll_outer (l : List Deferred) (s : State) : (postAll l s).outer = s.outer := by
  induction l generalizing s with
  | nil => rfl
  | cons x l ih => unfold postAll; rw [ih]; simp

@[simp] theorem releaseDeferred_outer (s : State) : (releaseDeferred s).outer = s.outer := by
  unfold releaseDeferred
  simp; rfl

@[simp] theorem spoilNamed_outer (jobs : List Job) (s : State) : (spoilNamed jobs s).outer = s.outer := rfl

@[simp] theorem advanceDurable_outer (j : Job) (s : State) : (advanceDurable j s).outer = s.outer := by
  unfold advanceDurable
  split <;> simp

@[simp] theorem faultStream_outer (n segment cause : Nat) (s : State) :
    (faultStream n segment cause s).outer = s.outer := by
  unfold faultStream
  simp; rfl

@[simp] theorem enterWornOut_outer (why : Nat) (s : State) : (enterWornOut why s).outer = s.outer := by
  unfold enterWornOut
  split
  · rfl
  · simp; rfl

@[simp] theorem holdForMount_outer (g : Nat) (s : State) : (holdForMount g s).outer = s.outer := rfl

@[simp] theorem handVersion_outer (s : State) : (handVersion s).outer = s.outer := rfl

@[simp] theorem requestVersion_outer (v : VersionFor) (s : State) : (requestVersion v s).outer = s.outer := rfl

@[simp] theorem listRetired_outer (g : Nat) (s : State) : (listRetired g s).outer = s.outer := rfl

@[simp] theorem recordRetirement_outer (g : Nat) (byRelocation : Bool) (s : State) :
    (recordRetirement g byRelocation s).outer = s.outer := by
  unfold recordRetirement
  (repeat' split) <;> simp

@[simp] theorem retireErased_outer (g : Nat) (byRelocation : Bool) (s : State) :
    (retireErased g byRelocation s).outer = s.outer := by
  unfold retireErased
  simp

/-! ### Relocation -/

@[simp] theorem setReloc_outer (r : Option Reloc) (s : State) : (setReloc r s).outer = s.outer := rfl

@[simp] theorem giveUp_outer (r : Reloc) (s : State) : (giveUp r s).outer = s.outer := by
  unfold giveUp
  simp

@[simp] theorem takeTarget_outer (r : Reloc) (s : State) : (takeTarget r s).outer = s.outer := by
  unfold takeTarget
  (repeat' split) <;> simp

@[simp] theorem startRelocation_outer (j : Job) (s : State) : (startRelocation j s).outer = s.outer := by
  unfold startRelocation
  simp

@[simp] theorem finishRelocation_outer (r : Reloc) (s : State) : (finishRelocation r s).outer = s.outer := by
  unfold finishRelocation
  split
  · rfl
  · simp; rfl

@[simp] theorem completeCopy_outer (r : Reloc) (s : State) : (completeCopy r s).outer = s.outer := by
  unfold completeCopy
  dsimp only; split <;> simp

@[simp] theorem abandonTarget_outer (r : Reloc) (s : State) : (abandonTarget r s).outer = s.outer := by
  unfold abandonTarget
  simp

@[simp] theorem beginCopy_outer (r : Reloc) (s : State) : (beginCopy r s).outer = s.outer := rfl

@[simp] theorem targetEraseFailed_outer (r : Reloc) (s : State) : (targetEraseFailed r s).outer = s.outer := by
  unfold targetEraseFailed
  simp

@[simp] theorem copyAfterRead_outer (r : Reloc) (i : Nat) (f : FrameRead) (s : State) :
    (copyAfterRead r i f s).outer = s.outer := rfl

@[simp] theorem copyPassed_outer (r : Reloc) (i : Nat) (p : Program) (s : State) :
    (copyPassed r i p s).outer = s.outer := by
  unfold copyPassed
  dsimp only; split <;> simp

/-! ### The catalogue writer -/

@[simp] theorem releaseAll_outer (l : List ChainEntry) (s : State) : (releaseAll l s).outer = s.outer := by
  induction l generalizing s with
  | nil => rfl
  | cons x l ih => unfold releaseAll; rw [ih]; simp

@[simp] theorem dropRetired_outer (l : List ChainEntry) (s : State) : (dropRetired l s).outer = s.outer := by
  induction l generalizing s with
  | nil => rfl
  | cons x l ih => unfold dropRetired; rw [ih]; simp

@[simp] theorem leaveStream_outer (n : Nat) (s : State) : (leaveStream n s).outer = s.outer := by
  unfold leaveStream
  simp

@[simp] theorem leaveStreams_outer (l : List Nat) (s : State) : (leaveStreams l s).outer = s.outer := by
  induction l generalizing s with
  | nil => rfl
  | cons x l ih => unfold leaveStreams; rw [ih]; simp

@[simp] theorem unstage_outer (n : Nat) (s : State) : (unstage n s).outer = s.outer := by
  unfold unstage
  (repeat' split) <;> rfl

@[simp] theorem completeDispatched_outer (o : Outcome) (s : State) : (completeDispatched o s).outer = s.outer := by
  unfold completeDispatched
  split <;> simp

@[simp] theorem formatted_outer (s : State) : (formatted s).outer = s.outer := by
  have h := leaveStreams_outer (List.range 8) { s with write := { s.write with staging := none } }
  unfold formatted
  generalize leaveStreams (List.range 8) { s with write := { s.write with staging := none } } = u at h ⊢
  dsimp only
  split
  · exact h
  · exact h

@[simp] theorem versionWritten_outer (v : VersionFor) (version : Version) (s : State) :
    (versionWritten v version s).outer = s.outer := by
  unfold versionWritten
  split
  · rw [completeDispatched_outer, setStream_outer]
  · rw [completeDispatched_outer, leaveStream_outer, unstage_outer]
  · dsimp only
    rw [completeDispatched_outer, formatted_outer]
  · split
    · split
      · exact finishRelocation_outer ..
      · rfl
    · rfl

@[simp] theorem versionGivenUp_outer (v : VersionFor) (s : State) : (versionGivenUp v s).outer = s.outer := by
  unfold versionGivenUp; (try dsimp only); (repeat' split) <;> first | rfl | (simp; done) | (simp; rfl)

@[simp] theorem giveUpVersions_outer (l : List VersionFor) (s : State) : (giveUpVersions l s).outer = s.outer := by
  induction l generalizing s with
  | nil => rfl
  | cons x l ih => unfold giveUpVersions; rw [ih]; simp

@[simp] theorem loseCatalogue_outer (s : State) : (loseCatalogue s).outer = s.outer := by
  unfold loseCatalogue
  simp; rfl

@[simp] theorem workFailed_outer (w : CatWork) (s : State) : (workFailed w s).outer = s.outer := by
  unfold workFailed
  split
  · rfl
  · simp

@[simp] theorem catalogueErased_outer (w : CatWork) (r : EraseResult) (s : State) :
    (catalogueErased w r s).outer = s.outer := by
  unfold catalogueErased
  split
  · rfl
  · simp

@[simp] theorem catalogueProgrammed_outer (w : CatWork) (r : ProgramResult) (s : State) :
    (catalogueProgrammed w r s).outer = s.outer := by
  unfold catalogueProgrammed
  split
  · dsimp only
    split
    · rw [handVersion_outer, versionWritten_outer]; rfl
    · rfl
  · rw [workFailed_outer]; rfl

/-! ### COMMIT and allocation -/

@[simp] theorem finishCommit_outer (d : Dispatched) (n seq : Nat) (s : State) :
    (finishCommit d n seq s).outer = s.outer := by
  unfold finishCommit
  dsimp only
  (repeat' split) <;> (simp; rfl)

@[simp] theorem placingLost_outer (d : Dispatched) (n seq : Nat) (s : State) : (placingLost d n seq s).outer = s.outer := by
  unfold placingLost
  split
  · rfl
  · simp

@[simp] theorem copyRecord_outer (d : Dispatched) (n seq : Nat) (free : Bool) (bytes : List Byte) (s : State) :
    (copyRecord d n seq free bytes s).outer = s.outer := by
  unfold copyRecord
  dsimp only
  (repeat' split) <;> first | rfl | (simp; done) | (simp; rfl)

@[simp] theorem assignAndPlace_outer (d : Dispatched) (n : Nat) (attr : Byte) (free : Bool) (s : State) :
    (assignAndPlace d n attr free s).outer = s.outer := by
  unfold assignAndPlace
  dsimp only
  split
  · rw [copyRecord_outer]; rfl
  · rfl

@[simp] theorem placeInWriteSegment_outer (d : Dispatched) (n : Nat) (attr : Byte) (s : State) :
    (placeInWriteSegment d n attr s).outer = s.outer := by
  unfold placeInWriteSegment
  simp

@[simp] theorem placeInNewSegment_outer (d : Dispatched) (n : Nat) (attr : Byte) (generation g : Nat) (free : Bool) (s : State) :
    (placeInNewSegment d n attr generation g free s).outer = s.outer := by
  unfold placeInNewSegment
  simp

@[simp] theorem allocationFailed_outer (d : Dispatched) (n : Nat) (s : State) :
    (allocationFailed d n s).outer = s.outer := by
  unfold allocationFailed
  simp; rfl

@[simp] theorem allocate_outer (d : Dispatched) (n : Nat) (attr : Byte) (generation : Nat) (free : Bool) (s : State) :
    (allocate d n attr generation free s).outer = s.outer := by
  unfold allocate
  (repeat' split) <;> first | rfl | simp

@[simp] theorem closeWriteSegment_outer (n : Nat) (s : State) : (closeWriteSegment n s).outer = s.outer := by
  unfold closeWriteSegment
  dsimp only; (repeat' split) <;> simp

@[simp] theorem reclaimOldest_outer (n : Nat) (s : State) : (reclaimOldest n s).outer = s.outer := by
  unfold reclaimOldest
  dsimp only; split <;> simp

@[simp] theorem commitPoint_outer (d : Dispatched) (n : Nat) (attr : Byte) (p : Placement) (s : State) :
    (commitPoint d n attr p s).outer = s.outer := by
  unfold commitPoint; (try dsimp only); (repeat' split) <;> first | rfl | (simp; done) | (simp; rfl)

@[simp] theorem runCommit_outer (d : Dispatched) (n : Nat) (attr : Byte) (s : State) :
    (runCommit d n attr s).outer = s.outer := by
  unfold runCommit
  dsimp only; (repeat' split) <;> simp

@[simp] theorem allocationErased_outer (d : Dispatched) (n : Nat) (attr : Byte) (generation g : Nat) (failed : Bool)
    (s : State) : (allocationErased d n attr generation g failed s).outer = s.outer := by
  unfold allocationErased
  split <;> simp

/-! ### Reading -/

@[simp] theorem deliver_outer (d : Dispatched) (l : Lookup) (g : Gathered) (grade : Grade) (s : State) :
    (deliver d l g grade s).outer = s.outer := by
  unfold deliver
  (repeat' split) <;> simp

@[simp] theorem concludeLookup_outer (d : Dispatched) (l : Lookup) (start : Option (Nat × Nat × Nat)) (s : State) :
    (concludeLookup d l start s).outer = s.outer := by
  unfold concludeLookup
  dsimp only; split <;> simp

@[simp] theorem searchFrames_outer (d : Dispatched) (l : Lookup) (k : Nat) (s : State) :
    (searchFrames d l k s).outer = s.outer := by
  induction k generalizing l s with
  | zero => unfold searchFrames; simp
  | succ k ih => unfold searchFrames; (try dsimp only); (repeat' split) <;> first | (simp [ih]; done) | (simp; rfl)

@[simp] theorem lookupRead_outer (d : Dispatched) (l : Lookup) (f : FrameRead) (s : State) :
    (lookupRead d l f s).outer = s.outer := by
  unfold lookupRead; (try dsimp only); (repeat' split) <;> simp

@[simp] theorem startLookup_outer (d : Dispatched) (n seq skip : Nat) (s : State) :
    (startLookup d n seq skip s).outer = s.outer := by
  unfold startLookup; (try dsimp only); (repeat' split) <;> simp

@[simp] theorem runReadRecord_outer (d : Dispatched) (n seq : Nat) (s : State) :
    (runReadRecord d n seq s).outer = s.outer := by
  unfold runReadRecord
  dsimp only; (repeat' split) <;> simp

@[simp] theorem runReadNext_outer (d : Dispatched) (n : Nat) (s : State) : (runReadNext d n s).outer = s.outer := by
  unfold runReadNext
  dsimp only; (repeat' split) <;> simp

@[simp] theorem runSeek_outer (d : Dispatched) (n origin seq : Nat) (s : State) :
    (runSeek d n origin seq s).outer = s.outer := by
  unfold runSeek
  dsimp only; (repeat' split) <;> simp

/-! ### Locks, barriers, ledger, vault -/

@[simp] theorem requestLedger_outer (content : LedgerFrame) (s : State) :
    (requestLedger content s).outer = s.outer := rfl

@[simp] theorem closeForSeal_outer (n : Nat) (set : List SealEntry) (s : State) :
    (closeForSeal n set s).outer = s.outer := by
  unfold closeForSeal
  dsimp only; (repeat' split) <;> simp

@[simp] theorem sealAfterBarrier_outer (d : Dispatched) (n seq : Nat) (s : State) :
    (sealAfterBarrier d n seq s).outer = s.outer := by
  unfold sealAfterBarrier
  dsimp only; (repeat' split) <;> simp

@[simp] theorem sealSegments_outer (l : List SealEntry) (s : State) : (sealSegments l s).outer = s.outer := by
  induction l generalizing s with
  | nil => rfl
  | cons x l ih => unfold sealSegments; rw [ih]; simp

@[simp] theorem useLedgerFrame_outer (s : State) : (useLedgerFrame s).outer = s.outer := rfl

@[simp] theorem sealProgrammed_outer (d : Dispatched) (n : Nat) (groups : List (List SealEntry))
    (programmed total : Nat) (failed : Bool) (s : State) :
    (sealProgrammed d n groups programmed total failed s).outer = s.outer := by
  have h : (updStream n (markSealed (groups.headD [])) (sealSegments (groups.headD []) (useLedgerFrame s))).outer =
      s.outer := by simp
  unfold sealProgrammed
  dsimp only
  split
  · split <;> simp
  · split
    · rw [complete_outer]; exact h
    · split
      · rw [requestLedger_outer, setPhase_outer]; exact h
      · rw [complete_outer]; exact h

@[simp] theorem runVaultClose_outer (d : Dispatched) (s : State) : (runVaultClose d s).outer = s.outer := by
  unfold runVaultClose
  (repeat' split) <;> simp

@[simp] theorem closingProgrammed_outer (d : Dispatched) (failed : Bool) (s : State) :
    (closingProgrammed d failed s).outer = s.outer := by
  unfold closingProgrammed
  dsimp only; (repeat' split) <;> rfl

@[simp] theorem ledgerProgrammed_outer (failed : Bool) (s : State) : (ledgerProgrammed failed s).outer = s.outer := by
  unfold ledgerProgrammed
  (repeat' split) <;> simp

@[simp] theorem judgeEntry_outer (d : Dispatched) (e : Entry) (s : State) : (judgeEntry d e s).outer = s.outer := by
  unfold judgeEntry
  split <;> rfl

@[simp] theorem afterBarrier_outer (d : Dispatched) (s : State) : (afterBarrier d s).outer = s.outer := by
  unfold afterBarrier; (repeat' split) <;> first | rfl | (simp; done) | (simp; rfl)

@[simp] theorem drainBarrier_outer (d : Dispatched) (s : State) : (drainBarrier d s).outer = s.outer := by
  unfold drainBarrier
  split <;> simp

@[simp] theorem syncBarrier_outer (d : Dispatched) (s : State) : (syncBarrier d s).outer = s.outer := by
  unfold syncBarrier
  dsimp only; split <;> simp

@[simp] theorem nameAll_outer (id : Nat) (s : State) : (nameAll id s).outer = s.outer := rfl

@[simp] theorem runSync_outer (d : Dispatched) (s : State) : (runSync d s).outer = s.outer := by
  unfold runSync
  dsimp only; (repeat' split) <;> simp

@[simp] theorem runVaultWrite_outer (d : Dispatched) (slot : Nat) (data : List Byte) (s : State) :
    (runVaultWrite d slot data s).outer = s.outer := by
  unfold runVaultWrite
  (repeat' split) <;> simp

@[simp] theorem systemDamaged_outer (segment value : Nat) (s : State) :
    (systemDamaged segment value s).outer = s.outer := by
  unfold systemDamaged
  simp

@[simp] theorem requestRead_outer (segment frame lo hi : Nat) (s : State) :
    (requestRead segment frame lo hi s).outer = s.outer := rfl

@[simp] theorem runVaultRead_outer (d : Dispatched) (slot : Nat) (s : State) :
    (runVaultRead d slot s).outer = s.outer := by
  unfold runVaultRead
  (repeat' split) <;> rfl

@[simp] theorem slotReadEnd_outer (d : Dispatched) (slot : Nat) (f : FrameRead) (s : State) :
    (slotReadEnd d slot f s).outer = s.outer := by
  unfold slotReadEnd
  split <;> simp

@[simp] theorem identityReadEnd_outer (d : Dispatched) (bytes : List Byte) (s : State) :
    (identityReadEnd d bytes s).outer = s.outer := by
  unfold identityReadEnd
  split <;> simp

@[simp] theorem writeSegmentStatus_outer (d : Dispatched) (g count : Nat) (s : State) :
    (writeSegmentStatus d g count s).outer = s.outer := rfl

@[simp] theorem runSegmentStatus_outer (d : Dispatched) (g : Nat) (s : State) :
    (runSegmentStatus d g s).outer = s.outer := by
  unfold runSegmentStatus
  (repeat' split) <;> simp

@[simp] theorem countingReadEnd_outer (d : Dispatched) (g frame : Nat) (f : FrameRead) (s : State) :
    (countingReadEnd d g frame f s).outer = s.outer := by
  unfold countingReadEnd
  (repeat' split) <;> simp

@[simp] theorem runReadNotices_outer (d : Dispatched) (s : State) : (runReadNotices d s).outer = s.outer := rfl

@[simp] theorem runQueryStream_outer (d : Dispatched) (n : Nat) (s : State) :
    (runQueryStream d n s).outer = s.outer := rfl

@[simp] theorem runResponding_outer (d : Dispatched) (s : State) : (runResponding d s).outer = s.outer := by
  unfold runResponding
  split <;> simp

@[simp] theorem awaitBuffer_outer (d : Dispatched) (s : State) : (awaitBuffer d s).outer = s.outer := by
  unfold awaitBuffer
  split <;> simp

@[simp] theorem copyReadEnd_outer (d : Dispatched) (copy : Nat) (first : List Byte) (f : FrameRead) (s : State) :
    (copyReadEnd d copy first f s).outer = s.outer := by
  unfold copyReadEnd
  (repeat' split) <;> simp

@[simp] theorem sequencerRead_outer (seg frame lo hi : Nat) (noise : ReadNoise) (s : State) :
    (sequencerRead seg frame lo hi noise s).outer = s.outer := by
  unfold sequencerRead
  dsimp only
  split
  · rfl
  · split <;> first
      | rfl | exact lookupRead_outer .. | exact countingReadEnd_outer .. | exact slotReadEnd_outer ..
      | exact copyReadEnd_outer .. | exact identityReadEnd_outer ..

/-! ### The choice of work and the duties -/

@[simp] theorem holdWrite_outer (h : Nat × Nat × Nat) (s : State) : (holdWrite h s).outer = s.outer := by
  unfold holdWrite
  split
  · rfl
  · simp; rfl

@[simp] theorem startWorkOn_outer (c : WorkItem) (s : State) : (startWorkOn c s).outer = s.outer := rfl

@[simp] theorem startBackgroundErase_outer (s : State) : (startBackgroundErase s).outer = s.outer := by
  unfold startBackgroundErase
  (repeat' split) <;> rfl

@[simp] theorem failByLock_outer (s : State) : (failByLock s).outer = s.outer := by
  unfold failByLock
  split <;> simp

@[simp] theorem abortSteps_outer (s : State) : (abortSteps s).outer = s.outer := by
  unfold abortSteps
  (repeat' split) <;> rfl

@[simp] theorem signalRoom_outer (before : Bool) (s : State) : (signalRoom before s).outer = s.outer := by
  unfold signalRoom
  split <;> simp

@[simp] theorem endAbort_outer (s : State) : (endAbort s).outer = s.outer := by
  unfold endAbort
  dsimp only
  rw [signalRoom_outer]
  exact abortSteps_outer s

@[simp] theorem enterDoze_outer (s : State) : (enterDoze s).outer = s.outer := rfl

@[simp] theorem softAbort_outer (s : State) : (softAbort s).outer = s.outer := by
  exact abortSteps_outer s

@[simp] theorem discardTail_outer (n : Nat) (s : State) : (discardTail n s).outer = s.outer := by
  unfold discardTail
  dsimp only; split <;> simp

@[simp] theorem discardTails_outer (l : List Nat) (s : State) : (discardTails l s).outer = s.outer := by
  induction l generalizing s with
  | nil => rfl
  | cons x l ih => unfold discardTails; rw [ih]; simp

@[simp] theorem setSoft_outer (x : Option SoftStep) (s : State) : (setSoft x s).outer = s.outer := rfl

@[simp] theorem softSync_outer (ns : List Nat) (s : State) : (softSync ns s).outer = s.outer := by
  unfold softSync
  split <;> simp

@[simp] theorem judgeTails_outer (s : State) : (judgeTails s).outer = s.outer := by
  unfold judgeTails
  simp

@[simp] theorem softTails_outer (s : State) : (softTails s).outer = s.outer := by
  unfold softTails
  split <;> simp

@[simp] theorem goOnPlacing_outer (s : State) : (goOnPlacing s).outer = s.outer := by
  unfold goOnPlacing
  split <;> simp

/-! ### Dispatch -/

@[simp] theorem takeHead_outer (d : Option Dispatched) (s : State) : (takeHead d s).outer = s.outer := by
  unfold takeHead
  simp; rfl

@[simp] theorem afterRoom_outer (d : Dispatched) (s : State) : (afterRoom d s).outer = s.outer := by
  unfold afterRoom
  split <;> simp

/-! ### Stream commands -/

@[simp] theorem runDefine_outer (d : Dispatched) (s : State) : (runDefine d s).outer = s.outer := by
  unfold runDefine
  (repeat' split) <;> simp

@[simp] theorem runDelete_outer (d : Dispatched) (s : State) : (runDelete d s).outer = s.outer := by
  unfold runDelete
  dsimp only; (repeat' split) <;> simp

@[simp] theorem runTrim_outer (d : Dispatched) (s : State) : (runTrim d s).outer = s.outer := by
  unfold runTrim
  dsimp only; (repeat' split) <;> simp

@[simp] theorem runAppend_outer (d : Dispatched) (s : State) : (runAppend d s).outer = s.outer := by
  unfold runAppend
  dsimp only; (repeat' split) <;> rfl

@[simp] theorem runCommitCommand_outer (d : Dispatched) (s : State) : (runCommitCommand d s).outer = s.outer := by
  unfold runCommitCommand
  split <;> simp

@[simp] theorem runCancel_outer (d : Dispatched) (s : State) : (runCancel d s).outer = s.outer := by
  unfold runCancel
  (repeat' split) <;> rfl

@[simp] theorem runSeekCommand_outer (d : Dispatched) (s : State) : (runSeekCommand d s).outer = s.outer := by
  unfold runSeekCommand
  split <;> simp

/-! ### Protection commands -/

@[simp] theorem runLock_outer (d : Dispatched) (s : State) : (runLock d s).outer = s.outer := by
  unfold runLock
  (repeat' split) <;> simp

@[simp] theorem runArm_outer (d : Dispatched) (s : State) : (runArm d s).outer = s.outer := by
  unfold runArm
  split <;> rfl

@[simp] theorem runSeal_outer (d : Dispatched) (s : State) : (runSeal d s).outer = s.outer := by
  unfold runSeal
  dsimp only; (repeat' split) <;> simp

@[simp] theorem runFormat_outer (d : Dispatched) (s : State) : (runFormat d s).outer = s.outer := by
  unfold runFormat
  split <;> simp

@[simp] theorem runVaultWriteCommand_outer (d : Dispatched) (s : State) :
    (runVaultWriteCommand d s).outer = s.outer := by
  unfold runVaultWriteCommand
  split <;> simp

/-! ### System commands -/

@[simp] theorem runGetOption_outer (d : Dispatched) (s : State) : (runGetOption d s).outer = s.outer := by
  unfold runGetOption
  split <;> simp

@[simp] theorem runGetTime_outer (d : Dispatched) (s : State) : (runGetTime d s).outer = s.outer := rfl

/-! ### The Host Port -/

@[simp] theorem wake_outer (s : State) : (wake s).outer = s.outer := rfl

@[simp] theorem drive_outer (b : Byte) (s : State) : (drive b s).outer = s.outer := rfl

@[simp] theorem enqueueFrame_outer (f : CmdFrame) (s : State) : (enqueueFrame f s).outer = s.outer := by
  unfold enqueueFrame
  simp; rfl

@[simp] theorem setAssembler_outer (a : Assembler) (s : State) : (setAssembler a s).outer = s.outer := rfl

@[simp] theorem headerComplete_outer (opcode tag : Byte) (length : Nat) (s : State) :
    (headerComplete opcode tag length s).outer = s.outer := by
  unfold headerComplete
  (repeat' split) <;> simp

@[simp] theorem takeByte_outer (b : Byte) (s : State) : (takeByte b s).outer = s.outer := by
  unfold takeByte
  (repeat' split) <;> simp

@[simp] theorem takeResponseByte_outer (s : State) : (takeResponseByte s).outer = s.outer := by
  unfold takeResponseByte
  (repeat' split) <;> first | rfl | simp

@[simp] theorem takeCompletionByte_outer (s : State) : (takeCompletionByte s).outer = s.outer := by
  unfold takeCompletionByte
  (repeat' split) <;> first | rfl | simp

@[simp] theorem flushFrames_outer (s : State) : (flushFrames s).outer = s.outer := rfl

@[simp] theorem beginAbort_outer (s : State) : (beginAbort s).outer = s.outer := by
  unfold beginAbort
  split <;> rfl

@[simp] theorem beginSoftReset_outer (s : State) : (beginSoftReset s).outer = s.outer := rfl

@[simp] theorem discardResponse_outer (s : State) : (discardResponse s).outer = s.outer := rfl

@[simp] theorem rewindCompletion_outer (s : State) : (rewindCompletion s).outer = s.outer := rfl

@[simp] theorem hctlWrite_outer (b : Byte) (srstIgnored : Bool) (s : State) :
    (hctlWrite b srstIgnored s).outer = s.outer := by
  unfold hctlWrite
  (repeat' split) <;> simp

/-! ### Power fail -/

@[simp] theorem enterDead_outer (s : State) : (enterDead s).outer = s.outer := rfl

@[simp] theorem enterFlush_outer (s : State) : (enterFlush s).outer = s.outer := rfl

@[simp] theorem engineIdle_outer (s : State) : (engineIdle s).outer = s.outer := rfl

/-! ### The ends of operations -/

@[simp] theorem dropHead_outer (s : State) : (dropHead s).outer = s.outer := rfl

@[simp] theorem slotDone_outer (j : Job) (failed : Bool) (s : State) : (slotDone j failed s).outer = s.outer := by
  unfold slotDone
  split <;> rfl

@[simp] theorem jobPassed_outer (j : Job) (s : State) : (jobPassed j s).outer = s.outer := by
  unfold jobPassed
  simp

@[simp] theorem jobFailed_outer (j : Job) (s : State) : (jobFailed j s).outer = s.outer := by
  unfold jobFailed
  split <;> simp

@[simp] theorem jobEnded_outer (r : ProgramResult) (s : State) : (jobEnded r s).outer = s.outer := by
  unfold jobEnded
  (repeat' split) <;> simp

@[simp] theorem jobEndedInFlush_outer (r : ProgramResult) (s : State) : (jobEndedInFlush r s).outer = s.outer := by
  unfold jobEndedInFlush
  split <;> rfl

@[simp] theorem dropRequest_outer (s : State) : (dropRequest s).outer = s.outer := rfl

@[simp] theorem backgroundPassed_outer (g : Nat) (s : State) : (backgroundPassed g s).outer = s.outer := by
  unfold backgroundPassed
  split <;> simp

@[simp] theorem backgroundFailed_outer (g : Nat) (s : State) : (backgroundFailed g s).outer = s.outer := by
  unfold backgroundFailed
  split <;> simp

/-! ### Mounting -/

@[simp] theorem mountNotices_outer (m : Mount) (s : State) : (mountNotices m s).outer = s.outer := by
  unfold mountNotices
  (repeat' split) <;> simp

@[simp] theorem endMount_outer (m : Mount) (s : State) : (endMount m s).outer = s.outer := by
  have h : (mountNotices m (rebuilt m s)).outer = s.outer := by rw [mountNotices_outer]; rfl
  unfold endMount
  dsimp only
  split
  · exact (raise_outer ..).trans h
  · exact h

@[simp] theorem mountStep_outer (f : FrameRead) (s : State) : (mountStep f s).outer = s.outer := by
  unfold mountStep
  split
  · rfl
  · split
    · rfl
    · exact endMount_outer ..

end Sys2Proof.Machine
end

