-- ==== Sys2Proof/Laws/Memory.lean ====
section
/-!
SUPPORT. The laws of the canonical lists and of the medium: what a write makes a key read as, that it leaves every other
key alone, and that every operation keeps the canonical form.
-/

namespace Sys2Proof.Machine

open Sys2Proof

section Store

variable {α : Type} [DecidableEq α] {d : Nat → α}

/-- A write leaves every other key alone, whatever the list. -/
theorem storeGet_storePut_other {k j : Nat} (h : j ≠ k) (v : α) (m : List (Nat × α)) :
    storeGet d (storePut d k v m) j = storeGet d m j := by
  induction m with
  | nil =>
    unfold storePut
    split
    · rfl
    · simp [storeGet, Ne.symm h]
  | cons e t ih =>
    obtain ⟨a, w⟩ := e
    unfold storePut
    split
    · split
      · rfl
      · rw [storeGet, if_neg (Ne.symm h)]
    · split
      · rename_i hk
        subst hk
        split
        · rw [storeGet, if_neg (Ne.symm h)]
        · rw [storeGet, if_neg (Ne.symm h), storeGet, if_neg (Ne.symm h)]
      · rw [storeGet, storeGet, ih]

/-- A key below the first of a canonical list is unlisted. -/
theorem storeGet_below {k low : Nat} {m : List (Nat × α)} (h : storeWf d low m = true) (hk : k < low) :
    storeGet d m k = d k := by
  induction m generalizing low with
  | nil => rfl
  | cons e t ih =>
    obtain ⟨a, w⟩ := e
    unfold storeWf at h
    simp only [Bool.and_eq_true, decide_eq_true_eq] at h
    rw [storeGet, if_neg (by omega)]
    exact ih h.2 (by omega)

/-- A write to a canonical list is read back. -/
theorem storeGet_storePut_self {k low : Nat} {v : α} {m : List (Nat × α)} (h : storeWf d low m = true) :
    storeGet d (storePut d k v m) k = v := by
  induction m generalizing low with
  | nil =>
    unfold storePut
    split
    · rename_i hv; rw [hv]; rfl
    · simp [storeGet]
  | cons e t ih =>
    obtain ⟨a, w⟩ := e
    unfold storePut
    have h' := h
    unfold storeWf at h'
    simp only [Bool.and_eq_true, decide_eq_true_eq] at h'
    split
    · rename_i hk
      split
      · rename_i hv
        rw [storeGet, if_neg (by omega), storeGet_below h'.2 (by omega), hv]
      · simp [storeGet]
    · split
      · rename_i hk
        subst hk
        split
        · rename_i hv; rw [storeGet_below h'.2 (by omega), hv]
        · simp [storeGet]
      · rw [storeGet, if_neg (by omega)]
        exact ih h'.2

/-- A write of a value that no unlisted key holds is read back from any list. -/
theorem storeGet_storePut_listed {k : Nat} {v : α} (hv : v ≠ d k) (m : List (Nat × α)) :
    storeGet d (storePut d k v m) k = v := by
  induction m with
  | nil => unfold storePut; rw [if_neg hv]; simp [storeGet]
  | cons e t ih =>
    obtain ⟨a, w⟩ := e
    unfold storePut
    split
    · simp [storeGet]
    · split
      · simp [storeGet]
      · rw [storeGet, if_neg (by omega)]; exact ih

theorem storeWf_mono {low low' : Nat} {m : List (Nat × α)} (h : storeWf d low m = true) (hl : low' ≤ low) :
    storeWf d low' m = true := by
  cases m with
  | nil => rfl
  | cons e t =>
    obtain ⟨a, w⟩ := e
    unfold storeWf at h ⊢
    simp only [Bool.and_eq_true, decide_eq_true_eq] at h ⊢
    exact ⟨⟨by omega, h.1.2⟩, h.2⟩

/-- A write keeps the canonical form. -/
theorem storeWf_storePut {k low : Nat} {v : α} {m : List (Nat × α)} (h : storeWf d low m = true) (hk : low ≤ k) :
    storeWf d low (storePut d k v m) = true := by
  induction m generalizing low with
  | nil =>
    unfold storePut
    split
    · rfl
    · rename_i hv
      unfold storeWf
      simp [hk, hv, storeWf]
  | cons e t ih =>
    obtain ⟨a, w⟩ := e
    have h' := h
    unfold storeWf at h'
    simp only [Bool.and_eq_true, decide_eq_true_eq] at h'
    unfold storePut
    split
    · rename_i hka
      split
      · exact h
      · rename_i hv
        unfold storeWf
        simp only [Bool.and_eq_true, decide_eq_true_eq]
        refine ⟨⟨hk, hv⟩, ?_⟩
        unfold storeWf
        simp only [Bool.and_eq_true, decide_eq_true_eq]
        exact ⟨⟨by omega, h'.1.2⟩, h'.2⟩
    · split
      · rename_i hka
        subst hka
        split
        · exact storeWf_mono h'.2 (by omega)
        · rename_i hv
          unfold storeWf
          simp only [Bool.and_eq_true, decide_eq_true_eq]
          exact ⟨⟨hk, hv⟩, h'.2⟩
      · unfold storeWf
        simp only [Bool.and_eq_true, decide_eq_true_eq]
        exact ⟨h'.1, ih h'.2 (by omega)⟩

/-- Clearing a range keeps the canonical form. -/
theorem storeWf_storeClear {lo hi low : Nat} {m : List (Nat × α)} (h : storeWf d low m = true) :
    storeWf d low (storeClear lo hi m) = true := by
  induction m generalizing low with
  | nil => rfl
  | cons e t ih =>
    obtain ⟨a, w⟩ := e
    unfold storeWf at h
    simp only [Bool.and_eq_true, decide_eq_true_eq] at h
    unfold storeClear at ih ⊢
    rw [List.filter_cons]
    split
    · unfold storeWf
      simp only [Bool.and_eq_true, decide_eq_true_eq]
      exact ⟨h.1, ih h.2⟩
    · exact storeWf_mono (ih h.2) (by omega)

omit [DecidableEq α] in
/-- What a key reads as after a range was cleared. -/
theorem storeGet_storeClear (lo hi k : Nat) (m : List (Nat × α)) :
    storeGet d (storeClear lo hi m) k = if lo ≤ k ∧ k < hi then d k else storeGet d m k := by
  induction m with
  | nil => simp [storeClear, storeGet]
  | cons e t ih =>
    obtain ⟨a, w⟩ := e
    unfold storeClear at ih ⊢
    rw [List.filter_cons]
    by_cases hk : a = k
    · subst hk
      by_cases hin : lo ≤ a ∧ a < hi
      · rw [if_neg (by simp; omega), ih, if_pos hin, if_pos hin]
      · rw [if_pos (by simp; omega), if_neg hin]; simp [storeGet]
    · split
      · rw [storeGet, if_neg hk, ih, storeGet, if_neg hk]
      · rw [ih, storeGet, if_neg hk]

/-- Bytes written leave every key outside their range alone. -/
theorem storeGet_storeBytes_other {k j : Nat} {vs : List α} (h : j < k ∨ k + vs.length ≤ j) (m : List (Nat × α)) :
    storeGet d (storeBytes d k vs m) j = storeGet d m j := by
  induction vs generalizing k m with
  | nil => rfl
  | cons v vs ih =>
    simp only [List.length_cons] at h
    rw [storeBytes, ih (by omega), storeGet_storePut_other (by omega)]

theorem storeWf_storeBytes {k : Nat} {vs : List α} {m : List (Nat × α)} (h : storeWf d 0 m = true) :
    storeWf d 0 (storeBytes d k vs m) = true := by
  induction vs generalizing k m with
  | nil => exact h
  | cons v vs ih => exact ih (storeWf_storePut h (Nat.zero_le _))

/-- Bytes written to a canonical list are read back, each at its place. -/
theorem storeGet_storeBytes_self {k i : Nat} {vs : List α} {m : List (Nat × α)} (h : storeWf d 0 m = true)
    (hi : i < vs.length) : storeGet d (storeBytes d k vs m) (k + i) = vs[i] := by
  induction vs generalizing k m i with
  | nil => simp at hi
  | cons v vs ih =>
    rw [storeBytes]
    cases i with
    | zero =>
      rw [storeGet_storeBytes_other (by omega), Nat.add_zero]
      exact storeGet_storePut_self h
    | succ i =>
      have := ih (k := k + 1) (i := i) (storeWf_storePut (v := v) (k := k) h (Nat.zero_le _)) (by simpa using hi)
      rw [show k + (i + 1) = k + 1 + i by omega, this]
      rfl

end Store

/-! ### The medium -/

theorem Medium.wf_iff (m : Medium) :
    m.wf = true ↔ storeWf Config.unlisted 0 m.mem = true ∧ storeWf unlistedMargin 0 m.margins = true := by
  unfold Medium.wf Memory.wf; simp

theorem Medium.wf_write {m : Medium} (h : m.wf = true) (seg frame lo : Nat) (bytes : List Byte) :
    (m.write seg frame lo bytes).wf = true := by
  rw [Medium.wf_iff] at h ⊢
  exact ⟨storeWf_storeBytes h.1, h.2⟩

theorem Medium.wf_setMargin {m : Medium} (h : m.wf = true) (seg frame : Nat) (g : Margin) :
    (m.setMargin seg frame g).wf = true := by
  rw [Medium.wf_iff] at h ⊢
  exact ⟨h.1, storeWf_storePut h.2 (Nat.zero_le _)⟩

theorem Medium.wf_setFrame {m : Medium} (h : m.wf = true) (seg frame : Nat) (c : FrameContent) :
    (m.setFrame seg frame c).wf = true :=
  Medium.wf_setMargin (Medium.wf_write (Medium.wf_write h ..) ..) ..

theorem Medium.wf_eraseFrom {m : Medium} (h : m.wf = true) (seg first : Nat) : (m.eraseFrom seg first).wf = true := by
  rw [Medium.wf_iff] at h ⊢
  exact ⟨storeWf_storeClear h.1, storeWf_storeClear h.2⟩

theorem Medium.wf_setFrames {m : Medium} (h : m.wf = true) (seg i : Nat) (cs : List FrameContent) :
    (m.setFrames seg i cs).wf = true := by
  induction cs generalizing m i with
  | nil => exact h
  | cons c cs ih =>
    unfold Medium.setFrames
    split
    · exact ih (Medium.wf_setFrame h ..) _
    · exact h

theorem Medium.wf_portion {m : Medium} (h : m.wf = true) (p : Program) (bytes : List Byte) (e : Option PortionEntry)
    (l : Option Label) : (m.portion p bytes e l).wf = true :=
  Medium.wf_setMargin (Medium.wf_write h ..) ..

/-- A PROGRAM that ends keeps the canonical form. -/
theorem Medium.wf_endProgram {m : Medium} (h : m.wf = true) (p : Program) (r : ProgramResult) :
    (m.endProgram p r).wf = true := by
  cases r <;> exact Medium.wf_portion h ..

/-- An ERASE that ends keeps the canonical form. -/
theorem Medium.wf_endErase {m : Medium} (h : m.wf = true) (seg : Nat) (r : EraseResult) :
    (m.endErase seg r).wf = true := by
  cases r
  · exact Medium.wf_eraseFrom h ..
  · exact Medium.wf_setFrames h ..

/-- An operation cut keeps the canonical form. -/
theorem Medium.wf_cut {m : Medium} (h : m.wf = true) (op : Op) (c : Cut) : (m.cut op c).wf = true := by
  unfold Medium.cut
  split
  · exact h
  · unfold Medium.cutProgram
    split
    · exact h
    · exact Medium.wf_portion h ..
    · exact Medium.wf_portion h ..
    · exact Medium.wf_portion h ..
    · exact h
  · unfold Medium.cutErase
    split
    · split
      · exact Medium.wf_eraseFrom h ..
      · split
        · exact Medium.wf_setFrame (Medium.wf_eraseFrom h ..) ..
        · exact h
    · exact h

/-- The medium of the machine right after reset is in canonical form. -/
theorem reset_medium_wf : State.reset.medium.wf = true := rfl

/-- A byte outside the range of a PROGRAM reads as before. -/
theorem Medium.byte_portion_other {m : Medium} (p : Program) (bytes : List Byte) (e : Option PortionEntry)
    (l : Option Label) {a : Nat}
    (h : a < Config.address p.segment p.frame p.lo ∨ Config.address p.segment p.frame p.lo + (p.hi - p.lo) ≤ a) :
    (m.portion p bytes e l).byte a = m.byte a := by
  unfold Medium.portion Medium.byte Medium.setMargin Medium.write
  refine storeGet_storeBytes_other ?_ _
  simp only [List.length_take]
  omega

/-- A byte of a passed PROGRAM's range reads as programmed. -/
theorem Medium.byte_portion_self {m : Medium} (hm : m.wf = true) (p : Program) (bytes : List Byte)
    (e : Option PortionEntry) (l : Option Label) {i : Nat} (hi : i < bytes.length) (h1 : i < p.hi - p.lo)
    (h2 : p.hi ≤ 512) :
    (m.portion p bytes e l).byte (Config.address p.segment p.frame p.lo + i) = bytes[i] := by
  unfold Medium.portion Medium.byte Medium.setMargin Medium.write
  have hl : i < ((bytes.take (p.hi - p.lo)).take (512 - p.lo)).length := by
    simp only [List.length_take]; omega
  have := storeGet_storeBytes_self (d := Config.unlisted) (k := Config.address p.segment p.frame p.lo)
    ((Medium.wf_iff m).1 hm).1 hl
  refine this.trans ?_
  simp

/-- The margin of another frame is as before. -/
theorem Medium.margin_portion_other {m : Medium} (p : Program) (bytes : List Byte) (e : Option PortionEntry)
    (l : Option Label) {seg frame : Nat} (h : frameNumber seg frame ≠ frameNumber p.segment p.frame) :
    (m.portion p bytes e l).margin seg frame = m.margin seg frame :=
  storeGet_storePut_other h _ _

/-- A byte after the ERASE of a segment: the unlisted value in it, as before outside. -/
theorem Medium.byte_erase (m : Medium) (seg a : Nat) :
    (m.erase seg).byte a =
      if Config.address seg 0 0 ≤ a ∧ a < Config.address seg 32 0 then Config.unlisted a else m.byte a :=
  storeGet_storeClear ..

/-- A margin after the ERASE of a segment. -/
theorem Medium.margin_erase (m : Medium) (seg g frame : Nat) :
    (m.erase seg).margin g frame =
      if frameNumber seg 0 ≤ frameNumber g frame ∧ frameNumber g frame < frameNumber seg 32 then
        unlistedMargin (frameNumber g frame)
      else m.margin g frame :=
  storeGet_storeClear ..

end Sys2Proof.Machine
end

