-- ==== Sys2Proof/Laws/Rows.lean ====
section
/-!
SUPPORT. The rows in the words of the statements: a dispatch row whose command completes or goes on, and a row that moves
the DISPATCHED command on.
-/

namespace Sys2Proof.Machine

open Sys2Proof

/-- The state in which a dispatched command executes, written out. -/
abbrev takenState (s : State) (f : CmdFrame) (c : Cmd) : State :=
  { s with sequencer := takenSequencer s f c, events := roomEvents s }

/-- A dispatch row whose command completes. -/
theorem completes {i : Instr} {s u w : State} {f : CmdFrame} {c : Cmd} {o : Outcome} {x : Option Dispatched}
    (h : Dispatches s f c) (hi : rowOf c = i)
    (hw : runOf c (newDispatched s f c) (takenState s f c) = complete (newDispatched s f c) o w)
    (hd : u.sequencer.deferred = s.sequencer.deferred) (hu : u.events = s.events) (he : w.events = roomEvents s) (h1 : w.cpl = u.cpl)
    (h2 : w.streams = u.streams) (h3 : w.write.jobs = u.write.jobs)
    (h4 : w.sequencer.deferred = u.sequencer.deferred) (h5 : w.engine.request = u.engine.request)
    (h6 : w.guard = u.guard) (hh : w.held = { u.held.taken with dispatched := x }) : Completes i s f c o u := by
  refine ⟨_, hi ▸ exec_rowOf c h.ready, ?_⟩
  replace hw := (congrArg (runOf c _) (afterTake_eq s f c)).trans hw
  rw [dispatch_of h (by rw [hw, (complete_work ..).2.2, h4, hd]), hw]
  exact taken_complete h.ready hu he h1 h2 h3 h4 h5 h6 hh

/-- A dispatch row whose command goes on in a phase. -/
theorem goesOn {i : Instr} {s u w : State} {f : CmdFrame} {c : Cmd} {p : Option Dispatched}
    (h : Dispatches s f c) (hi : rowOf c = i) (hw : runOf c (newDispatched s f c) (takenState s f c) = w)
    (hd : u.sequencer.deferred = s.sequencer.deferred) (hu : u.events = s.events) (he : w.events = roomEvents s) (h1 : w.cpl = u.cpl)
    (h2 : w.streams = u.streams) (h3 : w.write.jobs = u.write.jobs)
    (h4 : w.sequencer.deferred = u.sequencer.deferred) (h5 : w.engine.request = u.engine.request)
    (h6 : w.guard = u.guard) (hh : w.held = { u.held.taken with dispatched := p }) :
    ∃ t, exec i s = .next t ∧ Taken s u t p none := by
  refine ⟨_, hi ▸ exec_rowOf c h.ready, ?_⟩
  replace hw := (congrArg (runOf c _) (afterTake_eq s f c)).trans hw
  rw [dispatch_of h (by rw [hw, h4, hd]), hw]
  exact taken_goesOn h.ready hu he h1 h2 h3 h4 h5 h6 hh

/-- The state once the frame of a deferred command has left the queue, written out. -/
abbrev retiredState (s u : State) : State :=
  { u with
    sequencer := { u.sequencer with
      queue := u.sequencer.queue.drop 1, dispatched := none, arm := none, nextId := u.sequencer.nextId + 1 }
    events := roomEvents s }

/-- What the signalling of ROOM leaves, written out. -/
theorem signalRoom_eq (b : Bool) (v : State) : signalRoom b v = { v with events := { v.events with latched :=
    if (!b && cmdRoom v) && !v.events.holdClear then v.events.latched ||| 0x02 else v.events.latched } } := by
  unfold signalRoom raise
  cases (!b && cmdRoom v)
  · rfl
  · cases h : v.events.holdClear
    · rfl
    · simp only [Bool.not_true, Bool.and_false, Bool.false_eq_true, if_false, if_true]

/-- The frame has left the queue, where the event bits and what CMD_ROOM reads from are as in `s`. -/
theorem takeHead_eq {s u : State} (hu : u.events = s.events) (hh : u.host = s.host) (hp : u.power.soft = s.power.soft)
    (hq : u.sequencer.queue = s.sequencer.queue) : takeHead none u = retiredState s u := by
  rw [takeHead, signalRoom_eq]
  simp only [retiredState, roomEvents, cmdRoom, hu, hh, hp, hq]
  rfl

/-- A dispatch row whose command defers (R30). -/
theorem defers {i : Instr} {s u : State} {f : CmdFrame} {c : Cmd} (h : Dispatches s f c) (hi : rowOf c = i)
    (hw : runOf c (newDispatched s f c) (takenState s f c) = retiredState s u)
    (hu : u.events = s.events) (hh : u.host = s.host) (hp : u.power.soft = s.power.soft)
    (hd : s.sequencer.deferred.length < u.sequencer.deferred.length) (hq : u.sequencer.queue = s.sequencer.queue) :
    Defers i s u := by
  have ht := takeHead_eq hu hh hp hq
  have hv := (congrArg (runOf c _) (afterTake_eq s f c)).trans (hw.trans ht.symm)
  refine afterDeferral (hi ▸ (exec_rowOf c h.ready).trans (congrArg _ (dispatch_deferred h hv ?_ ?_))) ?_
  · rw [ht]; exact hd
  · rw [ht]; exact congrArg (List.drop 1) hq
  · rw [ht]
    exact taken_goesOn h.ready hu rfl rfl rfl rfl rfl rfl rfl (by simp only [State.held, Held.taken, hu, roomEvents])

/-- The DISPATCHED command defers in this row (R30). -/
theorem defersAs {i : Instr} {s u : State} {d : Dispatched} {k : DeferredKind}
    (hi : exec i s = .next (settle (choose (dispatchFrames (u.deferring d k))))) : DefersAs i s d k u :=
  afterDeferral hi (near_of rfl rfl rfl rfl rfl rfl rfl).settled

/-- A row of a wait that moves the DISPATCHED command on to its completion. -/
theorem ends {i : Instr} {s u w : State} {d : Dispatched} {o : Outcome}
    (hi : exec i s = .next (settle (choose (complete d o w)))) (h1 : w.cpl = u.cpl)
    (h2 : w.streams = u.streams) (h3 : w.write.jobs = u.write.jobs)
    (h4 : w.sequencer.deferred = u.sequencer.deferred) (h5 : w.engine.request = u.engine.request)
    (h6 : w.guard = u.guard) (h7 : w.events = u.events)
    (hh : { w.held with dispatched := none } = { u.held with dispatched := none }) : Ends i s d o u := by
  refine ⟨_, hi, ?_⟩
  have k := ((near_of h1 h2 h3 h4 h5 h6 h7).complete d o).settled
  rw [(complete_spec d o w).1, hh] at k
  exact k

/-- A row of a wait after which the DISPATCHED command is in another phase. -/
theorem continues {i : Instr} {s u w : State} {d : Dispatched} {p : Phase}
    (hi : exec i s = .next (settle (choose w))) (h1 : w.cpl = u.cpl)
    (h2 : w.streams = u.streams) (h3 : w.write.jobs = u.write.jobs)
    (h4 : w.sequencer.deferred = u.sequencer.deferred) (h5 : w.engine.request = u.engine.request)
    (h6 : w.guard = u.guard) (h7 : w.events = u.events)
    (hh : w.held = { u.held with dispatched := some { d with phase := p } }) : Continues i s d p u := by
  refine ⟨_, hi, ?_⟩
  have k := (near_of h1 h2 h3 h4 h5 h6 h7).settled
  rw [hh] at k
  exact k

/-- A stream replaced by itself. -/
theorem setStream_self (n : Nat) (s : State) : setStream n (streamOf s n) s = s := by
  have h : s.streams.set n (streamOf s n) = s.streams := by
    unfold streamOf
    rw [List.getD_eq_getElem?_getD]
    apply List.ext_getElem?
    intro i
    rw [List.getElem?_set]
    split
    · rename_i hi
      subst hi
      split
      · simp [*]
      · rw [List.getElem?_eq_none]; omega
    · rfl
  unfold setStream
  rw [h]

end Sys2Proof.Machine
end

