-- ==== Sys2Proof/Laws/Syncing.lean ====
section
/-!
SUPPORT. What a barrier's emission of jobs can do, said once: each pending tail becomes one job, in ascending stream order
(R77, R81); and what the bounds of a mount candidate can be (R166).
-/

namespace Sys2Proof.Machine

open Sys2Proof

/-- A stream with pending bytes has a tail at a place and an entry of its own. -/
theorem pending_pos {s : State} {n : Nat} (h : 0 < pendingBytes (streamOf s n).tail) :
    n < s.streams.length ∧ ∃ p, (streamOf s n).tail = .pos p ∧ p.unprog < p.offset := by
  constructor
  · rcases Nat.lt_or_ge n s.streams.length with hn | hn
    · exact hn
    · simp [streamOf, List.getD_eq_getElem?_getD, List.getElem?_eq_none hn, Stream.blank, pendingBytes] at h
  · revert h
    cases (streamOf s n).tail with
    | pos p => exact fun h => ⟨p, rfl, by simp only [pendingBytes] at h; omega⟩
    | none => simp [pendingBytes]
    | exhausted => simp [pendingBytes]

/-- A job made of pending bytes, and the tail after it, are those `syncedBy` names. -/
theorem remainderJob_syncedBy (t : Stream) (n : Nat) (p : TailPos) :
    remainderJob n (incarnationOf t) (topGeneration t) p = syncedBy t n p := by
  unfold remainderJob syncedBy
  split <;> rfl

/-- One pending tail synced: its job joins the queue, its entry has the tail after it, and nothing else changes. -/
theorem syncTail_pending {s : State} {n : Nat} {p : TailPos} (h : (streamOf s n).tail = .pos p) (hp : p.unprog < p.offset) :
    syncTail n s = s.withSynced n p := by
  simp only [syncTail, h, if_pos hp, remainderJob_syncedBy]
  rfl

/-- The entry of a stream after one tail was synced. -/
theorem streamOf_withSynced {s : State} {n : Nat} {p : TailPos} (hn : n < s.streams.length) (m : Nat) :
    streamOf (s.withSynced n p) m =
      if n = m then { streamOf s n with tail := (syncedBy (streamOf s n) n p).2 } else streamOf s m :=
  (streamOf_setStream n m _ s).trans (by simp [hn])

/-- Several pending tails synced, each once: what `Synced` says. -/
theorem syncTails_synced {ns : List Nat} (hd : ns.Nodup) {s : State}
    (hp : ∀ n ∈ ns, 0 < pendingBytes (streamOf s n).tail) : Synced s ns (syncTails ns s) := by
  induction ns generalizing s with
  | nil => exact ⟨by simp [syncTails], fun _ _ h => (by cases h), fun _ _ => rfl⟩
  | cons n ns ih =>
    obtain ⟨hn, p, ht, hlt⟩ := pending_pos (hp n List.mem_cons_self)
    obtain ⟨hnot, hd'⟩ := List.nodup_cons.mp hd
    have other : ∀ m ∈ ns, streamOf (s.withSynced n p) m = streamOf s m := fun m hm => by
      rw [streamOf_withSynced hn, if_neg (fun e : n = m => hnot (e ▸ hm))]
    have jobs : ns.filterMap (syncedJob (s.withSynced n p)) = ns.filterMap (syncedJob s) :=
      List.filterMap_congr (fun m hm => by simp only [syncedJob, other m hm])
    have r := ih hd' (s := s.withSynced n p) (fun m hm => by rw [other m hm]; exact hp m (List.mem_cons_of_mem _ hm))
    rw [syncTails, syncTail_pending ht hlt]
    refine ⟨?_, fun m q hm hq => ?_, fun m hm => ?_⟩
    · rw [r.rest, jobs, List.filterMap_cons_some (show syncedJob s n = some (syncedBy (streamOf s n) n p).1 by
        simp only [syncedJob, ht])]
      simp [State.withSynced, State.withStream, State.withJobs]
    · rcases List.mem_cons.mp hm with rfl | hm
      · cases ht.symm.trans hq
        rw [r.others _ hnot, streamOf_withSynced hn, if_pos rfl]
      · rw [r.carried m q hm (by rw [other m hm]; exact hq), other m hm]
    · rw [r.others m (fun h => hm (List.mem_cons_of_mem _ h)), streamOf_withSynced hn,
        if_neg (fun e : n = m => hm (e ▸ List.mem_cons_self))]

/-- A barrier syncs every pending tail once. -/
theorem pendingStreams_synced (s : State) : Synced s (pendingStreams s) (syncTails (pendingStreams s) s) :=
  syncTails_synced (List.nodup_range.filter _) (fun _ h => of_decide_eq_true (List.mem_filter.mp h).2)

/-! ### The bounds of a mount candidate -/

/-- The last sequence is that of a whole record on the walk from some start point, or one below the first (R166). -/
theorem lastWhole_cases (vs : List (Nat × View)) (c : Candidate) :
    lastWhole vs c = c.first - 1 ∨
    ∃ e ∈ vs, ∃ x h, e.2.start = some x ∧ h ∈ hitsFrom vs c.stream (e.1, x) ∧ wholeRecord vs h = true ∧
      lastWhole vs c = h.seq := by
  rcases hf : vs.reverse.findSome? (fun e =>
    e.2.start.bind (fun x => ((hitsFrom vs c.stream (e.1, x)).filter (wholeRecord vs)).getLast?)) with _ | h
  · exact .inl (by rw [lastWhole, hf]; rfl)
  · obtain ⟨e, he, hx⟩ := List.exists_of_findSome?_eq_some hf
    obtain ⟨x, hs, hl⟩ := Option.bind_eq_some_iff.mp hx
    obtain ⟨hm, hw⟩ := List.mem_filter.mp (List.mem_of_getLast? hl)
    exact .inr ⟨e, List.mem_reverse.mp he, x, h, hs, hm, hw, by rw [lastWhole, hf]; rfl⟩

end Sys2Proof.Machine
end

