-- ==== Sys2Proof/Tests/Slice0.lean ====
section
/-!
SUPPORT. The model's own tests: ill-formed commands that WellFormed refuses, frames of known bytes, single steps with
results taken from spec/, and for every statement a witness, one state and operands that meet its hypotheses, clause by
clause, at a boundary value where a clause has a range.
-/

namespace Sys2Proof.Machine

-- One theorem after another: kernel evaluations side by side would hold a thread each.
set_option Elab.async false

open Sys2Proof

/-! ### WellFormed refuses -/

theorem test_abort_without_its_bit : (Instr.abort 0x02).wellFormed = false := by decide
theorem test_srst_without_its_bit : (Instr.softReset 0x01).wellFormed = false := by decide
theorem test_discard_without_its_bit : (Instr.rspDiscard 0x08).wellFormed = false := by decide
theorem test_rewind_without_its_bit : (Instr.cplRewind 0x04).wellFormed = false := by decide

/-- An end offset of 0 and one above 512 (Table 3-3). -/
theorem test_entry_out_of_frame :
    (PortionEntry.mk 0 false false true).wellFormed = false ∧ (PortionEntry.mk 513 false false true).wellFormed = false := by
  decide

/-- A stream of 8, a frame index of 32, a first offset of 512 (Table 3-2). -/
theorem test_label_out_of_range :
    (Label.mk .data 8 0 0 0 none 0 true).wellFormed = false ∧ (Label.mk .data 0 32 0 0 none 0 true).wellFormed = false ∧
    (Label.mk .data 0 0 4294967296 0 none 0 true).wellFormed = false ∧
    (Label.mk .data 0 0 0 4294967296 none 0 true).wellFormed = false ∧
    (Label.mk .data 0 0 0 0 none 4294967296 true).wellFormed = false ∧
    (Label.mk .data 0 0 0 0 (some 512) 0 true).wellFormed = false := by
  decide

/-- Five portions, 513 bytes, an entry and a label out of range (R44, R49). -/
theorem test_frame_content_too_large :
    (FrameContent.mk none (List.replicate 5 ⟨512, false, false, true⟩) []).wellFormed = false ∧
    (FrameContent.mk none [] (List.replicate 513 0)).wellFormed = false ∧
    (FrameContent.mk none [⟨513, false, false, true⟩] []).wellFormed = false ∧
    (FrameContent.mk (some (Label.mk .data 8 0 0 0 none 0 true)) [] []).wellFormed = false := by
  decide +kernel

/-- What a failed program leaves beyond its frame. -/
theorem test_leftover_too_large :
    (ProgramResult.fail ⟨some ⟨513, false, false, true⟩, none, []⟩).wellFormed = false ∧
    (ProgramResult.fail ⟨none, some (Label.mk .data 8 0 0 0 none 0 true), []⟩).wellFormed = false ∧
    (ProgramResult.fail ⟨none, none, List.replicate 513 0⟩).wellFormed = false := by
  decide +kernel

/-- Thirty-three frames, or one that is too large, left by a failed erase. -/
theorem test_erase_result_too_large :
    (EraseResult.fail (List.replicate 33 ⟨none, [], []⟩)).wellFormed = false ∧
    (EraseResult.fail [⟨none, [⟨0, false, false, true⟩], []⟩]).wellFormed = false := by
  decide +kernel

/-- Five portions read, a codeword of 513 bytes, a label out of range. -/
theorem test_noise_too_large :
    (Instr.arrayReadEnd ⟨List.replicate 5 ⟨none, 0, false, false, none⟩, [], none, false, none⟩).wellFormed = false ∧
    (Instr.arrayReadEnd ⟨[⟨none, 0, false, false, some ⟨0, false, false, List.replicate 513 0⟩⟩], [], none,
      false, none⟩).wellFormed = false ∧
    (Instr.arrayReadEnd ⟨[], List.replicate 513 0, none, false, none⟩).wellFormed = false ∧
    (Instr.arrayReadEnd ⟨[], [], none, false, some (Label.mk .data 8 0 0 0 none 0 true)⟩).wellFormed = false := by
  decide +kernel

/-- A cut at frame 32, a label, bytes and a frame out of range (R61). -/
theorem test_cut_out_of_range :
    (Cut.partlyErased 32 ⟨none, [], []⟩).wellFormed = false ∧
    (Cut.partlyErased 0 ⟨none, [⟨0, false, false, true⟩], []⟩).wellFormed = false ∧
    (Cut.partlyErased 0 ⟨none, [], [0x00]⟩).wellFormed = false ∧ (Cut.partlyErased 1 ⟨none, [], [0x00]⟩).wellFormed = true ∧
    (Cut.entryOnly (some (Label.mk .data 8 0 0 0 none 0 true))).wellFormed = false ∧
    (Cut.incompleteData (List.replicate 513 0)).wellFormed = false := by
  decide +kernel

/-- Fields wider than Table 2-1 gives them. -/
theorem test_cmd_fields_too_wide :
    (Cmd.defineStream 256 0 1 []).wellFormed = false ∧ (Cmd.defineStream 0 256 1 []).wellFormed = false ∧
    (Cmd.defineStream 0 0 65536 []).wellFormed = false ∧
    (Cmd.defineStream 0 0 1 (List.replicate 13 0)).wellFormed = false ∧ (Cmd.deleteStream 256).wellFormed = false ∧
    (Cmd.queryStream 256).wellFormed = false ∧ (Cmd.trimStream 0 4294967296).wellFormed = false ∧
    (Cmd.append 0 []).wellFormed = false ∧ (Cmd.append 0 (List.replicate 513 0)).wellFormed = false ∧
    (Cmd.commit 256 0).wellFormed = false ∧ (Cmd.cancel 256).wellFormed = false ∧
    (Cmd.readRecord 0 4294967296).wellFormed = false ∧ (Cmd.seek 0 256 0).wellFormed = false ∧
    (Cmd.readNext 256).wellFormed = false ∧ (Cmd.unlockRange 65536 0 0).wellFormed = false ∧
    (Cmd.unlockRange 0 65536 0).wellFormed = false ∧ (Cmd.unlockRange 0 0 256).wellFormed = false ∧
    (Cmd.segmentStatus 65536).wellFormed = false ∧ (Cmd.sealStream 0 4294967296).wellFormed = false ∧
    (Cmd.vaultWrite 0 []).wellFormed = false ∧ (Cmd.vaultRead 256).wellFormed = false ∧
    (Cmd.getOption 256).wellFormed = false ∧ (Cmd.setOption 0 256).wellFormed = false ∧
    (Cmd.setAlarm 256 0).wellFormed = false := by
  decide +kernel

/-! ### Frames of known bytes (Table 2-1) -/

theorem test_decode_read_record : decodeCmd 0x30 [0x03, 0x2A, 0x01, 0x00, 0x00] = some (.readRecord 3 298) := by decide
theorem test_decode_define : decodeCmd 0x10 [0x02, 0x01, 0x04, 0x03, 0x41] = some (.defineStream 2 1 772 [0x41]) := by
  decide
theorem test_decode_unlock : decodeCmd 0x41 [0x64, 0x00, 0xC7, 0x00, 0x01] = some (.unlockRange 100 199 1) := by decide
theorem test_decode_set_alarm : decodeCmd 0x72 [0x01, 0x78, 0x56, 0x34, 0x12] = some (.setAlarm 1 0x12345678) := by decide
theorem test_decode_arm : decodeCmd 0x48 [0x4A, 0xB5] = some (.arm 0x4A 0xB5) := by decide
theorem test_decode_append : decodeCmd 0x20 [0x07, 0xAA] = some (.append 7 [0xAA]) ∧ decodeCmd 0x20 [0x07] = none := by
  decide
theorem test_decode_wrong_length : decodeCmd 0x23 [0x00] = none ∧ decodeCmd 0x22 [] = none := by decide
theorem test_decode_unknown_opcode : decodeCmd 0x24 [] = none ∧ decodeCmd 0x00 [] = none := by decide
theorem test_table_has_no_words : decodeTableWord 8 0x30 = none := by decide
theorem test_encode_frame : encodeFrame (.readRecord 3 298) 0x55 = [0x30, 0x55, 5, 0, 3, 0x2A, 0x01, 0, 0] := by decide

/-! ### States for the tests -/

/-- A device in READY with a small pool, no stream and the engine idle. -/
def ready : State :=
  { State.reset with
    engine := Engine.fresh
    segments := { map := [], pool := [5, 6, 7, 8] }
    power := { State.reset.power with state := .awake .ready, mount := none, powerOnMark := false } }

/-- The frame of a command, with tag 0x21. -/
def frameOf (c : Cmd) : CmdFrame := { opcode := c.code, tag := 0x21, payload := encodePayload c, oversize := false }

/-- A command's frame at the head of the Command Queue. -/
def front (c : Cmd) (s : State) : State := { s with sequencer := { s.sequencer with queue := [frameOf c] } }

/-- The command is dispatched without a fault. -/
def passes (c : Cmd) (s : State) : Bool :=
  decide (goodHead (front c s) = some (frameOf c, c)) && dispatchReady (front c s) && dispatchFault (front c s) c == none

theorem dispatches_of {c : Cmd} {s : State} (h : passes c s = true) : Dispatches (front c s) (frameOf c) c := by
  simp only [passes, Bool.and_eq_true, decide_eq_true_eq, beq_iff_eq] at h
  exact ⟨h.1.1, h.1.2, h.2⟩

/-- What a row leaves, as a state. -/
def after (i : Instr) (s : State) : State :=
  match exec i s with
  | .next t => t
  | .fault _ => s
  | .refused _ => s

/-- The outcome, value and aux of the completion posted last. -/
def lastReply (s : State) : Option (Result × Nat × Nat) :=
  s.cpl.records.getLast?.map (fun c => (c.result, c.value.toNat, c.aux.toNat))

/-- The state with another Guard Unit. -/
def guardedBy (g : GuardUnit → GuardUnit) (s : State) : State := { s with guard := g s.guard }

/-- GUARD_N is low. -/
def low (g : GuardUnit) : GuardUnit := { g with level := false }

/-- Locks ACTIVE with this range. -/
def active (r : Option LockRange) (g : GuardUnit) : GuardUnit := { g with mode := .active, range := r }

/-- The definition of the streams of the tests. -/
def def0 : Definition := { mode := .linear, quota := 2, name := [0x41], incarnation := 1, archived := false }

/-- A chain entry of segment `g` with generation `k`. -/
def entry (g k first last : Nat) : ChainEntry :=
  { segment := g, generation := k, first := first, last := last, isSealed := false, isRetired := false }

/-- An empty OPEN stream. -/
def empty0 : Stream := { Stream.blank with defn := some def0, state := .opened, cursor := 1 }

/-- A tail in frame 0 of segment 9 with `n` bytes, none of them programmed yet, of one record of sequence `q`. -/
def tail9 (n q : Nat) : TailPos :=
  { segment := 9, frame := 0, offset := n, portions := 0, unprog := 0, image := List.replicate n 0x11,
    header := some (0, q), ends := [(n, q)] }

/-- The same with everything programmed in one portion. -/
def tailDone (n q : Nat) : TailPos := { tail9 n q with portions := 1, unprog := n, ends := [] }

/-- A stream of the records 1 to 3 in segment 9, all of them durable. -/
def three : Stream :=
  { defn := some def0, state := .opened, chain := [entry 9 1 1 3], oldest := 1, newest := 3, durable := 3, cursor := 1,
    resumed := false, tail := .pos (tailDone 60 1) }

/-- The same with the last record pending. -/
def pending3 : Stream := { three with durable := 2, tail := .pos { tail9 60 1 with ends := [(60, 3)] } }

/-- The machine with stream 0, its newest segment open unless it is SEALED. -/
def with0 (t : Stream) (s : State) : State :=
  match t.chain.getLast? with
  | some e => updSeg e.segment (fun g => { g with state := .owned, owner := some 0, isOpen := !e.isSealed }) (s.withStream 0 t)
  | none => s.withStream 0 t

/-- A staged record of stream `n` with `k` bytes. -/
def staged (n k : Nat) (s : State) : State :=
  s.withStaging (some { stream := n, bytes := List.replicate k 0x5A, owned := false })

/-- A job over bytes 0 to 16 of frame 0 of segment `g`, for stream `n`, that names command `id`. -/
def job (n : Option Nat) (g id : Nat) : Job :=
  { kind := .portion, stream := n, segment := g, frame := 0, portion := 0, lo := 0, hi := 16, image := List.replicate 16 0x11,
    pad := false, damaged := false, label := none, seqs := [3], released := [id] }

/-- A command past its dispatch. -/
def inPhase (c : Cmd) (p : Phase) (s : State) : State :=
  { s with sequencer := { s.sequencer with
      dispatched := some { id := 0, tag := 0x21, opcode := c.code, cmd := c, eager := false, abortLate := false, phase := p } } }

/-- The engine performs an operation. -/
def performing (who : Requester) (op : Op) (s : State) : State :=
  { s with engine := { s.engine with op := some { who := who, op := op } } }

theorem performs_of {s : State} {who : Requester} {op : Op} (h1 : isAwake s = true) (h2 : nothingDue s = true)
    (h3 : inProgress who s = some op) : Performs s who op := ⟨h1, h2, h3⟩

/-- The latch holds an offset. -/
def at_ (o : BitVec 4) (s : State) : State := { s with host := { s.host with latch := o } }

/-- An access at this offset reaches its register. -/
def canAccess (o : BitVec 4) (s : State) : Bool :=
  windowLive s && s.host.latch == o && decide (s.power.state ≠ .doze) && decide (s.power.entryDue ≠ some .doze)

theorem accessible_of {o : BitVec 4} {s : State} (h : canAccess o s = true) : Accessible s o := by
  simp only [canAccess, Bool.and_eq_true, decide_eq_true_eq, beq_iff_eq] at h
  exact ⟨h.1.1.1, h.1.1.2, h.1.2, h.2⟩

theorem accessible_ready (o : BitVec 4) : Accessible (at_ o ready) o := accessible_of (by revert o; decide)

/-! ### The Host Port -/

/-- A device whose assembler stands at `a`. -/
def assembling (a : Assembler) : State :=
  { at_ 0x0 ready with host := { (at_ 0x0 ready).host with assembler := a } }

/-- Eight frames wait. -/
def crowded (s : State) : State :=
  { s with sequencer := { s.sequencer with queue := List.replicate 8 (frameOf .sync) } }

theorem witness_StepRunsTheFrontCommand : ready.pending = [] := rfl

theorem witness_FramesReadBackAsWritten :
    (Cmd.append 255 (List.replicate 512 0xFF)).wellFormed = true ∧ (Cmd.defineStream 0 255 65535 []).wellFormed = true ∧
    decodeCmd 0x20 [0x07, 0xAA] = some (.append 7 [0xAA]) := by
  decide +kernel

theorem witness_FrameWrittenToCmdinIsQueued :
    Accessible (at_ 0x0 ready) 0x0 ∧ cmdRoom (at_ 0x0 ready) = true ∧ Cmd.sync.wellFormed = true ∧
    (Cmd.append 0 [0]).wellFormed = true :=
  ⟨accessible_ready 0x0, by decide, by decide, by decide⟩

theorem witness_LatchAndRegisterWrites :
    windowLive ready = true ∧ windowLive { ready with power := { ready.power with state := .dead } } = false ∧
    Accessible (at_ 0x5 ready) 0x5 ∧ Accessible (at_ 0x6 ready) 0x6 ∧ Accessible (at_ 0x1 ready) 0x1 ∧
    Accessible (at_ 0xF ready) 0xF ∧ (0xF : BitVec 4) ≠ 0x0 :=
  ⟨by decide, by decide, accessible_ready _, accessible_ready _, accessible_ready _, accessible_ready _, by decide⟩

theorem witness_CmdinByteByAssemblerState :
    Accessible (at_ 0x0 ready) 0x0 ∧ cmdRoom (at_ 0x0 ready) = true ∧
    Accessible (crowded (at_ 0x0 ready)) 0x0 ∧ cmdRoom (crowded (at_ 0x0 ready)) = false ∧
    (assembling (.header [0x30, 1])).host.assembler = .header [0x30, 1] ∧ ([0x30, 1] : List Byte).length < 3 ∧
    513 < (0x02 : Byte).toNat + 256 * (0x02 : Byte).toNat ∧ (0x01 : Byte).toNat + 256 * (0x02 : Byte).toNat = 513 ∧
    1 ≤ (0x01 : Byte).toNat + 256 * (0x00 : Byte).toNat ∧
    Accessible (assembling (.payload 0x30 1 2 [])) 0x0 ∧ ([] : List Byte).length + 1 < 2 ∧
    Accessible (assembling (.discard 0x30 1 514 512)) 0x0 ∧ 512 + 1 < 514 ∧
    (assembling (.header [0x23, 1, 0])).host.assembler = .header [(frameOf .sync).opcode, 1, 0] ∧
    (assembling (.payload 0x11 1 1 [])).host.assembler = .payload (frameOf (.deleteStream 2)).opcode 1 1 [] ∧
    (assembling (.discard 0x11 1 514 513)).host.assembler = .discard 0x11 1 514 513 ∧
    ready.events.holdClear = false ∧ ready.host.aborting = false ∧ ready.power.soft = none :=
  ⟨accessible_ready _, by decide, accessible_of (by decide), by decide, rfl, by decide, by decide, by decide,
    by decide, accessible_of (by decide), by decide,
    accessible_of (by decide), by decide, rfl, rfl, rfl, rfl, rfl, rfl⟩

/-- A device with a response of two bytes read up to index `k`. -/
def answering (k : Nat) : State := { at_ 0x1 ready with rsp := { bytes := [0xA1, 0xA2], index := k } }

theorem witness_ReadsAndTheirSideEffects :
    Accessible (at_ 0x0 ready) 0x0 ∧ Accessible (at_ 0xA ready) 0xA ∧ Accessible (at_ 0xC ready) 0xC ∧
    Accessible (at_ 0xD ready) 0xD ∧ Accessible (at_ 0x1 ready) 0x1 ∧ (at_ 0x1 ready).rsp.bytes = [] ∧
    Accessible (answering 0) 0x1 ∧ (answering 0).rsp.bytes[(answering 0).rsp.index]? = some 0xA1 ∧ 0 + 1 < 2 ∧
    (answering 1).rsp.bytes[(answering 1).rsp.index]? = some 0xA2 ∧ 1 + 1 = 2 :=
  ⟨accessible_ready _, accessible_ready _, accessible_ready _, accessible_ready _, accessible_ready _, rfl,
    accessible_of (by decide), rfl, by decide, rfl, rfl⟩

theorem witness_ReadsAndTheirSideEffects_views :
    let full := ready.withStream 7 { empty0 with state := .full .quota }
    let loud := { ready with events := { ready.events with latched := 0x0C, mask := 0xFF } }
    let worn := { ready with power := { ready.power with state := .awake (.restricted .wornOut) } }
    windowLive ready = true ∧ ready.power.state = .awake .ready ∧ windowLive worn = true ∧ windowLive State.reset = true ∧
    State.reset.power.state = .mounting ∧ full.streams.length = 8 ∧ (∃ r, (streamOf full 7).state = .full r) ∧
    (hostRead loud 0x5 &&& loud.events.mask).getLsbD 2 = true ∧
    (∀ k ∈ [7, 6, 5, 4], (hostRead loud 0x5 &&& loud.events.mask).getLsbD k = false) ∧
    hostRead ready 0x5 &&& ready.events.mask = 0 ∧ windowLive { ready with power := { ready.power with state := .dead } } = false :=
  ⟨by rfl, by rfl, by rfl, by rfl, by rfl, by rfl, ⟨.quota, by rfl⟩, by decide⟩

/-- Table 10-1: SPACE and ALARM enabled and pending, EVCAUSE names SPACE; a FULL stream 7 shows in SPACEMAP (R6). -/
theorem test_register_views :
    let full := ready.withStream 7 { empty0 with state := .full .quota }
    let loud := { ready with events := { ready.events with latched := Event.alarm.bit ||| Event.space.bit, mask := 0xFF } }
    hostRead full 0xF = 0x80 ∧ hostRead ready 0xE = 0x01 ∧ irqAsserted loud = true ∧ irqAsserted ready = false ∧
    hostRead loud 0x7 = evcause loud := by decide

/-- A device with one completion record read up to index `k`. -/
def posted (k : Nat) : State :=
  { at_ 0x2 ready with
    cpl := { records := [completionOf 0x21 0x71 0 false { result := .done, value := 5 }], index := k, fresh := [] } }

theorem witness_CploutReadsAndPopsTheHead :
    (at_ 0x2 ready).cpl.records = [] ∧ Accessible (posted 0) 0x2 ∧ (posted 0).cpl.index = 0 ∧ (posted 10).cpl.index < 11 ∧
    Accessible (posted 11) 0x2 ∧ (posted 11).cpl.index = 11 ∧ (posted 0).cpl.records.length = 1 :=
  ⟨rfl, accessible_of (by decide), rfl, by decide,
    accessible_of (by decide), rfl, rfl⟩

/-- A device in DOZE. -/
def dozing : State := { at_ 0xC ready with power := { ready.power with state := .doze, remembered := some .ready } }

theorem witness_AccessesInTheDarkAndInDoze :
    windowLive { at_ 0xC ready with power := { ready.power with state := .halt } } = false ∧
    accesses .herrRead (at_ 0xC ready).host.latch = true ∧ isRead .herrRead = true ∧
    accesses (.evmaskWrite 1) (at_ 0x6 ready).host.latch = true ∧ isRead (.evmaskWrite 1) = false ∧
    windowLive dozing = true ∧ dozing.power.state = .doze ∧ nothingDue dozing = true ∧
    accesses .herrRead dozing.host.latch = true ∧ plainOffset (at_ 0x3 dozing).host.latch = true ∧
    (at_ 0x4 dozing).host.latch = 0x4 ∧ (0xF0 : Byte) &&& 0x0F = 0 := by
  decide

/-- A device whose DOZE entry is due, at an offset. -/
def dozingSoon (o : BitVec 4) : State := at_ o { ready with power := { ready.power with entryDue := some .doze } }

theorem witness_AccessesInTheDarkAndInDoze_abandoned :
    windowLive (dozingSoon 0x4) = true ∧ (dozingSoon 0x4).power.state ≠ .doze ∧
    (dozingSoon 0x4).power.entryDue = some .doze ∧ accesses (.rspDiscard 0x04) (dozingSoon 0x4).host.latch = true ∧
    writes (.rspDiscard 0x04) = some 0x04 ∧ (0x04 : Byte).getLsbD 1 = false ∧
    accesses .herrRead (dozingSoon 0xC).host.latch = true ∧ writes .herrRead = none ∧
    plainOffset (dozingSoon 0xF).host.latch = true ∧ (dozingSoon 0x4).host.latch = 0x4 ∧
    (0x02 : Byte).getLsbD 1 = true := by
  decide

/-- R19, R4: an access to HERR through the wake clears it; one to CMDIN is host error 5; R157: both abandon an entry. -/
theorem test_access_of_a_dozing_device_is_whole :
    let h := { dozing with host := { dozing.host with herr := 3 } }
    let t := after (.dozeWake (.access none)) h
    t.power.state = .awake .ready ∧ t.host.dataOut = 3 ∧ t.host.herr = 0 ∧
    (after (.dozeWake (.access none)) (at_ 0x0 dozing)).host.herr = 5 ∧
    (after (.dozeWake (.access none)) (dozingSoon 0x0)).host.herr = 5 ∧
    (after (.dozeWake (.access none)) (dozingSoon 0x0)).power.entryDue = none := by
  decide

theorem witness_HctlActsOnTheBitsWrittenOne :
    Accessible (at_ 0x4 ready) 0x4 ∧ (0x0D : Byte).getLsbD 1 = false ∧ (0x0D : Byte).getLsbD 0 = true ∧
    (0x0D : Byte).getLsbD 2 = true ∧ (0x0D : Byte).getLsbD 3 = true ∧ (at_ 0x4 ready).host.aborting = false :=
  ⟨accessible_ready _, by decide, by decide, by decide, by decide, rfl⟩

/-- A device at HCTL with a READ NOTICES that waits for a full Response Buffer. -/
def blocked : State := inPhase .readNotices .waitResponse { at_ 0x4 ready with rsp := { bytes := [1], index := 0 } }

theorem witness_RspDiscardEmptiesTheBuffer :
    Accessible blocked 0x4 ∧ (waiting blocked).any (fun d => d.phase = .waitResponse ∧ responding d.cmd) = true ∧
    (at_ 0x4 ready).rsp = { bytes := [], index := 0 } :=
  ⟨accessible_of (by decide), by decide, rfl⟩

/-- A soft reset in its drain, with nothing left to drain. -/
def draining : State := { ready with power := { ready.power with soft := some .drain } }

theorem witness_CplRewindRestartsTheHeadRecord :
    Accessible (at_ 0x4 (posted 7)) 0x4 ∧ (at_ 0x4 (posted 7)).cpl.records.length = 1 ∧
    Accessible (at_ 0x4 ready) 0x4 ∧ (at_ 0x4 ready).cpl.index = 0 ∧
    (posted 7).pins.supply = true ∧ (posted 7).pins.rstN = true ∧
    operating { posted 7 with power := { ready.power with state := .dead } } = true ∧
    isAwake draining = true ∧ draining.power.soft = some .drain ∧ drained draining = true :=
  ⟨accessible_of (by decide), rfl, accessible_ready _, rfl, rfl, rfl, by decide, by decide, rfl,
    by decide⟩

theorem witness_SrstBeginsASoftResetOrIsIgnored :
    Accessible (at_ 0x4 ready) 0x4 ∧ (0x0F : Byte).getLsbD 1 = true ∧ isAwake (at_ 0x4 ready) = true ∧
    (at_ 0x4 ready).power.entryDue = none ∧ (at_ 0x4 ready).power.soft = none ∧
    Accessible (at_ 0x4 State.reset) 0x4 ∧ (at_ 0x4 State.reset).power.state = .mounting ∧
    Accessible (at_ 0x4 draining) 0x4 ∧ draining.power.soft ≠ none ∧
    Accessible { at_ 0x4 ready with power := { ready.power with entryDue := some .halt } } 0x4 :=
  ⟨accessible_ready _, by decide, by decide, rfl, rfl, accessible_of (by decide), rfl,
    accessible_of (by decide), by decide, accessible_of (by decide)⟩

/-! ### Abort and soft reset -/

/-- The abort of a device whose command waits for a barrier is due. -/
def aborting : State :=
  let s := inPhase .sync .waitBarrier ready
  { s with host := { s.host with aborting := true } }

/-- A soft reset stands at this step. -/
def resetting (x : SoftStep) (s : State) : State := { s with power := { s.power with soft := some x } }

theorem witness_AbortEndsInTheNextEvent :
    windowLive aborting = true ∧ soleDuty aborting true none none ∧
    aborting.sequencer.dispatched.any (fun d => waits d.phase) = true ∧ aborting.host.assembler = .idle ∧
    aborting.sequencer.queue.length < 8 ∧ aborting.events.holdClear = false ∧ NoLockedHead aborting ∧
    windowLive (resetting .abortSteps ready) = true ∧ soleDuty (resetting .abortSteps ready) false (some .abortSteps) none ∧
    NoLockedHead (resetting .abortSteps ready) :=
  ⟨by decide, ⟨rfl, rfl, rfl, rfl⟩, by decide, rfl, by decide, rfl, fun _ h => (by cases h), by decide, ⟨rfl, rfl, rfl, rfl⟩,
    fun _ h => (by cases h)⟩

/-- A device with a pending tail and a full Program Queue. -/
def full8 (s : State) : State := s.withJobs (List.replicate 8 (job (some 1) 8 9))

theorem witness_SoftResetProgramsOrDiscardsTails :
    let s := resetting .judgeTails (with0 pending3 ready)
    isAwake s = true ∧ soleDuty s false (some .judgeTails) none ∧ s.sequencer.dispatched = none ∧
    s.guard.mode = .disabled ∧ guarded s = false ∧ pendingStreams s = [0] ∧
    (pendingStreams s).length ≤ programRoom s ∧ programRoom (full8 s) < (pendingStreams (full8 s)).length ∧
    guarded (guardedBy low s) = true := by
  refine ⟨by decide, ⟨rfl, rfl, rfl, rfl⟩, ?_⟩
  decide

/-- The tail of stream 0 stands in segment 9, which is locked, that of stream 1 in segment 20. -/
def halfLocked : State :=
  let t := { pending3 with chain := [entry 20 1 1 3], tail := .pos { tail9 60 1 with segment := 20, ends := [(60, 3)] } }
  guardedBy (active (some ⟨20, 1023, false⟩)) (resetting .judgeTails ((with0 pending3 ready).withStream 1 t))

theorem witness_SoftResetProgramsOrDiscardsTails_locked :
    let s := halfLocked
    isAwake s = true ∧ soleDuty s false (some .judgeTails) none ∧ s.sequencer.dispatched = none ∧ guarded s = false ∧
    NoLockedHead s ∧ (pendingStreams s).filter (fun n => !tailLocked s n) = [1] ∧
    (pendingStreams s).filter (fun n => tailLocked s n) = [0] ∧ 1 ≤ programRoom s ∧
    NoLockedHead (s.withJobs (List.replicate 8 (job (some 1) 20 9))) ∧
    programRoom (s.withJobs (List.replicate 8 (job (some 1) 20 9))) < 1 ∧ s.events.holdClear = false ∧ s.events.fresh = [] ∧
    s.events.notices.length + 1 ≤ 8 :=
  ⟨by decide, ⟨rfl, rfl, rfl, rfl⟩, by decide, by decide, fun _ h => (by cases h), by decide, by decide, by decide,
    fun j h => by cases h; decide, by decide⟩

/-- R171: the locked tail is discarded and told of, the other programmed. -/
theorem test_soft_reset_of_a_locked_tail :
    let t := after .softResetTailSync halfLocked
    (streamOf t 0).tail = .exhausted ∧ t.write.jobs.map (fun j => (j.kind, j.segment, j.hi)) = [(.portion, 20, 60)] ∧
    t.events.notices.map (fun x => (x.kind, x.stream, x.segment, x.value)) = [(.tailDiscarded, 0, 9, 60)] ∧
    t.power.soft = some .drain := by decide

theorem witness_SoftResetEndsWithEverythingEmpty :
    isAwake draining = true ∧ draining.power.soft = some .drain ∧ drained draining = true ∧
    guarded draining = false ∧ draining.events.holdClear = false ∧
    wraps (.xin true) { draining with time := { draining.time with counter := 0xFFFFFFFF, prescaler := 31 } } = true ∧
    matchesAlarm (.xin true) { draining with time := { draining.time with prescaler := 31, armed := true, alarm := 1 } } =
      true := by
  decide

/-! ### Dispatch -/

theorem witness_DispatchPostsItsFirstFault :
    dispatchReady { ready with sequencer := { ready.sequencer with queue := [⟨0x24, 1, [], false⟩] } } = true ∧
    decodeCmd 0x24 [] = none ∧
    dispatchReady { ready with sequencer := { ready.sequencer with queue := [⟨0x23, 1, [], true⟩] } } = true ∧
    goodHead (front .format ready) = some (frameOf .format, .format) ∧ dispatchReady (front .format ready) = true ∧
    refusedIn .wornOut .format = true ∧
    dispatchReady (front .format { ready with power := { ready.power with state := .awake (.restricted .wornOut) } }) =
      true ∧
    needsArm .format = true ∧ (front .format ready).sequencer.arm ≠ some Cmd.format.code ∧
    paramsInRange (.queryStream 8) = false ∧ needsArm (.queryStream 8) = false ∧
    goodHead (front (.queryStream 8) ready) = some (frameOf (.queryStream 8), .queryStream 8) := by
  decide

theorem witness_ResponseCommandsWaitForTheBuffer :
    Dispatches (front (.queryStream 7) (answering 0)) (frameOf (.queryStream 7)) (.queryStream 7) ∧
    responding (.queryStream 7) = true ∧ (answering 0).rsp.bytes ≠ [] ∧
    (waiting blocked).any (fun d => d.phase = .waitResponse) = true ∧ blocked.rsp.bytes ≠ [] ∧
    (∀ c, c = Cmd.queryStream 7 ∨ c = .readRecord 0 1 ∨ c = .readNext 0 ∨ c = .segmentStatus 4 ∨ c = .vaultRead 1 ∨
        c = .describe ∨ c = .identify ∨ c = .readNotices →
      (waiting (inPhase c .waitResponse ready)).any (fun d => d.phase = .waitResponse ∧ d.cmd = c) = true) ∧
    Dispatches (front (.queryStream 7) ready) (frameOf (.queryStream 7)) (.queryStream 7) ∧
    ready.rsp.bytes = [] ∧ (streamOf ready 7).defn = none := by
  refine ⟨dispatches_of (by decide), by decide, by decide, by decide, by decide, ?_, dispatches_of (by decide), rfl, rfl⟩
  rintro c (rfl | rfl | rfl | rfl | rfl | rfl | rfl | rfl) <;> decide

/-! ### Streams -/

/-- The entry archived or faulted. -/
def inState (x : StreamState) (t : Stream) : Stream := { t with state := x }

theorem witness_CatalogueCommandsAskForTheirVersion :
    let c := Cmd.defineStream 0 1 1019 [0x41]
    Dispatches (front c (with0 empty0 ready)) (frameOf c) c ∧ (streamOf (with0 empty0 ready) 0).defn ≠ none ∧
    Dispatches (front c ready) (frameOf c) c ∧ (streamOf ready 0).defn = none ∧ guarded ready = false ∧
    Dispatches (front c (guardedBy low ready)) (frameOf c) c ∧ guarded (guardedBy low ready) = true :=
  ⟨dispatches_of (by decide), by decide, dispatches_of (by decide), by decide, by decide, dispatches_of (by decide),
    by decide⟩

theorem witness_CatalogueCommandsAskForTheirVersion_delete :
    let c := Cmd.deleteStream 0
    let s := with0 three ready
    let busy := s.withJobs [job (some 0) 9 1]
    Dispatches (front c ready) (frameOf c) c ∧ (streamOf ready 0).defn = none ∧
    Dispatches (front c (with0 (inState .archived three) ready)) (frameOf c) c ∧
    Dispatches (front c busy) (frameOf c) c ∧ hasJobOf busy 0 = true ∧ (streamOf busy 0).defn ≠ none ∧
    (streamOf busy 0).state ≠ .archived ∧ Dispatches (front c s) (frameOf c) c ∧ hasJobOf s 0 = false ∧
    Dispatches (front c (guardedBy low s)) (frameOf c) c ∧ guarded (guardedBy low s) = true ∧
    (waiting (inPhase c .waitBarrier busy)).any (fun d => d.phase = .waitBarrier ∧ d.cmd = c) = true ∧
    (waiting (inPhase c .waitBarrier s)).any (fun d => d.phase = .waitBarrier ∧ d.cmd = c) = true ∧
    (waiting (inPhase c .waitBarrier (guardedBy low s))).any (fun d => d.phase = .waitBarrier ∧ d.cmd = c) = true :=
  ⟨dispatches_of (by decide), by decide, dispatches_of (by decide), dispatches_of (by decide), by decide, by decide,
    by decide, dispatches_of (by decide), by decide, dispatches_of (by decide), by decide, by decide, by decide, by decide⟩

/-- The device armed for this command. -/
def armed (k : Byte) (s : State) : State := { s with sequencer := { s.sequencer with arm := some k } }

theorem witness_CatalogueCommandsAskForTheirVersion_format :
    let s := armed 0x4A (with0 three ready)
    let busy := s.withJobs [job (some 0) 9 1]
    Dispatches (front .format (guardedBy low s)) (frameOf .format) .format ∧ guarded (guardedBy low s) = true ∧
    Dispatches (front .format busy) (frameOf .format) .format ∧ busy.write.jobs ≠ [] ∧
    Dispatches (front .format s) (frameOf .format) .format ∧ s.write.jobs = [] ∧ guarded s = false ∧
    (waiting (inPhase .format .waitBarrier s)).any (fun d => d.phase = .waitBarrier ∧ d.cmd = .format) = true :=
  ⟨dispatches_of (by decide), by decide, dispatches_of (by decide), by decide, dispatches_of (by decide), by decide,
    by decide, by decide⟩

theorem witness_QueryStreamReturnsTheStatusRecord :
    Dispatches (front (.queryStream 7) ready) (frameOf (.queryStream 7)) (.queryStream 7) ∧ ready.rsp.bytes = [] ∧
    (streamOf ready 7).defn = none ∧
    Dispatches (front (.queryStream 0) (with0 three ready)) (frameOf (.queryStream 0)) (.queryStream 0) ∧
    (streamOf (with0 three ready) 0).defn = some def0 ∧ def0.name.length ≤ 12 ∧
    (∀ r, (streamOf (with0 three ready) 0).state ≠ .full r) ∧ (with0 three ready).write.staging = none :=
  ⟨dispatches_of (by decide), by decide, by decide, dispatches_of (by decide), by decide, by decide,
    fun _ h => (by cases h), by decide⟩

theorem witness_QueryStreamReturnsTheStatusRecord_staged :
    let s := staged 0 4 (with0 { three with state := .full .noSpace } ready)
    Dispatches (front (.queryStream 0) s) (frameOf (.queryStream 0)) (.queryStream 0) ∧
    (streamOf s 0).state = .full .noSpace ∧ fullCode .noSpace = 3 ∧
    (∃ g, s.write.staging = some g ∧ g.stream = 0 ∧ g.bytes.length = 4) :=
  ⟨dispatches_of (by decide), by decide, by decide, ⟨_, rfl, rfl, rfl⟩⟩

/-- Records 1 to 3 in segment 9, 4 to 6 in segment 10 and 7 in segment 11, the write segment. -/
def seven : Stream :=
  { three with chain := [entry 9 1 1 3, entry 10 2 4 6, entry 11 3 7 7], newest := 7, durable := 7, tail := .exhausted,
               state := .full .quota }

theorem witness_TrimStreamReleasesFromTheOldest :
    let c := Cmd.trimStream 0 7
    let s := with0 seven ready
    let head := with0 { seven with chain := [{ entry 9 1 1 3 with isSealed := true }, entry 10 2 4 6] } ready
    1 < 7 ∧ Dispatches (front (.trimStream 0 1) head) (frameOf (.trimStream 0 1)) (.trimStream 0 1) ∧
    Dispatches (front c ready) (frameOf c) c ∧ (streamOf ready 0).defn = none ∧
    Dispatches (front c (with0 (inState .faulted seven) ready)) (frameOf c) c ∧
    Dispatches (front c head) (frameOf c) c ∧ takesRecords (streamOf head 0) = true ∧
    writeEntry head (streamOf head 0) ≠ some { entry 9 1 1 3 with isSealed := true } ∧ hasJobInto head 9 = false ∧
    Dispatches (front (.trimStream 0 3) s) (frameOf (.trimStream 0 3)) (.trimStream 0 3) ∧
    (∀ e, (streamOf s 0).chain.head? = some e → 3 ≤ e.last) ∧
    Dispatches (front c s) (frameOf c) c ∧ takesRecords (streamOf s 0) = true ∧
    (streamOf s 0).chain = [entry 9 1 1 3, entry 10 2 4 6] ++ entry 11 3 7 7 :: [] ∧
    (∀ x ∈ [entry 9 1 1 3, entry 10 2 4 6], x.isSealed = false ∧ x.last < 7 ∧ writeEntry s (streamOf s 0) ≠ some x ∧
      hasJobInto s x.segment = false) ∧
    writeEntry s (streamOf s 0) = some (entry 11 3 7 7) := by
  refine ⟨by decide, dispatches_of (by decide), dispatches_of (by decide), by decide, dispatches_of (by decide),
    dispatches_of (by decide), by decide, by decide, by decide, dispatches_of (by decide), ?_, dispatches_of (by decide),
    by decide, by decide, by decide, by decide⟩
  intro e h
  injection h with h
  rw [← h]
  decide

/-- R69: a sequence of 1 releases nothing, also where the oldest entry's last sequence is 0 or that entry is SEALED. -/
theorem test_trim_at_one_releases_nothing :
    let e := entry 9 1 1 0
    trimWalk ready none 1 [e, entry 10 2 1 3] = (0, false) ∧ trimWalk ready none 2 [e, entry 10 2 1 3] = (1, false) ∧
    trimWalk ready none 1 [{ e with isSealed := true }] = (0, false) ∧
    trimWalk ready none 2 [{ e with isSealed := true }] = (0, true) := by decide

theorem witness_TrimStreamReleasesFromTheOldest_whole :
    let c := Cmd.trimStream 0 4
    let s := ready.withStream 0 { three with tail := .exhausted }
    1 < 4 ∧ Dispatches (front c s) (frameOf c) c ∧ takesRecords (streamOf s 0) = true ∧ (streamOf s 0).chain ≠ [] ∧
    (∀ x ∈ (streamOf s 0).chain, x.isSealed = false ∧ x.last < 4 ∧ writeEntry s (streamOf s 0) ≠ some x ∧
      hasJobInto s x.segment = false) :=
  ⟨by decide, dispatches_of (by decide), by decide, by decide, by decide⟩

theorem witness_AppendAndCancelKeepTheStagingBuffer :
    let c := Cmd.append 0 [1, 2]
    let s := with0 empty0 ready
    Dispatches (front c ready) (frameOf c) c ∧ Dispatches (front c (with0 (inState .archived three) ready)) (frameOf c) c ∧
    Dispatches (front c (staged 1 4 s)) (frameOf c) c ∧ stagedElsewhere (staged 1 4 s) 0 = true ∧
    takesRecords (streamOf s 0) = true ∧ Dispatches (front c (staged 0 1535 s)) (frameOf c) c ∧
    1536 < (stagedPayload (staged 0 1535 s) ++ [1, 2]).length ∧ Dispatches (front c (staged 0 1534 s)) (frameOf c) c ∧
    (stagedPayload (staged 0 1534 s) ++ [1, 2]).length ≤ 1536 ∧ stagedElsewhere (staged 0 1534 s) 0 = false ∧
    Dispatches (front (.cancel 0) (staged 0 4 s)) (frameOf (.cancel 0)) (.cancel 0) ∧
    Dispatches (front (.cancel 0) s) (frameOf (.cancel 0)) (.cancel 0) ∧ s.write.staging = none :=
  ⟨dispatches_of (by decide), dispatches_of (by decide), dispatches_of (by decide), by decide, by decide,
    dispatches_of (by decide +kernel), by decide +kernel, dispatches_of (by decide +kernel), by decide +kernel,
    by decide +kernel, dispatches_of (by decide), dispatches_of (by decide), by decide⟩

theorem witness_SeekPlacesTheCursor :
    let s := with0 { seven with oldest := 4 } ready
    let e := with0 empty0 ready
    Dispatches (front (.seek 0 0 0) ready) (frameOf (.seek 0 0 0)) (.seek 0 0 0) ∧
    Dispatches (front (.seek 0 0 0) s) (frameOf (.seek 0 0 0)) (.seek 0 0 0) ∧
    Dispatches (front (.seek 0 1 0) e) (frameOf (.seek 0 1 0)) (.seek 0 1 0) ∧ holdsRecord (streamOf e 0) = false ∧
    Dispatches (front (.seek 0 2 3) s) (frameOf (.seek 0 2 3)) (.seek 0 2 3) ∧ 3 < (streamOf s 0).oldest ∧
    Dispatches (front (.seek 0 2 8) s) (frameOf (.seek 0 2 8)) (.seek 0 2 8) ∧ (streamOf s 0).newest < 8 ∧
    Dispatches (front (.seek 0 2 7) s) (frameOf (.seek 0 2 7)) (.seek 0 2 7) ∧ 7 ≤ (streamOf s 0).newest ∧
    holdsRecord (streamOf s 0) = true ∧ (streamOf s 0).defn ≠ none :=
  ⟨dispatches_of (by decide), dispatches_of (by decide), dispatches_of (by decide), by decide, dispatches_of (by decide),
    by decide, dispatches_of (by decide), by decide, dispatches_of (by decide), by decide, by decide, by decide⟩

/-! ### COMMIT and SYNC -/

/-- COMMIT of stream 0. -/
abbrev commit0 : Cmd := .commit 0 0x5C

/-- Streams whose write segment, in segment 9, is full: one entry, or two. -/
def exhausted1 (m : Mode) (q : Nat) : Stream := { three with defn := some { def0 with mode := m, quota := q }, tail := .exhausted }

def exhausted2 (m : Mode) (q : Nat) : Stream := { exhausted1 m q with chain := [entry 10 1 1 2, entry 9 2 3 3] }

theorem witness_CommitRefusesInItsOrder :
    let s := with0 three ready
    let l := guardedBy (active none) s
    Dispatches (front commit0 ready) (frameOf commit0) commit0 ∧
    Dispatches (front commit0 (with0 (inState .archived three) ready)) (frameOf commit0) commit0 ∧
    Dispatches (front commit0 (staged 1 4 s)) (frameOf commit0) commit0 ∧ stagedElsewhere (staged 1 4 s) 0 = true ∧
    Dispatches (front commit0 (guardedBy low s)) (frameOf commit0) commit0 ∧ guarded (guardedBy low s) = true ∧
    Dispatches (front commit0 l) (frameOf commit0) commit0 ∧ CommitOpen l 0 ∧ ¬ WriteUnlocked l 0 ∧
    16 + (stagedPayload l).length ≤ spaceLeft (streamOf l 0) ∧ (streamOf l 0).newest ≠ 4294967295 := by
  refine ⟨dispatches_of (by decide), dispatches_of (by decide), dispatches_of (by decide), by decide,
    dispatches_of (by decide), by decide, dispatches_of (by decide), ⟨by decide, by decide, by decide⟩, ?_, by decide,
    by decide⟩
  intro h
  have := h (entry 9 1 1 3) (by decide)
  exact absurd this (by decide)

theorem witness_CommitRefusesInItsOrder_full :
    let last := with0 { three with newest := 4294967295 } ready
    let one := with0 (exhausted1 .linear 1) ready
    let sealedHead := with0 { exhausted2 .ring 2 with chain := [{ entry 10 1 1 2 with isSealed := true }, entry 9 2 3 3] } ready
    let own := with0 (exhausted1 .ring 1) ready
    let busy := (with0 (exhausted2 .ring 2) ready).withJobs [job (some 0) 10 1]
    let short := { with0 (exhausted2 .ring 2) ready with segments := { map := [], pool := [5] } }
    let none_ := { with0 (exhausted1 .ring 2) ready with segments := { map := [], pool := [5, 6] } }
    (Dispatches (front commit0 last) (frameOf commit0) commit0 ∧ CommitOpen last 0 ∧ (streamOf last 0).defn = some def0) ∧
    (Dispatches (front commit0 one) (frameOf commit0) commit0 ∧ CommitOpen one 0 ∧
      spaceLeft (streamOf one 0) < 16 + (stagedPayload one).length ∧ 1 ≤ ownedCount (streamOf one 0)) ∧
    (Dispatches (front commit0 sealedHead) (frameOf commit0) commit0 ∧ CommitOpen sealedHead 0 ∧
      spaceLeft (streamOf sealedHead 0) < 16 ∧ 2 ≤ ownedCount (streamOf sealedHead 0)) ∧
    (Dispatches (front commit0 own) (frameOf commit0) commit0 ∧ CommitOpen own 0 ∧
      writeEntry own (streamOf own 0) = some (entry 9 1 1 3) ∧ 1 ≤ ownedCount (streamOf own 0)) ∧
    (Dispatches (front commit0 busy) (frameOf commit0) commit0 ∧ CommitOpen busy 0 ∧ hasJobInto busy 10 = true ∧
      2 ≤ ownedCount (streamOf busy 0)) ∧
    (Dispatches (front commit0 short) (frameOf commit0) commit0 ∧ CommitOpen short 0 ∧
      (availableSegs short).length + (if locked short 10 then 0 else 1) < 3) ∧
    (Dispatches (front commit0 none_) (frameOf commit0) commit0 ∧ CommitOpen none_ 0 ∧
      ownedCount (streamOf none_ 0) < 2 ∧ (availableSegs none_).length < 3) := by
  refine ⟨⟨dispatches_of (by decide), ⟨by decide, by decide, by decide⟩, by decide⟩,
    ⟨dispatches_of (by decide), ⟨by decide, by decide, by decide⟩, by decide, by decide⟩,
    ⟨dispatches_of (by decide), ⟨by decide, by decide, by decide⟩, by decide, by decide⟩,
    ⟨dispatches_of (by decide), ⟨by decide, by decide, by decide⟩, by decide, by decide⟩,
    ⟨dispatches_of (by decide), ⟨by decide, by decide, by decide⟩, by decide, by decide⟩,
    ⟨dispatches_of (by decide), ⟨by decide, by decide, by decide⟩, by decide⟩,
    ⟨dispatches_of (by decide), ⟨by decide, by decide, by decide⟩, by decide, by decide⟩⟩

theorem witness_CommitRefusesInItsOrder_pad :
    let brim := { three with tail := .pos { tail9 500 3 with frame := 31 } }
    let s := guardedBy (active (some ⟨5, 8, false⟩)) (with0 brim ready)
    Dispatches (front commit0 s) (frameOf commit0) commit0 ∧ CommitOpen s 0 ∧ ¬ WriteUnlocked s 0 ∧
    spaceLeft (streamOf s 0) < 16 + (stagedPayload s).length ∧ ownedCount (streamOf s 0) < 2 ∧
    3 ≤ (availableSegs s).length ∧ 0 < pendingBytes (streamOf s 0).tail := by
  refine ⟨dispatches_of (by decide +kernel), ⟨by decide, by decide, by decide⟩, ?_, by decide +kernel⟩
  intro h
  exact absurd (h (entry 9 1 1 3) (by decide)) (by decide)

/-- COMMIT_POLICY is LAZY. -/
def lazy (s : State) : State := { s with options := { s.options with commitPolicy := 0 } }

theorem unlocked_of_disabled {s : State} (n : Nat) (h : s.guard.mode = .disabled) : WriteUnlocked s n := by
  intro e _
  simp [locked, h]

theorem witness_CommitPlacesTheRecordInItsFrame :
    let s := staged 0 4 (with0 three ready)
    let p := tailDone 60 1
    Dispatches (front commit0 (lazy s)) (frameOf commit0) commit0 ∧ (lazy s).options.commitPolicy ≠ 1 ∧
    Dispatches (front commit0 (full8 s)) (frameOf commit0) commit0 ∧ (full8 s).write.jobs.length = 8 ∧
    Dispatches (front commit0 s) (frameOf commit0) commit0 ∧ s.options.commitPolicy = 1 ∧ s.write.jobs.length < 8 ∧
    CommitOpen s 0 ∧ WriteUnlocked s 0 ∧ (streamOf s 0).newest < 4294967294 ∧ (streamOf s 0).tail = .pos p ∧
    p.offset + 16 + (stagedPayload s).length < 512 ∧ p.unprog ≤ p.offset ∧ p.portions < 3 :=
  ⟨dispatches_of (by decide), by decide, dispatches_of (by decide), by decide, dispatches_of (by decide), by decide,
    by decide, ⟨by decide, by decide, by decide⟩, unlocked_of_disabled 0 rfl, by decide⟩

/-- Stream 0 with a tail of `n` bytes, none of them programmed, the record 3 ending there. -/
def filling (n : Nat) : Stream := { three with durable := 2, tail := .pos { tail9 n 1 with ends := [(n, 3)] } }

/-- The same with three portions programmed and 60 bytes. -/
def fourth : Stream := { three with tail := .pos { tailDone 60 1 with portions := 3 } }

/-- A COMMIT of stream 0 under EAGER between two jobs of its record 4. -/
def between : State :=
  let s := staged 0 4 (with0 { filling 60 with newest := 4, tail := .pos { tail9 60 1 with ends := [(60, 4)] } } ready)
  { s with sequencer := { s.sequencer with
      dispatched := some { id := 0, tag := 0x21, opcode := commit0.code, cmd := commit0, eager := true, abortLate := false,
                           phase := .placing 4 [] } } }

theorem witness_CommitPlacesTheRecordInItsFrame_more :
    let f := staged 0 4 (with0 fourth ready)
    let b := fun k => staged 0 k (with0 (filling 400) ready)
    let p := { tail9 400 1 with ends := [(400, 3)] }
    (Dispatches (front commit0 f) (frameOf commit0) commit0 ∧ CommitOpen f 0 ∧
      (streamOf f 0).tail = .pos { tailDone 60 1 with portions := 3 } ∧ (tailDone 60 1).image.length = 60 ∧
      f.options.commitPolicy = 1 ∧ f.write.jobs.length < 8) ∧
    (∀ k, k = 96 ∨ k = 97 ∨ k = 607 →
      Dispatches (front commit0 (b k)) (frameOf commit0) commit0 ∧
      Dispatches (front commit0 (lazy (b k))) (frameOf commit0) commit0 ∧ CommitOpen (b k) 0 ∧
      WriteUnlocked (b k) 0 ∧ (streamOf (b k) 0).newest < 4294967294 ∧ (streamOf (b k) 0).tail = .pos p ∧
      p.offset < 512 ∧ 512 ≤ p.offset + 16 + (stagedPayload (b k)).length ∧
      p.offset + 16 + (stagedPayload (b k)).length < 1024 ∧ p.frame < 31 ∧ p.unprog ≤ p.offset ∧
      p.image.length = p.offset ∧ (∀ e ∈ p.ends, e.2 ≤ (streamOf (b k) 0).newest) ∧ (b k).write.jobs.length ≤ 6) ∧
    (recordBytes (b 96) 0 0x5C).drop (512 - p.offset) = [] ∧ (recordBytes (b 97) 0 0x5C).drop (512 - p.offset) ≠ [] ∧
    isAwake between = true ∧ between.host.aborting = false ∧ between.power.soft ≠ some .abortSteps ∧
    between.power.entryDue = none ∧ (60, 4) ∈ ({ tail9 60 1 with ends := [(60, 4)] } : TailPos).ends ∧
    (streamOf between 0).tail = .pos { tail9 60 1 with ends := [(60, 4)] } := by
  refine ⟨⟨dispatches_of (by decide), ⟨by decide, by decide, by decide⟩, by decide, by decide, by decide, by decide⟩, ?_,
    by decide +kernel, by decide +kernel, by decide, by decide, by decide, by decide, by decide, by decide +kernel⟩
  rintro k (rfl | rfl | rfl) <;>
    exact ⟨dispatches_of (by decide +kernel), dispatches_of (by decide +kernel), ⟨by rfl, by rfl, by rfl⟩,
      unlocked_of_disabled 0 rfl, by decide +kernel⟩

/-- A COMMIT of stream 0 under LAZY whose tail stands full, with `k` bytes of its record 4 beyond it. -/
def tailFull (k : Nat) : State :=
  let s := staged 0 684 (with0 { filling 512 with newest := 4, tail := .pos { tail9 512 4 with ends := [] } } ready)
  inPhase commit0 (.placing 4 (List.replicate k 0x5A)) s

theorem witness_CommitPlacesTheRecordInItsFrame_full :
    ∀ k, k = 0 ∨ k = 511 →
      isAwake (tailFull k) = true ∧ (tailFull k).host.aborting = false ∧ (tailFull k).power.soft ≠ some .abortSteps ∧
      (tailFull k).power.entryDue = none ∧
      (tailFull k).sequencer.dispatched.any (fun d => d.phase = .placing 4 (List.replicate k 0x5A) ∧ d.cmd = commit0 ∧
        d.eager = false) = true ∧
      (streamOf (tailFull k) 0).tail = .pos { tail9 512 4 with ends := [] } ∧ (tail9 512 4).image.length = 512 ∧
      (tail9 512 4).unprog ≤ 512 ∧ (tail9 512 4).frame < 31 ∧ (List.replicate k (0x5A : Byte)).length < 512 := by
  rintro k (rfl | rfl) <;> decide +kernel

/-- R76: a record of 700 bytes under EAGER goes in two internal events, one job each; the Staging Buffer is the
command's until the second, which defers it. -/
theorem test_record_over_two_frames_takes_two_events :
    let s := front commit0 (staged 0 684 (with0 (filling 60) ready))
    let t := after .commit s
    let u := after .commit t
    t.write.jobs.map (fun j => (j.kind, j.frame, j.released)) = [(.frame, 0, [])] ∧
    t.write.staging.map (fun g => g.owned) = some true ∧ t.sequencer.dispatched.isSome = true ∧
    u.write.jobs.map (fun j => (j.kind, j.frame, j.released)) = [(.frame, 0, []), (.portion, 1, [0])] ∧
    u.write.jobs.map (fun j => (j.lo, j.hi)) = [(0, 512), (0, 248)] ∧
    u.write.staging.isNone = true ∧ u.sequencer.deferred.map (fun d => d.kind) = [.commit 0 4] := by
  decide +kernel

/-- R40: an abort between the two jobs marks the command and leaves its record. -/
theorem test_abort_between_two_jobs_of_a_record :
    let t := after .abortSequencerSteps { between with host := { between.host with aborting := true } }
    t.sequencer.deferred.map (fun d => (d.kind, d.abortLate)) = [(.commit 0 4, true)] ∧ t.write.staging.isNone = true ∧
    t.write.jobs.length = 1 := by
  decide +kernel

/-- Segment `g` stands in the Segment Map in this state. -/
def withSeg (g : Nat) (x : SegState) (s : State) : State := updSeg g (fun e => { e with state := x }) s

theorem witness_CommitTakesANewSegment :
    let s := lazy (staged 0 4 (with0 (exhausted1 .linear 2) ready))
    let t := withSeg 5 .freeStale s
    Dispatches (front commit0 s) (frameOf commit0) commit0 ∧ CommitOpen s 0 ∧
    (streamOf s 0).defn = some { def0 with quota := 2 } ∧ 0 < s.streams.length ∧ (streamOf s 0).newest < 4294967294 ∧
    spaceLeft (streamOf s 0) < 16 + (stagedPayload s).length ∧ ownedCount (streamOf s 0) < 2 ∧
    availableSegs s = 5 :: [6, 7, 8] ∧ pendingBytes (streamOf s 0).tail = 0 ∧ s.options.commitPolicy ≠ 1 ∧
    (∀ e, writeEntry s (streamOf s 0) = some e → e.segment ≠ 5) ∧ (segOf s 5).state = .freeErased ∧
    Dispatches (front commit0 t) (frameOf commit0) commit0 ∧ CommitOpen t 0 ∧ availableSegs t = 5 :: [6, 7, 8] ∧
    (segOf t 5).state = .freeStale := by
  refine ⟨dispatches_of (by decide), ⟨by decide, by decide, by decide⟩, by rfl, by decide, by decide, by decide,
    by decide, by rfl, by rfl, by decide, ?_, by rfl, dispatches_of (by decide), ⟨by decide, by decide, by decide⟩,
    by decide⟩
  intro e h
  injection h with h
  rw [← h]
  decide

/-- A write segment 9 at its last frame with 12 bytes left, 500 pending. -/
def brimful : Stream := { three with tail := .pos { tail9 500 3 with frame := 31 } }

theorem witness_CommitTakesANewSegment_pad :
    let s := lazy (staged 0 4 (with0 brimful ready))
    Dispatches (front commit0 s) (frameOf commit0) commit0 ∧ CommitOpen s 0 ∧
    spaceLeft (streamOf s 0) < 16 + (stagedPayload s).length ∧ ownedCount (streamOf s 0) < 2 ∧
    availableSegs s = 5 :: [6, 7, 8] ∧ (segOf s 5).state = .freeErased ∧
    writeEntry s (streamOf s 0) = some (entry 9 1 1 3) ∧ locked s 9 = false ∧ (tail9 500 3).unprog < (tail9 500 3).offset ∧
    (tail9 500 3).image.length = 500 ∧ s.options.commitPolicy ≠ 1 ∧ s.write.jobs.length < 8 ∧
    storeWf (fun _ => SegEntry.free) 0 s.segments.map = true := by
  refine ⟨dispatches_of (by decide +kernel), ⟨by decide, by decide, by decide⟩, ?_⟩
  decide +kernel

theorem witness_CommitTakesANewSegment_long :
    ∀ k, k = 496 ∨ k = 1007 →
      let s := staged 0 k (with0 brimful ready)
      Dispatches (front commit0 s) (frameOf commit0) commit0 ∧ CommitOpen s 0 ∧ (streamOf s 0).newest < 4294967294 ∧
      spaceLeft (streamOf s 0) < 16 + (stagedPayload s).length ∧ ownedCount (streamOf s 0) < 2 ∧
      availableSegs s = 5 :: [6, 7, 8] ∧ (segOf s 5).state = .freeErased ∧
      writeEntry s (streamOf s 0) = some (entry 9 1 1 3) ∧ locked s 9 = false ∧ 512 ≤ 16 + (stagedPayload s).length ∧
      16 + (stagedPayload s).length < 1024 ∧ s.write.jobs.length ≤ 5 ∧
      storeWf (fun _ => SegEntry.free) 0 s.segments.map = true := by
  rintro k (rfl | rfl) <;>
    exact ⟨dispatches_of (by decide +kernel), ⟨by rfl, by rfl, by rfl⟩, by decide +kernel⟩

/-- R75, R76: a record of 700 bytes after a closing pad is copied up to its first frame's end in the pad's event, which
leaves that frame full, and the next event emits it. -/
theorem test_record_after_a_closing_pad :
    let t := after .commit (front commit0 (lazy (staged 0 684 (with0 brimful ready))))
    let u := after .commit t
    let shape := fun s : State => match (streamOf s 0).tail with
      | .pos p => (p.segment, p.frame, p.offset, p.header) | _ => (0, 0, 0, none)
    t.write.jobs.map (fun j => (j.segment, j.frame, j.pad)) = [(9, 31, true)] ∧ shape t = (5, 0, 512, some (0, 4)) ∧
    pendingStreams t = [0] ∧
    u.write.jobs.map (fun j => (j.segment, j.frame, j.pad)) = [(9, 31, true), (5, 0, false)] ∧
    shape u = (5, 1, 188, none) ∧ lastReply u = some (.done, 4, 3) := by
  decide +kernel

theorem witness_CommitTakesANewSegment_ring :
    let s := lazy (staged 0 4 (with0 (exhausted2 .ring 2) { ready with segments := { map := [], pool := [5, 6] } }))
    Dispatches (front commit0 s) (frameOf commit0) commit0 ∧ CommitOpen s 0 ∧
    spaceLeft (streamOf s 0) < 16 + (stagedPayload s).length ∧ 2 ≤ ownedCount (streamOf s 0) ∧
    (streamOf s 0).chain = entry 10 1 1 2 :: entry 9 2 3 3 :: [] ∧
    writeEntry s (streamOf s 0) = some (entry 9 2 3 3) ∧ hasJobInto s 10 = false ∧ s.engine.reloc = none ∧
    availableSegs s = 5 :: [6] ∧ 2 ≤ [6].length + (if locked s 10 then 0 else 1) ∧ (segOf s 5).state = .freeErased ∧
    pendingBytes (streamOf s 0).tail = 0 ∧ s.events.holdClear = false ∧ s.events.fresh = [] := by
  refine ⟨dispatches_of (by decide), ⟨by decide, by decide, by decide⟩, ?_⟩
  decide

/-- R77, R103: the closing pad of 500 pending bytes; the generation after a reclaim counts on from the newest entry. -/
theorem test_closing_pad_and_new_segment :
    let t := after .commit (front commit0 (lazy (staged 0 4 (with0 brimful ready))))
    t.write.jobs.map (fun j => (j.kind, j.pad, j.frame)) = [(.frame, true, 31)] ∧
    t.write.jobs.map (fun j => (j.lo, j.hi, j.image.length)) = [(0, 512, 512)] ∧ (segOf t 9).isOpen = false ∧
    (segOf t 5).isOpen = true ∧ (segOf t 5).generation = 2 ∧ lastReply t = some (.done, 4, 3) := by
  decide +kernel

/-- A machine whose queue holds the frames of these commands. -/
def queueing (cs : List Cmd) (s : State) : State := { s with sequencer := { s.sequencer with queue := cs.map frameOf } }

/-- A COMMIT that defers stands before another frame: the next one can be dispatched, but not where 16 slots are in use. -/
theorem witness_AfterDeferral :
    let s := takeHead none (queueing [commit0, .readRecord 1 1] ready)
    let x : Completion := reply (frameOf .sync) .sync { result := .done }
    CanDispatch s ∧ headRow s = .readRecord ∧
    ¬ CanDispatch { s with cpl := { s.cpl with records := List.replicate 16 x } } ∧
    ¬ CanDispatch (takeHead none (front commit0 ready)) := by
  refine ⟨⟨by decide, by decide⟩, by decide, fun h => ?_, fun h => ?_⟩
  · exact absurd h.2 (by decide)
  · exact absurd h.1 (by decide)

/-- "Completions out of order" of chapter 2, steps 1 and 2: the EAGER COMMIT defers and in the same event READ RECORD is
dispatched; its READ is started before the COMMIT's job. GET TIME waits its turn. -/
theorem test_frame_behind_a_deferred_commit :
    let s := queueing [commit0, .readRecord 1 1, .getTime] (staged 0 200 ((with0 three ready).withStream 1
      { three with chain := [entry 20 1 1 3], tail := .exhausted }))
    let t := after .commit s
    t.sequencer.deferred.map (fun d => d.opcode) = [0x21] ∧ t.sequencer.dispatched.map (fun d => d.opcode) = some 0x30 ∧
    t.engine.op = some { who := .sequencer, op := .read 20 31 0 512 } ∧
    t.write.jobs.map (fun j => (j.segment, j.released)) = [(9, [0])] ∧ t.sequencer.queue = [frameOf .getTime] ∧
    reservedCount t = 2 ∧ t.cpl.records = [] := by
  decide +kernel

/-- R30: commands that defer one behind the other go in one event, and a frame behind one that completes waits. -/
theorem test_chain_of_deferrals :
    let t := after .commit (queueing [commit0, .sync, .vaultWrite 0 [1], .getTime, .getTime] (staged 0 4 (with0 three ready)))
    t.sequencer.deferred.map (fun d => d.opcode) = [0x21, 0x23, 0x50] ∧
    t.cpl.records.map (fun c => c.opcode) = [0x71] ∧ t.sequencer.queue = [frameOf .getTime] ∧
    t.write.jobs.map (fun j => (j.segment, j.released)) = [(9, [0, 1]), (3, [2])] := by
  decide +kernel

theorem witness_SyncWaitsForEveryJob :
    let s := with0 pending3 ready
    let j := ready.withJobs [job (some 1) 8 9]
    Dispatches (front .sync ready) (frameOf .sync) .sync ∧ pendingStreams ready = [] ∧ ready.write.jobs = [] ∧
    Dispatches (front .sync (full8 s)) (frameOf .sync) .sync ∧
    programRoom (full8 s) < (pendingStreams (full8 s)).length ∧
    Dispatches (front .sync j) (frameOf .sync) .sync ∧ pendingStreams j = [] ∧ j.write.jobs ≠ [] ∧
    Dispatches (front .sync s) (frameOf .sync) .sync ∧ pendingStreams s = [0] ∧ s.write.jobs.length < 8 ∧
    (streamOf s 0).tail = .pos { tail9 60 1 with ends := [(60, 3)] } ∧ (tail9 60 1).portions < 3 :=
  ⟨dispatches_of (by decide), by decide, by decide, dispatches_of (by decide), by decide, dispatches_of (by decide),
    by decide, by decide, dispatches_of (by decide), by decide, by decide, by decide, by decide⟩

/-! ### Reading -/

/-- A label of a data frame 0. -/
def label0 : Label :=
  { kind := .data, stream := 0, frameIndex := 0, incarnation := 1, generation := 1, firstOffset := some 0, firstSeq := 1,
    checkGood := true }

/-- A portion over a whole frame 0 of segment 9. -/
def program0 : Program :=
  { segment := 9, frame := 0, portion := 0, lo := 0, hi := 512, bytes := List.replicate 512 0x22, damaged := false,
    pad := false, label := some label0 }

theorem witness_ProgrammedPortionReadsBack :
    let m := State.reset.medium
    m.wf = true ∧ program0.portion = 0 ∧ program0.lo = 0 ∧ 0 < program0.hi ∧ program0.hi ≤ 512 ∧
    program0.bytes.length = program0.hi ∧ program0.label = some label0 ∧ label0.checkGood = true ∧
    label0.frameIndex = program0.frame ∧ m.margin program0.segment program0.frame = erasedMargin ∧
    (List.replicate 512 (0x7E : Byte)).length = 512 := by
  decide +kernel

/-- Records 1 to 7 of which 4 to 6 lie in no chain entry. -/
def gap : Stream := { seven with chain := [entry 9 1 1 3, entry 11 3 7 7] }

theorem witness_ReadsJudgeTheSequence :
    let s := with0 { gap with oldest := 2, cursor := 1 } ready
    let t := with0 { gap with cursor := 4 } ready
    let rr := fun q => Cmd.readRecord 0 q
    Dispatches (front (rr 1) ready) (frameOf (rr 1)) (rr 1) ∧ (streamOf ready 0).defn = none ∧
    Dispatches (front (rr 1) s) (frameOf (rr 1)) (rr 1) ∧ 1 < (streamOf s 0).oldest ∧ holdsRecord (streamOf s 0) = true ∧
    Dispatches (front (rr 8) s) (frameOf (rr 8)) (rr 8) ∧ (streamOf s 0).newest < 8 ∧
    Dispatches (front (rr 6) s) (frameOf (rr 6)) (rr 6) ∧ (∀ e ∈ (streamOf s 0).chain, 6 < e.first ∨ e.last < 6) ∧
    Dispatches (front (.readNext 0) ready) (frameOf (.readNext 0)) (.readNext 0) ∧
    Dispatches (front (.readNext 0) (with0 empty0 ready)) (frameOf (.readNext 0)) (.readNext 0) ∧
    Dispatches (front (.readNext 0) t) (frameOf (.readNext 0)) (.readNext 0) ∧
    max (streamOf t 0).cursor (streamOf t 0).oldest = 4 ∧ (streamOf t 0).cursor ≤ (streamOf t 0).newest ∧
    (∀ e ∈ (streamOf t 0).chain, 4 < e.first ∨ e.last < 4) ∧ ready.rsp.bytes = [] :=
  ⟨dispatches_of (by decide), by decide, dispatches_of (by decide), by decide, by decide, dispatches_of (by decide),
    by decide, dispatches_of (by decide), by decide, dispatches_of (by decide), dispatches_of (by decide),
    dispatches_of (by decide), by decide, by decide, by decide, by decide⟩

/-- Stream 0 with record 1 in its tail image, after two bytes of an earlier frame's record. -/
def inTail : Stream :=
  { three with
    chain := [entry 9 1 1 1], newest := 1
    tail := .pos { tail9 22 1 with
      image := [0xAA, 0xBB] ++ recordHeader 4 0x5C 0 1 7 true false 0 ++ [1, 2, 3, 4] ++ []
      offset := 22, header := some (2, 1) } }

theorem witness_RecordInTheTailIsDelivered :
    let s := with0 inTail ready
    Dispatches (front (.readRecord 0 1) s) (frameOf (.readRecord 0 1)) (.readRecord 0 1) ∧ s.rsp.bytes = [] ∧
    (streamOf s 0).defn ≠ none ∧ holdsRecord (streamOf s 0) = true ∧ (streamOf s 0).oldest ≤ 1 ∧
    1 ≤ (streamOf s 0).newest ∧
    (streamOf s 0).chain.find? (fun x => x.first ≤ 1 && 1 ≤ x.last) = some (entry 9 1 1 1) ∧
    aliasSegment s 9 = (entry 9 1 1 1).segment ∧ some (2, 1) = some (([0xAA, 0xBB] : List Byte).length, 1) ∧
    ([1, 2, 3, 4] : List Byte).length ≤ 1536 :=
  ⟨dispatches_of (by decide), by decide⟩

/-- The same reads, and those of a segment and a slot, at the end of a wait for the Response Buffer. -/
theorem witness_ResponseCommandsWaitForTheBuffer_reads :
    let waits := fun c s => (waiting (inPhase c .waitResponse s)).any (fun d => d.phase = .waitResponse ∧ d.cmd = c) &&
      s.rsp.bytes.isEmpty
    let rr := fun q => Cmd.readRecord 0 q
    let s := with0 { gap with oldest := 2 } ready
    let w := fun l s => ({ s with vault := { s.vault with written := l } } : State)
    (waits (rr 1) s = true ∧ 1 < (streamOf s 0).oldest ∧ waits (rr 8) s = true ∧ (streamOf s 0).newest < 8 ∧
      waits (rr 6) s = true ∧ (∀ e ∈ (streamOf s 0).chain, 6 < e.first ∨ e.last < 6) ∧ waits (rr 3) s = true ∧
      (streamOf s 0).chain.find? (fun x => x.first ≤ 3 && 3 ≤ x.last) = some (entry 9 1 1 3) ∧
      (streamOf s 0).tail = .exhausted ∧ hasJobInto s 9 = false ∧ waits (rr 1) (with0 inTail ready) = true) ∧
    (waits (.readNext 0) (with0 empty0 ready) = true ∧ waits (.readNext 0) (with0 { gap with cursor := 4 } ready) = true ∧
      waits (.readNext 0) (with0 { gap with cursor := 1, oldest := 2 } ready) = true ∧ 0 < ready.streams.length ∧
      gap.chain.find? (fun x => x.first ≤ 2 && 2 ≤ x.last) = some (entry 9 1 1 3)) ∧
    (waits (.segmentStatus 5) ready = true ∧ isUser 5 = true ∧ (segOf ready 5).state = .freeErased ∧
      waits (.segmentStatus 0) ready = true ∧ isUser 0 = false) ∧
    waits (.vaultRead 1) (ready.withJobs [vaultJob 1 0 [0x55]]) = true ∧ (vaultJob 1 0 [0x55]).segment = 3 ∧
    waits (.vaultRead 0) (w [0] ready) = true ∧ (w [0] ready).write.jobs = [] ∧ waits (.vaultRead 31) (w [0] ready) = true := by
  decide +kernel

/-- R37: the wait's end delivers the record from the tail. -/
theorem test_read_after_the_wait_for_the_buffer :
    let t := after .responseBufferWaitEnd (inPhase (.readRecord 0 1) .waitResponse (with0 inTail ready))
    lastReply t = some (.done, 1, 0) ∧ t.rsp.bytes.drop 16 = [1, 2, 3, 4] := by
  decide +kernel

/-- A lookup that reads frame `k` of segment 9 for record `q`. -/
def lookup9 (k q : Nat) : Lookup :=
  { stream := 0, seq := q, skip := 0, segment := 9, tail := none, jobs := [], frame := k, views := [] }

/-- The device while that READ is performed. -/
def looking (k q : Nat) (s : State) : State :=
  performing .sequencer (.read 9 k 0 512) (inPhase (.readRecord 0 q) (.lookup (lookup9 k q)) s)

/-- The medium with one record of four bytes in frame 0 of segment 9. -/
def stored : State :=
  { with0 { three with newest := 1, chain := [entry 9 1 1 1], tail := .exhausted } ready with
    medium := State.reset.medium.endProgram
      { program0 with hi := 20, bytes := recordHeader 4 0x5C 0 1 7 true false 0 ++ [1, 2, 3, 4] } .pass }

theorem witness_LookupReadsFramesAndDelivers :
    let s := with0 seven ready
    (Dispatches (front (.readRecord 0 3) s) (frameOf (.readRecord 0 3)) (.readRecord 0 3) ∧ s.rsp.bytes = [] ∧
      holdsRecord (streamOf s 0) = true ∧
      (streamOf s 0).chain.find? (fun x => x.first ≤ 3 && 3 ≤ x.last) = some (entry 9 1 1 3) ∧
      (∀ p, (streamOf s 0).tail = .pos p → aliasSegment s p.segment ≠ 9) ∧ hasJobInto s 9 = false) ∧
    (Dispatches (front (.readNext 0) s) (frameOf (.readNext 0)) (.readNext 0) ∧ 1 ≤ (streamOf s 0).cursor ∧
      (streamOf s 0).cursor ≤ (streamOf s 0).newest ∧ 0 < s.streams.length ∧
      (streamOf s 0).chain.find? (fun x => x.first ≤ 1 && 1 ≤ x.last) = some (entry 9 1 1 3)) ∧
    (Performs (looking 0 1 ready) .sequencer (.read 9 0 0 512) ∧
      (composeView (lookup9 0 1) 0 (readFrame ready.medium 9 0 0 512 quiet)).start = none ∧ (lookup9 0 1).frame = 0) ∧
    (Performs (looking 31 1 ready) .sequencer (.read 9 31 0 512) ∧
      (composeView (lookup9 31 1) 31 (readFrame ready.medium 9 31 0 512 quiet)).start = none ∧
      needsNoRead (lookup9 31 1) 30 = false) :=
  ⟨⟨dispatches_of (by decide), by decide, by decide, by decide, (fun p h => by cases h), by decide⟩,
    ⟨dispatches_of (by decide), by decide, by decide, by decide, by decide⟩,
    ⟨performs_of (by decide) (by decide) (by decide), by decide, by decide⟩,
    ⟨performs_of (by decide) (by decide) (by decide), by decide, by decide⟩⟩

/-- A record read without error is found and CLEAN; three bit errors make it MAJOR and a failed check BROKEN; a sequence
beyond it is not found. -/
theorem witness_LookupReadsFramesAndDelivers_found :
    let view := fun n => composeView (lookup9 0 1) 0 (readFrame stored.medium 9 0 0 512 n)
    let found := fun n => findRecord [(0, view n)] 0 1 33 0 0 1
    let noise := fun e c => ({ quiet with portions := [⟨none, e, c, false, none⟩] } : ReadNoise)
    Performs (looking 0 1 stored) .sequencer (.read 9 0 0 512) ∧ (view quiet).start = some (0, 1) ∧
    (found quiet).any (fun g => recordGrade [(0, view quiet)] g = .clean) = true ∧
    (found (noise 3 false)).any (fun g => recordGrade [(0, view (noise 3 false))] g = .major) = true ∧
    (segOf stored 9).weak = false ∧
    (found (noise 0 true)).any (fun g => recordGrade [(0, view (noise 0 true))] g = .broken) = true ∧
    findRecord [(0, view quiet)] 0 2 33 0 0 1 = none :=
  ⟨performs_of (by decide +kernel) (by decide +kernel) (by decide +kernel), by decide +kernel⟩

/-! ### Protection -/

theorem witness_LockCommandsActAfterTheirBarrier :
    let c := Cmd.unlockRange 5 1023 1
    let s := guardedBy (active none) ready
    let fr := guardedBy (fun g => { g with frozen := true }) s
    let t := full8 (with0 pending3 s)
    let j := s.withJobs [job (some 0) 9 1]
    Dispatches (front c ready) (frameOf c) c ∧ ready.guard.mode = .disabled ∧
    Dispatches (front c fr) (frameOf c) c ∧ fr.guard.mode = .active ∧ fr.guard.frozen = true ∧
    Dispatches (front .lockAll t) (frameOf .lockAll) .lockAll ∧ programRoom t < (pendingStreams t).length ∧
    Dispatches (front .lockAll j) (frameOf .lockAll) .lockAll ∧ pendingStreams j = [] ∧ j.write.jobs ≠ [] ∧
    Dispatches (front .freezeLocks s) (frameOf .freezeLocks) .freezeLocks ∧ s.guard.frozen = false ∧
    (waiting (inPhase c .waitBarrier j)).any (fun d => d.phase = .waitBarrier ∧ d.cmd = c) = true ∧
    (waiting (inPhase c .waitBarrier s)).any (fun d => d.phase = .waitBarrier ∧ d.cmd = c) = true ∧
    locked s 4 = false ∧ locked s 5 = true ∧ locked s 1023 = true ∧ locked s 1024 = false :=
  ⟨dispatches_of (by decide), by decide, dispatches_of (by decide), by decide, by decide, dispatches_of (by decide),
    by decide, dispatches_of (by decide), by decide, by decide, dispatches_of (by decide), by decide⟩

/-- A barrier that finds a pending tail and room for its job: a lock command, HALT, SEAL. -/
theorem witness_LockCommandsActAfterTheirBarrier_tails :
    let s := guardedBy (active none) (with0 pending3 ready)
    Dispatches (front .lockAll s) (frameOf .lockAll) .lockAll ∧ s.guard.frozen = false ∧ pendingStreams s = [0] ∧
    1 ≤ programRoom s ∧
    Dispatches (front .halt (full8 s)) (frameOf .halt) .halt ∧ programRoom (full8 s) < (pendingStreams (full8 s)).length ∧
    Dispatches (front .halt s) (frameOf .halt) .halt :=
  ⟨dispatches_of (by decide), by decide, by decide, by decide, dispatches_of (by decide), by decide,
    dispatches_of (by decide)⟩

theorem witness_GuardHoldsWritesAndItsEdgesAct :
    let g := guardedBy low ready
    let h := g.withJobs [job (some 0) 9 1]
    operating ready = true ∧ nothingDue ready = true ∧ ready.power.state ≠ .pfailFlush ∧ ready.power.state ≠ .dead ∧
    ready.guard.level = true ∧ operating g = true ∧ nothingDue g = true ∧ g.guard.level = false ∧
    guarded h = true ∧ isAwake h = true ∧ h.engine.op = none ∧ h.write.jobs = job (some 0) 9 1 :: [] ∧
    h.engine.reloc = none ∧ h.engine.request = none ∧ h.catalogue.queue = [] ∧ h.events.holdClear = false ∧
    h.guard.episode = false := by
  decide

theorem witness_GuardHoldsWritesAndItsEdgesAct_locked :
    let s := guardedBy (fun g => low (active none g)) ((with0 three ready).withJobs [job (some 0) 9 1])
    isAwake s = true ∧ nothingDue s = true ∧ s.guard.level = false ∧ s.write.jobs = job (some 0) 9 1 :: [] ∧
    0 < s.streams.length ∧ locked s 9 = true ∧ s.engine.op = none ∧ s.engine.reloc = none ∧ s.engine.request = none ∧
    s.catalogue.queue = [] ∧ s.events.holdClear = false := by
  decide

theorem witness_SegmentStatusCountsTheFrames :
    let c := fun g => Cmd.segmentStatus g
    let s := withSeg 1023 .freeStale ready
    let n := fun k => inPhase (c 9) (.counting k) ready
    Dispatches (front (c 4) ready) (frameOf (c 4)) (c 4) ∧ ready.rsp.bytes = [] ∧
    Dispatches (front (c 5) ready) (frameOf (c 5)) (c 5) ∧ isUser 5 = true ∧ (segOf ready 5).state = .freeErased ∧
    Dispatches (front (c 1023) s) (frameOf (c 1023)) (c 1023) ∧ (segOf s 1023).state = .freeStale ∧
    Dispatches (front (c 0) ready) (frameOf (c 0)) (c 0) ∧ isUser 0 = false ∧
    Performs (performing .sequencer (.read 9 0 0 512) (n 0)) .sequencer (.read 9 0 0 512) ∧
    frameErased (readFrame ready.medium 9 0 0 512 quiet) = true ∧ frameErased (readFrame stored.medium 9 0 0 512 quiet) = false ∧
    Performs (performing .sequencer (.read 9 31 0 512) (n 31)) .sequencer (.read 9 31 0 512) ∧
    Performs (performing .sequencer (.read 9 0 0 512) (inPhase (c 9) (.counting 31) stored)) .sequencer (.read 9 0 0 512) :=
  ⟨dispatches_of (by decide), by decide, dispatches_of (by decide), by decide, by decide, dispatches_of (by decide),
    by decide, dispatches_of (by decide), by decide, performs_of (by decide) (by decide) (by decide), by decide +kernel,
    by decide +kernel, performs_of (by decide) (by decide) (by decide),
    performs_of (by decide +kernel) (by decide +kernel) (by decide +kernel)⟩

theorem witness_ArmSetsItsTarget :
    let f := fun t c => front (.arm t c) ready
    goodHead (f 0x52 0xAD) = some (frameOf (.arm 0x52 0xAD), .arm 0x52 0xAD) ∧ dispatchReady (f 0x52 0xAD) = true ∧
    (0xAD : Byte) = ~~~ 0x52 ∧ goodHead (f 0x49 0xB7) = some (frameOf (.arm 0x49 0xB7), .arm 0x49 0xB7) ∧
    dispatchReady (f 0x49 0xB7) = true ∧ ¬ (0xB7 : Byte) = ~~~ 0x49 := by
  decide

/-- Thirty-one sealed groups are programmed: `n` ledger frames are used. -/
def ledgered (n : Nat) (s : State) : State := { s with vault := { s.vault with used := n } }

/-- The same stream with its oldest segment SEALED. -/
def sealedOnce : Stream := { seven with chain := [{ entry 9 1 1 3 with isSealed := true }, entry 10 2 4 6, entry 11 3 7 7] }

/-- SEAL of stream 0 up to sequence 3. -/
abbrev seal0 : Cmd := .sealStream 0 3

theorem witness_SealJudgesAndHandsOverTheLedgerFrame :
    let s := armed 0x49 (with0 seven ready)
    let e := armed 0x49 (with0 empty0 ready)
    let a := armed 0x49 (with0 (inState .archived three) ready)
    let p := armed 0x49 (full8 (with0 pending3 ready))
    let j := armed 0x49 ((with0 seven ready).withJobs [job (some 0) 11 1])
    let done := armed 0x49 (with0 sealedOnce ready)
    Dispatches (front seal0 (armed 0x49 ready)) (frameOf seal0) seal0 ∧ (streamOf ready 0).defn = none ∧
    Dispatches (front seal0 a) (frameOf seal0) seal0 ∧ (streamOf a 0).state = .archived ∧
    Dispatches (front seal0 e) (frameOf seal0) seal0 ∧ takesRecords (streamOf e 0) = true ∧
    holdsRecord (streamOf e 0) = false ∧
    Dispatches (front seal0 p) (frameOf seal0) seal0 ∧ takesRecords (streamOf p 0) = true ∧ 3 ≤ (streamOf p 0).newest ∧
    holdsRecord (streamOf p 0) = true ∧ 0 ∈ pendingStreams p ∧ p.write.jobs.length = 8 ∧
    Dispatches (front seal0 j) (frameOf seal0) seal0 ∧ 0 ∉ pendingStreams j ∧ hasJobOf j 0 = true ∧
    Dispatches (front seal0 s) (frameOf seal0) seal0 ∧ takesRecords (streamOf s 0) = true ∧
    0 ∉ pendingStreams s ∧ hasJobOf s 0 = false ∧ guarded s = false ∧
    sealSet 0 3 (streamOf s 0) = [{ segment := 9, stream := 0, incarnation := 1, generation := 1 }] ∧ s.vault.used < 32 ∧
    Dispatches (front seal0 done) (frameOf seal0) seal0 ∧ sealSet 0 3 (streamOf done 0) = [] :=
  ⟨dispatches_of (by decide), by decide, dispatches_of (by decide), by decide, dispatches_of (by decide), by decide,
    by decide, dispatches_of (by decide), by decide, by decide, by decide, by decide, by decide,
    dispatches_of (by decide), by decide, by decide, dispatches_of (by decide), by decide, by decide, by decide,
    by decide, by decide, by decide, dispatches_of (by decide), by decide⟩

theorem witness_SealJudgesAndHandsOverTheLedgerFrame_dispatch :
    let s := armed 0x49 (with0 seven ready)
    let g := guardedBy low s
    let t := armed 0x49 (with0 pending3 ready)
    let need := ((sealSet 0 3 (streamOf s 0)).length + 30) / 31
    Dispatches (front seal0 g) (frameOf seal0) seal0 ∧ guarded g = true ∧ hasJobOf g 0 = false ∧ 0 ∉ pendingStreams g ∧
    Dispatches (front seal0 (ledgered 32 s)) (frameOf seal0) seal0 ∧ 32 < (ledgered 32 s).vault.used + need ∧
    Dispatches (front seal0 (ledgered 31 s)) (frameOf seal0) seal0 ∧ (ledgered 31 s).vault.used + need ≤ 32 ∧
    Dispatches (front seal0 t) (frameOf seal0) seal0 ∧ takesRecords (streamOf t 0) = true ∧ 0 ∈ pendingStreams t ∧
    t.write.jobs.length < 8 ∧ (streamOf t 0).tail = .pos { tail9 60 1 with ends := [(60, 3)] } :=
  ⟨dispatches_of (by decide), by decide, by decide, by decide, dispatches_of (by decide), by decide,
    dispatches_of (by decide), by decide, dispatches_of (by decide), by decide⟩

/-- Groups of 31, the last with the remainder (R133): 62 make two whole ones, 63 a third of one. -/
theorem witness_SealJudgesAndHandsOverTheLedgerFrame_groups :
    let x : SealEntry := { segment := 9, stream := 0, incarnation := 1, generation := 1 }
    GroupsOf31 (List.replicate 62 x) (List.replicate 2 (List.replicate 31 x)) ∧
    GroupsOf31 (List.replicate 63 x) (List.replicate 2 (List.replicate 31 x) ++ [[x]]) ∧
    ¬ GroupsOf31 (List.replicate 2 x) [[x], [x]] := by
  unfold GroupsOf31
  decide +kernel

/-- The set holds the write segment, or does not. -/
theorem witness_SealJudgesAndHandsOverTheLedgerFrame_closing :
    let s := with0 seven ready
    let x := fun g => ({ segment := g, stream := 0, incarnation := 1, generation := 3 } : SealEntry)
    storeWf (fun _ => SegEntry.free) 0 s.segments.map = true ∧
    writeEntry s (streamOf s 0) = some (entry 11 3 7 7) ∧ (x 11).segment = (entry 11 3 7 7).segment ∧
    (x 9).segment ≠ (entry 11 3 7 7).segment ∧ writeEntry s (streamOf s 1) = none := by
  decide

/-- R133: a SEAL that takes in the write segment closes it: its tail is EXHAUSTED and the next COMMIT needs a new one. -/
theorem test_seal_closes_the_write_segment :
    let t := after .sealStream (front (.sealStream 0 3) (armed 0x49 (with0 three ready)))
    (streamOf t 0).tail = .exhausted ∧ (segOf t 9).isOpen = false ∧ writeEntry t (streamOf t 0) = none ∧
    t.engine.op.map (fun r => r.who) = some .ledger := by
  decide +kernel

theorem witness_SealJudgesAndHandsOverTheLedgerFrame_barrier :
    let b := fun s => waiting (inPhase seal0 .waitBarrier s)
    let s := with0 seven ready
    let hit := fun s => (b s).any (fun d => d.phase = .waitBarrier ∧ d.cmd = seal0)
    hit (s.withJobs [job (some 0) 11 1]) = true ∧ hit (with0 (inState .faulted seven) ready) = true ∧
    hit (guardedBy low s) = true ∧ guarded (guardedBy low s) = true ∧ hit s = true ∧ hit (ledgered 32 s) = true ∧
    32 < (ledgered 32 s).vault.used + ((sealSet 0 3 (streamOf s 0)).length + 30) / 31 ∧ hit (ledgered 31 s) = true ∧
    (ledgered 31 s).vault.used + ((sealSet 0 3 (streamOf s 0)).length + 30) / 31 ≤ 32 ∧
    hit (with0 sealedOnce ready) = true ∧ sealSet 0 3 (streamOf (with0 sealedOnce ready) 0) = [] := by
  decide

/-- The ledger writer's program is performed. -/
def sealing (ph : Phase) (c : Cmd) (n : Nat) : State :=
  performing .ledger (.program (systemProgram .ledger 2 n [])) (inPhase c ph (ledgered n (with0 seven ready)))

theorem witness_LedgerProgramsSealOrClose :
    let g : List SealEntry := [{ segment := 9, stream := 0, incarnation := 1, generation := 1 }]
    let p := fun n => Op.program (systemProgram .ledger 2 n [])
    Performs (sealing (.sealing [g] 0 1) seal0 30) .ledger (p 30) ∧ Performs (sealing (.sealing [g] 0 1) seal0 31) .ledger (p 31) ∧
    Performs (sealing (.sealing [g, g] 0 2) seal0 30) .ledger (p 30) ∧
    Performs (sealing (.sealing [g, g] 0 2) seal0 31) .ledger (p 31) ∧
    Performs (sealing .closing .vaultClose 30) .ledger (p 30) ∧ Performs (sealing .closing .vaultClose 31) .ledger (p 31) ∧
    (sealing .closing .vaultClose 30).vault.used < 31 ∧ 31 ≤ (sealing .closing .vaultClose 31).vault.used ∧
    (sealing .closing .vaultClose 31).vault.used < 32 ∧ (ProgramResult.fail ⟨none, none, []⟩).failed = true :=
  ⟨performs_of (by decide) (by decide) (by decide), performs_of (by decide) (by decide) (by decide),
    performs_of (by decide) (by decide) (by decide), performs_of (by decide) (by decide) (by decide),
    performs_of (by decide) (by decide) (by decide), performs_of (by decide) (by decide) (by decide), by decide, by decide,
    by decide, by decide⟩

/-- R133: after the program of the last ledger frame no further group is asked for; SEAL stops with MEDIUM, and the first
group is sealed. -/
theorem test_seal_stops_when_the_ledger_is_full :
    let g : List SealEntry := [{ segment := 9, stream := 0, incarnation := 1, generation := 1 }]
    let h : List SealEntry := [{ segment := 10, stream := 0, incarnation := 1, generation := 2 }]
    let t := after (.ledgerProgramEnd .pass) (sealing (.sealing [g, h] 1 2) seal0 31)
    lastReply t = some (.medium, 0, 0) ∧ t.vault.used = 32 ∧ t.vault.sealedSet = [9] ∧ t.engine.request = none ∧
    (segOf t 9).state = .segSealed ∧ (segOf t 10).state = .freeErased := by
  decide +kernel

/-- Slot 0 is written and slot 1 waits in the Program Queue. -/
def slots (s : State) : State :=
  { s.withJobs [vaultJob 1 0 [0x55]] with vault := { s.vault with written := [0] } }

theorem witness_VaultCommandsActInTheirOrder :
    let w := fun k => Cmd.vaultWrite k [0x55]
    let r := fun k => Cmd.vaultRead k
    let shut := { ready with vault := { ready.vault with closed := true } }
    let wr := { ready with vault := { ready.vault with written := [0] } }
    let cl := fun s => armed 0x52 s
    (Dispatches (front (w 0) shut) (frameOf (w 0)) (w 0) ∧ Dispatches (front (w 31) ready) (frameOf (w 31)) (w 31) ∧
      31 ≠ nextSlot ready ∧ Dispatches (front (w 0) (guardedBy low ready)) (frameOf (w 0)) (w 0) ∧
      Dispatches (front (w 0) (full8 ready)) (frameOf (w 0)) (w 0) ∧ 0 = nextSlot (full8 ready) ∧
      Dispatches (front (w 2) (slots ready)) (frameOf (w 2)) (w 2) ∧ 2 = nextSlot (slots ready)) ∧
    (Dispatches (front (r 1) (slots ready)) (frameOf (r 1)) (r 1) ∧ (slots ready).write.jobs = [vaultJob 1 0 [0x55]] ∧
      (vaultJob 1 0 [0x55]).segment = 3 ∧ (vaultJob 1 0 [0x55]).frame = 1 ∧
      Dispatches (front (r 0) wr) (frameOf (r 0)) (r 0) ∧ 0 ∈ wr.vault.written ∧ wr.write.jobs = [] ∧
      Dispatches (front (r 31) ready) (frameOf (r 31)) (r 31) ∧ 31 ∉ ready.vault.written) ∧
    (Performs (performing .sequencer (.read 3 0 0 512) (inPhase (r 0) .slotRead ready)) .sequencer (.read 3 0 0 512) ∧
      0 ∉ ready.vault.failed ∧ slotGrade (readFrame ready.medium 3 0 0 512 quiet) = .broken ∧
      slotGrade (readFrame (ready.medium.endProgram (jobProgram (vaultJob 0 0 [0x55])) .pass) 3 0 0 512 quiet) = .clean) ∧
    Dispatches (front .vaultClose (cl shut)) (frameOf .vaultClose) .vaultClose ∧
    Dispatches (front .vaultClose (cl (guardedBy low ready))) (frameOf .vaultClose) .vaultClose ∧
    Dispatches (front .vaultClose (cl (ledgered 32 ready))) (frameOf .vaultClose) .vaultClose ∧
    Dispatches (front .vaultClose (cl (ledgered 31 ready))) (frameOf .vaultClose) .vaultClose :=
  ⟨⟨dispatches_of (by decide), dispatches_of (by decide), by decide, dispatches_of (by decide),
      dispatches_of (by decide), by decide, dispatches_of (by decide), by decide⟩,
    ⟨dispatches_of (by decide), rfl, by decide, by decide, dispatches_of (by decide), by decide, by decide,
      dispatches_of (by decide), by decide⟩,
    ⟨performs_of (by decide) (by decide) (by decide), by decide, by decide +kernel, by decide +kernel⟩,
    dispatches_of (by decide), dispatches_of (by decide), dispatches_of (by decide), dispatches_of (by decide)⟩

/-! ### Options, descriptor, identity, notices, time -/

/-- The prescaler count and the counter stand at these values. -/
def ticking (p : Nat) (k : Word32) (s : State) : State := { s with time := { s.time with prescaler := p, counter := k } }

theorem witness_OptionsAndThePrescaler :
    let o := fun id v => Cmd.setOption id v
    Dispatches (front (o 2 3) ready) (frameOf (o 2 3)) (o 2 3) ∧ Dispatches (front (o 3 7) ready) (frameOf (o 3 7)) (o 3 7) ∧
    Dispatches (front (o 3 5) ready) (frameOf (o 3 5)) (o 3 5) ∧ ready.options.tickDivider = 5 ∧
    Dispatches (front (o 6 0) ready) (frameOf (o 6 0)) (o 6 0) ∧
    goodHead (front (o 3 8) ready) = some (frameOf (o 3 8), o 3 8) ∧ dispatchReady (front (o 3 8) ready) = true ∧
    paramsInRange (o 3 8) = false ∧ Dispatches (front (.getOption 6) ready) (frameOf (.getOption 6)) (.getOption 6) ∧
    nothingDue ready = true ∧ pulseCounts (.xin true) ready = true ∧ ready.time.prescaler = 0 :=
  ⟨dispatches_of (by decide), dispatches_of (by decide), dispatches_of (by decide), by decide, dispatches_of (by decide),
    by decide, by decide, by decide, dispatches_of (by decide), by decide, by decide, by decide⟩

/-- What the READ of a descriptor copy or of the identity frame is performed for. -/
def copying (ph : Phase) (c : Cmd) (frame hi : Nat) : State :=
  performing .sequencer (.read 4 frame 0 hi) (inPhase c ph ready)

/-- A factory frame's first portion read with a failed check. -/
def garbled : ReadNoise := { quiet with portions := [⟨none, 0, true, false, none⟩] }

/-- The identity frame read as the first copy good, and with its first byte wrong in copies 0 to 6. -/
def identityBytes (bad : Nat) : List Byte :=
  (List.range 8).flatMap (fun k => (if k < bad then [0x01] else [0x00]) ++ List.replicate 15 0x00 ++ List.replicate 16 0xFF)

/-- A READ of the identity frame that returns these bytes. -/
def identityRead (b : List Byte) : ReadNoise :=
  { quiet with portions := [⟨none, 0, true, false, some ⟨256, false, false, []⟩⟩], data := b }

theorem witness_DescribeAndIdentifyReadTheirCopies :
    Dispatches (front .describe ready) (frameOf .describe) .describe ∧
    Dispatches (front .identify ready) (frameOf .identify) .identify ∧ ready.rsp.bytes = [] ∧
    Performs (copying (.copies 0 []) .describe 0 40) .sequencer (.read 4 0 0 40) ∧
    Performs (copying (.copies 2 []) .describe 2 40) .sequencer (.read 4 2 0 40) ∧
    Performs (copying .identity .identify 3 256) .sequencer (.read 4 3 0 256) :=
  ⟨dispatches_of (by decide), dispatches_of (by decide), by decide, performs_of (by decide) (by decide) (by decide),
    performs_of (by decide) (by decide) (by decide), performs_of (by decide) (by decide) (by decide)⟩

theorem witness_ReadNoticesTakesTheWholeList :
    Dispatches (front .readNotices ready) (frameOf .readNotices) .readNotices ∧ ready.rsp.bytes = [] :=
  ⟨dispatches_of (by decide), by decide⟩

theorem witness_TimeIsSetArmedAndCounted :
    let last := ticking 31 0xFFFFFFFF ready
    let due := { last with time := { last.time with armed := true, alarm := 0 } }
    Dispatches (front (.setTime 0xFF 0xFFFFFFFF) ready) (frameOf (.setTime 0xFF 0xFFFFFFFF)) (.setTime 0xFF 0xFFFFFFFF) ∧
    Dispatches (front (.setAlarm 1 0) ready) (frameOf (.setAlarm 1 0)) (.setAlarm 1 0) ∧
    Dispatches (front (.setAlarm 0 0) ready) (frameOf (.setAlarm 0 0)) (.setAlarm 0 0) ∧
    nothingDue ready = true ∧ ready.power.state ≠ .doze ∧ pulseCounts (.xin true) ready = true ∧
    pulseCounts (.tickin) ready = false ∧
    ready.time.prescaler + 1 < 2 ^ ready.options.tickDivider ∧ pulseCounts (.xin true) due = true ∧
    2 ^ due.options.tickDivider ≤ due.time.prescaler + 1 ∧ due.time.counter = 0xFFFFFFFF ∧ due.time.armed = true ∧
    due.time.counter + 1 = due.time.alarm ∧ due.events.holdClear = false :=
  ⟨dispatches_of (by decide), dispatches_of (by decide), dispatches_of (by decide), by decide⟩

theorem witness_GetTimeCarriesTheTime :
    goodHead (front .getTime ready) = some (frameOf .getTime, .getTime) ∧ dispatchReady (front .getTime ready) = true ∧
    ready.options.tickSource < 256 ∧ ready.options.tickDivider < 256 := by
  decide

/-! ### DOZE, HALT, the waits -/

theorem witness_DozeAndHaltJudgeTheEntryCondition :
    let busy := ready.withJobs [job (some 0) 9 1]
    let two := { front .doze ready with sequencer := { (front .doze ready).sequencer with
      queue := [frameOf .doze, frameOf .sync] } }
    Dispatches (front .doze busy) (frameOf .doze) .doze ∧ busy.write.jobs ≠ [] ∧
    Dispatches (front .halt ready) (frameOf .halt) .halt ∧ pendingStreams ready = [] ∧ ready.write.jobs = [] ∧
    (front .halt ready).sequencer.queue = [frameOf .halt] ∧ ready.host.assembler = .idle ∧ engineClear ready = true ∧
    Dispatches two (frameOf .doze) .doze ∧ two.sequencer.queue ≠ [frameOf .doze] ∧
    (waiting (inPhase .doze .waitBarrier busy)).any (fun d => d.phase = .waitBarrier ∧ d.cmd = .doze) = true ∧
    (waiting (inPhase .halt .waitBarrier ready)).any (fun d => d.phase = .waitBarrier ∧ d.cmd = .halt) = true ∧
    cmdFill (inPhase .halt .waitBarrier ready) = 0 ∧ cmdFill (inPhase .doze .waitBarrier (crowded ready)) ≠ 0 ∧
    (waiting (inPhase .doze .waitBarrier { ready with sequencer := { ready.sequencer with queue := [frameOf .sync] } })).any
      (fun d => d.phase = .waitBarrier ∧ d.cmd = .doze) = true :=
  ⟨dispatches_of (by decide), by decide, dispatches_of (by decide), by decide, by decide, by decide, by decide, by decide,
    ⟨by decide, by decide, by decide⟩, by decide, by decide, by decide, by decide, by decide, by decide⟩

/-- A device whose DOZE or HALT entry is due. -/
def entering (e : Entry) : State := { ready with power := { ready.power with entryDue := some e } }

/-- A device in HALT. -/
def halted : State := { dozing with power := { dozing.power with state := .halt } }

/-- A device in DOZE whose next pulse wraps the counter, with WRAP enabled. -/
def dozingLate : State :=
  let s := ticking 31 0xFFFFFFFF dozing
  { s with events := { s.events with mask := 0xFF } }

theorem witness_EntriesAndWakes :
    operating (entering .doze) = true ∧ (entering .doze).power.state = .awake .ready ∧
    soleDuty (entering .doze) false none (some .doze) ∧ operating (entering .halt) = true ∧
    soleDuty (entering .halt) false none (some .halt) ∧ operating dozing = true ∧ nothingDue dozing = true ∧
    dozing.power.remembered = some .ready ∧ dozing.power.state = .doze ∧ operating dozingLate = true ∧
    pulseWakes (.xin true) dozingLate = true ∧ operating halted = true ∧ nothingDue halted = true ∧
    halted.power.state = .halt :=
  ⟨by decide, rfl, ⟨rfl, rfl, rfl, rfl⟩, by decide, ⟨rfl, rfl, rfl, rfl⟩, by decide⟩

theorem witness_RoomWaitEndsWithRoom :
    let w := fun c s => waiting (inPhase c (.waitRoom 1) s)
    let hit := fun c s => (w c s).any (fun d => d.phase = .waitRoom 1 ∧ d.cmd = c)
    hit .sync (full8 ready) = true ∧ programRoom (full8 ready) < 1 ∧ hit .sync ready = true ∧ 1 ≤ programRoom ready ∧
    pendingStreams ready = [] ∧ ready.write.jobs = [] ∧ hit commit0 ready = true ∧ (streamOf ready 0).defn = none ∧
    hit commit0 (guardedBy low (with0 three ready)) = true ∧
    takesRecords (streamOf (guardedBy low (with0 three ready)) 0) = true ∧ hit (.vaultWrite 0 [1]) ready = true ∧
    hit .lockAll ready = true ∧ hit .halt (ready.withJobs [job (some 1) 8 9]) = true ∧
    1 ≤ programRoom (ready.withJobs [job (some 1) 8 9]) := by
  decide

/-- The command waits for room, under EAGER if so. -/
def awaiting (c : Cmd) (k : Nat) (eager : Bool) (s : State) : State :=
  { s with sequencer := { s.sequencer with
      dispatched := some { id := 0, tag := 0x21, opcode := c.code, cmd := c, eager := eager, abortLate := false,
                           phase := .waitRoom k } } }

theorem witness_RoomWaitEndsWithRoom_work :
    let hit := fun c k e s => (waiting (awaiting c k e s)).any (fun d => d.phase = .waitRoom k ∧ d.cmd = c ∧ d.eager = e)
    let t := with0 pending3 ready
    let c := staged 0 4 (with0 three ready)
    let b := staged 0 97 (with0 (filling 400) ready)
    (hit .sync 1 true t = true ∧ pendingStreams t = [0] ∧ 1 ≤ programRoom t ∧ hit .halt 1 true t = true ∧
      hit .freezeLocks 1 true t = true ∧ hit seal0 1 true t = true ∧ t.write.jobs.length < 8) ∧
    (hit (.vaultWrite 0 [1]) 1 true ready = true ∧ 0 = nextSlot ready ∧ guarded ready = false) ∧
    (hit commit0 1 true c = true ∧ CommitOpen c 0 ∧ WriteUnlocked c 0 ∧ (streamOf c 0).tail = .pos (tailDone 60 1) ∧
      (tailDone 60 1).offset + 16 + (stagedPayload c).length < 512 ∧ (tailDone 60 1).portions < 3) ∧
    hit commit0 1 false b = true ∧ CommitOpen b 0 ∧ WriteUnlocked b 0 ∧
    (streamOf b 0).tail = .pos { tail9 400 1 with ends := [(400, 3)] } ∧ 512 ≤ 400 + 16 + (stagedPayload b).length ∧
    400 + 16 + (stagedPayload b).length < 1024 :=
  ⟨by decide, by decide, ⟨by decide, ⟨by decide, by decide, by decide⟩, unlocked_of_disabled 0 rfl, by decide⟩,
    by decide +kernel, ⟨by rfl, by rfl, by rfl⟩, unlocked_of_disabled 0 rfl, by decide +kernel⟩

/-- R81, R30: room for a SYNC's tail, its job emitted and named. -/
theorem test_sync_after_its_wait_for_room :
    let t := after .programQueueRoomWaitEnd (awaiting .sync 1 true ((with0 pending3 ready).withJobs [job (some 1) 8 9]))
    t.write.jobs.map (fun j => (j.segment, j.released)) = [(8, [9, 0]), (9, [0])] ∧
    t.sequencer.deferred.map (fun d => d.kind) = [.sync 1] := by decide

/-! ### The ends of the Array Engine's operations -/

/-- The head job is performed, and its command has deferred. -/
def jobbing (j : Job) (s : State) : State :=
  let t := performing .job (.program (jobProgram j)) (s.withJobs [j])
  { t with sequencer := { t.sequencer with
      deferred := [{ id := 1, tag := 0x33, opcode := 0x21, kind := .commit 0 3, abortLate := false, spoiled := false }] } }

theorem witness_ProgramJobEndsByItsResult :
    let u := jobbing (job (some 0) 9 1) (with0 pending3 ready)
    let v := jobbing (vaultJob 31 1 [0x55]) ready
    let op := fun j => Op.program (jobProgram j)
    Performs u .job (op (job (some 0) 9 1)) ∧ u.write.jobs = job (some 0) 9 1 :: [] ∧ 0 < u.streams.length ∧
    (∀ d ∈ u.sequencer.deferred, ([] : List Job).any (fun k => k.released.contains d.id) = false ∧ d.spoiled = false ∧
      d.kind = .commit 0 3) ∧
    NoLockedHead (u.withJobs []) ∧ (job (some 0) 9 1).segment ≠ 3 ∧ availableSegs u = 5 :: [6, 7, 8] ∧
    Performs v .job (op (vaultJob 31 1 [0x55])) ∧ v.write.jobs = vaultJob 31 1 [0x55] :: [] ∧
    (vaultJob 31 1 [0x55]).segment = 3 :=
  ⟨performs_of (by decide) (by decide) (by decide), rfl, by decide,
    fun d h => by
      have : d = _ := List.mem_singleton.mp h
      subst this; decide,
    fun _ h => (by cases h), by decide, by decide, performs_of (by decide +kernel) (by decide +kernel) rfl, rfl, rfl⟩

/-- A relocation of frame `f` of segment 9 to segment 5, performing `op` at `st`. -/
def moving (f tried : Nat) (st : RelocStage) (op : Op) (s : State) : State :=
  let t := updSeg 5 (fun e => { e with state := .taken }) (with0 three (s.withJobs [job (some 0) 9 1]))
  performing .relocation op
    { t with
      segments := { t.segments with pool := [6, 7] }
      engine := { t.engine with reloc := some { segment := 9, frame := f, portion := 0, stream := 0, target := 5,
                                                tried := tried, stage := st, damagedFrames := 0 } } }

/-- The program of a copy to frame `k` of segment 5. -/
def copy5 (k : Nat) : Program := { program0 with segment := 5, frame := k }

/-- The device in RESTRICTED. -/
def restricted (s : State) : State := { s with power := { s.power with state := .awake (.restricted .wornOut) } }

theorem witness_RelocationCopiesFrameByFrame :
    let e := moving 1 1 .eraseTarget (.erase 5) ready
    let r := fun f k => moving f 1 (.readFrame k) (.read 9 k 0 512) ready
    let c := moving 31 1 (.copyFrame 29 (copy5 29)) (.program (copy5 29)) ready
    Performs e .relocation (.erase 5) ∧ (segOf e 5).state = .taken ∧ 5 ∉ e.segments.pool ∧
    availableSegs e = 6 :: [7] ∧ e.catalogue.queue = [] ∧
    Performs (r 1 0) .relocation (.read 9 0 0 512) ∧ Performs (r 1 1) .relocation (.read 9 1 0 512) ∧
    (r 1 1).write.jobs = job (some 0) 9 1 :: [] ∧ guarded (r 1 0) = false ∧ NoLockedHead (r 1 0) ∧
    Performs c .relocation (.program (copy5 29)) ∧ (copy5 29).frame + 1 < 31 :=
  ⟨performs_of (by decide) (by decide) (by decide), by decide, by decide, by decide, by decide,
    performs_of (by decide) (by decide) (by decide), performs_of (by decide) (by decide) (by decide), by decide,
    by decide, fun j h => by cases h; decide, performs_of (by decide +kernel) (by decide +kernel) (by decide +kernel),
    by decide⟩

/-- The failed job was portion 0 of frame 0, and of frame 1. -/
theorem witness_RelocationCopiesFrameByFrame_portion0 :
    let e := moving 0 1 .eraseTarget (.erase 5) ready
    let c := moving 1 1 (.copyFrame 0 (copy5 0)) (.program (copy5 0)) ready
    Performs e .relocation (.erase 5) ∧ (segOf e 5).state = .taken ∧ guarded e = false ∧ e.catalogue.queue = [] ∧
    e.engine.reloc.any (fun x => x.portion = 0 ∧ x.frame = 0 ∧ x.target = 5) = true ∧
    e.write.jobs = job (some 0) 9 1 :: [] ∧ Performs c .relocation (.program (copy5 0)) ∧
    c.engine.reloc.any (fun x => x.portion = 0 ∧ (copy5 0).frame + 1 = x.frame) = true ∧ (copy5 0).damaged = false :=
  ⟨performs_of (by decide) (by decide) (by decide), by decide, by decide, by decide, by decide, by decide,
    performs_of (by decide +kernel) (by decide +kernel) (by decide +kernel), by decide⟩

theorem witness_RelocationCompletesOrGivesUp :
    let m := fun n s => moving 0 n (.copyFrame 0 (copy5 0)) (.program (copy5 0)) s
    let bare := { m 1 ready with segments := { (m 1 ready).segments with pool := [] } }
    (∀ n s, (n = 1 ∨ n = 2) → (s = ready ∨ s = restricted ready) → Performs (m n s) .relocation (.program (copy5 0))) ∧
    (m 1 ready).power.state = .awake .ready ∧ (m 1 ready).catalogue.retired.length < 40 ∧
    (m 1 (restricted ready)).power.state = .awake (.restricted .wornOut) ∧
    (m 1 (restricted ready)).write.jobs = job (some 0) 9 1 :: [] ∧ (m 1 (restricted ready)).catalogue.queue = [] ∧
    availableSegs (m 1 ready) = 6 :: [7] ∧ 5 ∉ (m 1 ready).segments.pool ∧ 0 < (m 2 ready).streams.length ∧
    Performs bare .relocation (.program (copy5 0)) ∧ availableSegs bare = [] := by
  refine ⟨?_, by decide, by decide, by decide, by decide, by decide, by decide, by decide, by decide,
    performs_of (by decide +kernel) (by decide +kernel) (by decide +kernel), by decide⟩
  rintro n s (rfl | rfl) (rfl | rfl) <;>
    exact performs_of (by decide +kernel) (by decide +kernel) (by decide +kernel)

/-- A relocation from segment 9 to 5 waits for the version of its retirement; the tail is in frame 0 of segment 9. -/
def retiring : State :=
  let s := moving 0 1 .retiring (.program (systemProgram .catalogue 0 5 [])) ready
  let s := performing .catalogue (.program (systemProgram .catalogue 0 5 [])) s
  { s.withJobs [job (some 0) 9 1, { job (some 0) 9 2 with portion := 1, lo := 16, hi := 60 }] with
    catalogue := { s.catalogue with
      queue := [.retire 9 true]
      work := some { version := { generation := 7, defs := [], retired := [9] }, erasing := false, segment := 0, frame := 5,
                     fallback := some 1 } } }

theorem witness_RelocationCompletesOrGivesUp_retired :
    Performs retiring .catalogue (.program (systemProgram .catalogue 0 5 [])) ∧ retiring.catalogue.work.isSome = true ∧
    retiring.catalogue.queue = .retire 9 true :: [] ∧
    retiring.engine.reloc.any (fun x => x.stage = .retiring ∧ x.segment = 9 ∧ x.target = 5 ∧ x.frame = 0) = true ∧
    retiring.write.jobs.length = 2 ∧ NoLockedHead (retiring.withJobs [{ job (some 0) 5 2 with portion := 1 }]) ∧
    (streamOf retiring 0).tail = .pos (tailDone 60 1) ∧ (tailDone 60 1).segment = 9 ∧ (tailDone 60 1).frame = 0 ∧
    retiring.events.holdClear = false ∧ retiring.events.fresh = [] ∧ retiring.sequencer.deferred = [] :=
  ⟨performs_of (by decide +kernel) (by decide +kernel) (by decide +kernel), by decide, by decide, by decide, by decide,
    fun j h => by cases h; decide, by decide, by decide, by decide, by decide, by decide, by decide⟩

/-- R109: the second job of the frame becomes portion 1 of the target, and the tail follows it. -/
theorem test_retirement_retargets_jobs_and_tail :
    let t := after (.catalogueProgramEnd .pass) retiring
    t.write.jobs.map (fun j => (j.segment, j.portion, j.lo)) = [(5, 1, 16)] ∧
    (match (streamOf t 0).tail with | .pos p => (p.segment, p.portions) | _ => (0, 0)) = (5, 2) ∧
    t.engine.reloc.isNone = true ∧ t.catalogue.generation = 7 := by
  decide +kernel

/-- A COMMIT of stream 0 waits for the erase of segment 5. -/
def eraseWaits (who : Requester) (t : Stream) (pool : List Nat) : State :=
  let s := updSeg 5 (fun e => { e with state := .taken }) (staged 0 4 (with0 t ready))
  performing who (.erase 5) (inPhase commit0 (.allocating 5 2)
    (updSeg 6 (fun e => { e with state := .freeStale }) { s with segments := { s.segments with pool := pool } }))

/-- The background erase of segment 6 is performed. -/
def eraseFree : State := performing .background (.erase 6) (updSeg 6 (fun e => { e with state := .freeStale }) ready)

theorem witness_ErasesOfFreeSegmentsEnd :
    let s := eraseWaits .sequencer (exhausted1 .linear 2) [6]
    let b := eraseWaits .background empty0 []
    Performs s .sequencer (.erase 5) ∧ s.sequencer.dispatched.any (fun d =>
      d.phase = .allocating 5 2 ∧ d.cmd = commit0 ∧ d.eager = false) = true ∧ 0 < s.streams.length ∧
    (segOf s 5).state = .taken ∧ (streamOf s 0).newest < 4294967294 ∧ 16 + (stagedPayload s).length < 512 ∧
    takesRecords (streamOf s 0) = true ∧ 5 ∉ s.segments.pool ∧ s.power.state = .awake .ready ∧
    s.catalogue.retired.length < 40 ∧ availableSegs s = 6 :: [] ∧ (segOf s 6).state = .freeStale ∧
    Performs b .background (.erase 5) ∧ availableSegs b = [] ∧ MediumSound eraseFree ∧
    Performs eraseFree .background (.erase 6) ∧ allocating 6 eraseFree = none ∧ erasingTarget 6 eraseFree = none ∧
    (segOf eraseFree 6).state = .freeStale ∧ eraseFree.catalogue.retired.length < 40 :=
  ⟨performs_of (by rfl) (by rfl) (by rfl), by decide, by decide, by rfl, by decide, by decide, by rfl, by decide, by rfl,
    by decide, by rfl, by rfl, performs_of (by rfl) (by rfl) (by rfl), by rfl,
    ⟨by rfl, by rfl⟩, performs_of (by rfl) (by rfl) (by rfl), by rfl, by decide⟩

/-- The catalogue writer's work on a version for `v`. -/
def cataloguing (v : VersionFor) (c : Cmd) (op : Op) (fall : Option Nat) (s : State) : State :=
  performing .catalogue op (inPhase c .version { s with catalogue := { s.catalogue with
    queue := [v], work := some { version := { generation := 7, defs := [], retired := [] }, erasing := false, segment := 0,
                                 frame := 5, fallback := fall } } })

theorem witness_CatalogueVersionsAreWrittenOrGivenUp :
    let p := systemProgram .catalogue 0 5 []
    let def_ := cataloguing (.define 7 .linear 1 [0x41]) (.defineStream 7 0 1 [0x41]) (.program p) (some 1) ready
    let del := fun t => cataloguing (.delete 0) (.deleteStream 0) (.program p) none (with0 t ready)
    let fmt := cataloguing .format .format (.program p) none
      { with0 three ready with power := { ready.power with state := .awake (.restricted .catalogueLost) } }
    let era := fun f => cataloguing (.delete 0) (.deleteStream 0) (.erase 1) f (with0 three ready)
    (Performs def_ .catalogue (.program p) ∧ def_.catalogue.queue = [.define 7 .linear 1 [0x41]] ∧
      def_.catalogue.work.isSome = true ∧ def_.sequencer.dispatched.isSome = true ∧ 7 < def_.streams.length) ∧
    (Performs (del three) .catalogue (.program p) ∧ (∀ x, (streamOf (del three) 0).defn = some x → x.archived = false) ∧
      (∀ e ∈ (streamOf (del three) 0).chain, e.isSealed = false) ∧
      Performs (del sealedOnce) .catalogue (.program p) ∧
      (∃ e ∈ (streamOf (del sealedOnce) 0).chain, e.isSealed = true)) ∧
    (Performs fmt .catalogue (.program p) ∧ fmt.streams.length = 8 ∧
      fmt.streams.all (fun x => x.chain.all (fun e => !e.isSealed) && !x.defn.any (fun y => y.archived)) = true) ∧
    Performs (era (some 0)) .catalogue (.erase 1) ∧ EngineSound (era none) ∧
    Performs (era none) .catalogue (.erase 1) ∧ (era none).catalogue.queue = [.delete 0] ∧ forCommand (.delete 0) = true :=
  ⟨⟨performs_of (by decide) (by decide) (by decide), rfl, rfl, rfl, by decide⟩,
    ⟨performs_of (by decide) (by decide) (by decide), fun x h => by cases h; rfl, by decide,
      performs_of (by decide) (by decide) (by decide), ⟨_, List.mem_cons_self, rfl⟩⟩,
    ⟨performs_of (by decide) (by decide) (by decide), by decide, by decide⟩,
    performs_of (by decide) (by decide) (by decide), fun r h => (by cases h),
    performs_of (by decide) (by decide) (by decide), rfl, rfl⟩

/-- FORMAT with a SEALED segment and with a stream that was ARCHIVED, and the versions of both commands. -/
theorem witness_CatalogueVersionsAreWrittenOrGivenUp_kept :
    let keeps : Stream → Bool := fun x => x.defn.any (fun y => y.archived || x.chain.any (fun e => e.isSealed))
    let old := { three with defn := some { def0 with archived := true }, state := .archived, chain := [] }
    let fmt := cataloguing .format .format (.program (systemProgram .catalogue 0 5 [])) none
      ((with0 sealedOnce ready).withStream 1 old)
    (∀ x, keeps x = true ↔ ∃ y, x.defn = some y ∧ (y.archived = true ∨ ∃ e ∈ x.chain, e.isSealed = true)) ∧
    Performs fmt .catalogue (.program (systemProgram .catalogue 0 5 [])) ∧ fmt.streams.length = 8 ∧
    keeps (streamOf fmt 0) = true ∧ keeps (streamOf fmt 1) = true ∧ keeps (streamOf fmt 2) = false ∧
    (streamOf (with0 sealedOnce ready) 0).defn = some def0 ∧ (with0 sealedOnce ready).catalogue.work = none := by
  refine ⟨fun x => ?_, performs_of (by decide) (by decide) (by decide), by decide⟩
  rcases hx : x.defn with _ | y <;> simp [hx]

/-- R134, Table 4-1: after the FORMAT stream 0 is ARCHIVED with its SEALED segment alone, and its others are free. -/
theorem test_format_keeps_a_sealed_segment :
    let t := after (.catalogueProgramEnd .pass) (cataloguing .format .format
      (.program (systemProgram .catalogue 0 5 [])) none (with0 sealedOnce ready))
    (streamOf t 0).state = .archived ∧ (streamOf t 0).chain.map (fun e => e.segment) = [9] ∧ (streamOf t 0).newest = 3 ∧
    t.segments.pool = [5, 6, 7, 8, 10, 11] ∧ lastReply t = some (.done, 2, 1) := by decide +kernel

theorem witness_CatalogueVersionsAreWrittenOrGivenUp_built :
    let full := { ready with catalogue := { ready.catalogue with top := some 31 } }
    let part := { ready with catalogue := { ready.catalogue with top := some 30 } }
    ready.power.state = .awake .ready ∧ ready.catalogue.work = none ∧ ready.catalogue.queue = [] ∧
    ready.catalogue.top = none ∧ full.catalogue.top = some 31 ∧ full.catalogue.work = none ∧
    part.catalogue.top = some 30 ∧ 7 < ready.streams.length ∧
    (cataloguing (.delete 0) (.deleteStream 0) (.erase 1) none ready).catalogue.work.isSome = true := by
  decide

/-- R46, R133: a version handed to the engine and held by the guard keeps what it was built from: a segment retired
meanwhile is not in it, but in the next. -/
theorem test_version_is_built_when_handed :
    let s := { guardedBy low ready with catalogue := { ready.catalogue with generation := 3 } }
    let t := recordRetirement 900 false (recordRetirement 800 false s)
    t.catalogue.work.map (fun w => (w.version.generation, w.version.retired)) = some (4, [800]) ∧
    t.catalogue.retired = [800, 900] ∧ t.catalogue.queue = [.retire 800 false, .retire 900 false] := by
  decide +kernel

theorem witness_OnlyTheOperationInProgressWritesTheArray :
    (exec .cmdinRead ready = .next (after .cmdinRead ready)) ∧ opWrites (.read 9 0 0 512) = false ∧
    opWrites (.program program0) = true ∧ opWrites (.erase 9) = true :=
  ⟨rfl, by decide, by decide, by decide⟩

/-! ### Power fail, resets, mount -/

/-- PFAIL_FLUSH with this operation. -/
def flushing (who : Requester) (j : Job) : State :=
  let s := performing who (.program (jobProgram j)) (ready.withJobs [j])
  { s with power := { s.power with state := .pfailFlush } }

theorem witness_PowerFailStopsTheDevice :
    let j := job (some 0) 9 1
    let keep := fun s : State => { s with options := { s.options with holdupUse := 0 } }
    operating State.reset = true ∧ State.reset.power.state = .mounting ∧ State.reset.engine.op ≠ none ∧
    operating (keep dozing) = true ∧ (keep dozing).power.state = .doze ∧ (keep dozing).engine.op = none ∧
    (keep dozing).options.holdupUse ≠ 1 ∧
    isAwake (ready.withJobs [j]) = true ∧ ready.engine.op = none ∧ ready.options.holdupUse = 1 ∧
    ready.engine.reloc = none ∧ guarded ready = false ∧ locked ready j.segment = false ∧
    guarded (guardedBy low ready) = true ∧ operating halted = true ∧
    inProgress .job (flushing .job j) = some (.program (jobProgram j)) ∧ (flushing .job j).power.flush.holdup = false ∧
    (flushing .job j).cpl.fresh = [] ∧ inProgress .holdup (flushing .holdup j) = some (.program (jobProgram j)) := by
  decide

/-- Stream 0 committed last and its tail holds pending bytes, after `k` portions. -/
def lastPending (k : Nat) (s : State) : State :=
  (with0 { pending3 with tail := .pos { tail9 60 1 with portions := k, ends := [(60, 3)] } } s).withLastCommit 0

theorem witness_PowerFailStopsTheDevice_tail :
    let s := fun k => lastPending k ready
    (s 2).engine.op = none ∧ (s 2).options.holdupUse = 1 ∧ (s 2).write.jobs = [] ∧ (s 2).power.state ≠ .mounting ∧
    operating (s 2) = true ∧ isAwake (s 2) = true ∧ (s 2).power.lastCommit = some 0 ∧
    (streamOf (s 2) 0).tail = .pos { tail9 60 1 with portions := 2, ends := [(60, 3)] } ∧
    (streamOf (s 3) 0).tail = .pos { tail9 60 1 with portions := 3, ends := [(60, 3)] } ∧ (tail9 60 1).unprog < 60 ∧
    (tail9 60 1).image.length = 60 ∧ guarded (s 2) = false ∧ locked (s 2) 9 = false ∧
    guarded (guardedBy low (s 2)) = true ∧ ready.power.lastCommit = none ∧
    pendingBytes (streamOf ((with0 three ready).withLastCommit 0) 0).tail = 0 := by
  decide

/-- A reset of this kind is in progress. -/
def underReset (k : ResetKind) (rstN : Bool) : State :=
  { ready with
    pins := { ready.pins with rstN := rstN }
    power := { ready.power with state := .dead, reset := some k } }

theorem witness_MountingResetsKeepTimeAndLocks :
    ready.pins.supply = true ∧ ready.pins.rstN = true ∧
    operating { ready with power := { ready.power with state := .dead } } = true ∧
    (underReset .pin false).pins.rstN = false ∧ (underReset .pin false).power.reset ≠ none ∧
    (underReset .pin false).pins.supply = true ∧ (underReset .pfail true).pins.rstN = true ∧
    (underReset .pfail true).power.reset = some .pfail := by
  decide

/-- R169: a pin reset leaves no stream, no segment in use, no version and no slot behind; a frozen flag stays. -/
theorem test_pin_reset_empties_what_mount_rebuilds :
    let s := ledgered 5 (guardedBy (fun g => { active none g with frozen := true }) (with0 three ready))
    let t := after (.pinReset .nothingVisible) s
    t.streams = State.reset.streams ∧ t.segments.map = [] ∧ t.vault.used = 0 ∧ t.guard.frozen = true := by decide

/-- The scan stands at this READ. -/
def scanning (x : MountStage) (g k : Nat) : State :=
  let s := State.reset
  { s with
    power := { s.power with mount := some { Mount.first with stage := x, segment := g, frame := k } }
    engine := { s.engine with op := some { who := .mount, op := .read g k 0 512 } } }

theorem witness_MountScansThenRebuilds :
    let m := fun x g k => { Mount.first with stage := x, segment := g, frame := k }
    (∀ x g k, (x, g, k) ∈ [(MountStage.catalogue, 0, 0), (.catalogue, 0, 31), (.catalogue, 1, 31), (.ledger, 2, 30),
        (.ledger, 2, 31), (.vault, 3, 31), (.classify, 5, 0), (.classify, 1022, 0), (.chains, 9, 30),
        (.classify, 1023, 0)] →
      Scans (scanning x g k) (m x g k)) ∧
    (m .classify 1023 0).cands = [] ∧ (m .classify 1023 0).bounds = [] ∧
    labelMatch (m .classify 1023 0) (readFrame State.reset.medium 1023 0 0 512 quiet) = none ∧
    (scanning .classify 1023 0).write.jobs = [] ∧ guarded (scanning .classify 1023 0) = false ∧
    (scanning .classify 1023 0).events = State.reset.events := by
  refine ⟨?_, by decide, by decide, by decide +kernel, by decide, by decide, by decide⟩
  intro x g k _
  exact ⟨by rfl, by rfl, by rfl, by rfl, by rfl⟩

/-- The scan at frame 0 of segment 9 with the version found and the sealed set. -/
def classifying (d : Definition) (retired sealedSet : List Nat) (m : Medium) : State × Mount :=
  let x := { Mount.first with
    stage := .classify, segment := 9, sealedSet := sealedSet
    best := some ({ generation := 3, defs := [some d], retired := retired }, 0) }
  let s := scanning .classify 9 0
  ({ s with medium := m, power := { s.power with mount := some x } }, x)

/-- Segment 9 with a label whose check fails. -/
def mislabelled : Medium :=
  State.reset.medium.endProgram { program0 with label := some { label0 with checkGood := false } } .pass

theorem witness_MountScansThenRebuilds_classes :
    let old := { def0 with archived := true }
    let read := fun m => readFrame m 9 0 0 512 quiet
    (∀ x, x ∈ [classifying def0 [9] [] State.reset.medium, classifying def0 [] [] State.reset.medium,
        classifying def0 [] [9] State.reset.medium, classifying def0 [] [] mislabelled] →
      Scans x.1 x.2 ∧ x.2.stage = .classify ∧ x.2.segment < 1023) ∧
    frameErased (read State.reset.medium) = true ∧ (∀ l, (read State.reset.medium).label ≠ .valid l) ∧
    frameErased (read mislabelled) = false ∧ (match (read mislabelled).label with | .failing _ => true | _ => false) = true ∧
    (∀ x, x ∈ [classifying def0 [] [] stored.medium, classifying old [] [] stored.medium,
        classifying old [] [9] stored.medium] → Scans x.1 x.2) ∧
    (read stored.medium).label = .valid label0 ∧ label0.firstOffset = some 0 ∧ label0.incarnation = def0.incarnation ∧
    (classifying def0 [] [] stored.medium).2.best.bind (fun b => b.1.defs.getD 0 none) = some def0 := by
  refine ⟨?_, by decide +kernel, ?_, by decide +kernel, by decide +kernel, ?_, by decide +kernel, rfl, rfl, rfl⟩
  · intro x h
    simp only [List.mem_cons, List.not_mem_nil, or_false] at h
    rcases h with rfl | rfl | rfl | rfl <;> exact ⟨⟨by rfl, by rfl, by rfl, by rfl, by rfl⟩, by rfl, by decide⟩
  · intro l h
    have : (readFrame State.reset.medium 9 0 0 512 quiet).label = .erased := by decide +kernel
    rw [this] at h
    cases h
  · intro x h
    simp only [List.mem_cons, List.not_mem_nil, or_false] at h
    rcases h with rfl | rfl | rfl <;> exact ⟨by rfl, by rfl, by rfl, by rfl, by rfl⟩

/-- The candidate that segment 9 is, with record 1 in its frame 0. -/
def cand9 : Candidate :=
  { segment := 9, stream := 0, generation := 1, first := 1, isSealed := false,
    frameZero := readFrame stored.medium 9 0 0 512 quiet }

/-- The scan at its last READ, frame 31 of that candidate. -/
def lastScan : State × Mount :=
  let x := { Mount.first with
    stage := .chains, segment := 9, frame := 31, cands := [cand9]
    frames := List.replicate 30 emptyRead ++ [cand9.frameZero]
    best := some ({ generation := 3, defs := [some def0], retired := [] }, 0) }
  let s := scanning .chains 9 31
  ({ s with medium := stored.medium, power := { s.power with mount := some x } }, x)

theorem witness_MountScansThenRebuilds_chain :
    let b := boundsOf cand9
      (numberFrames ((readFrame lastScan.1.medium 9 31 0 512 quiet :: lastScan.2.frames).reverse))
    Scans lastScan.1 lastScan.2 ∧ lastScan.2.cands = [cand9] ∧ lastScan.2.bounds = [] ∧
    lastScan.2.best.bind (fun x => x.1.defs.getD 0 none) = some def0 ∧ def0.archived = false ∧
    lastScan.1.write.jobs = [] ∧ b.last = 1 ∧ b.discarded = 0 := by
  refine ⟨⟨by rfl, by rfl, by rfl, by rfl, by rfl⟩, by rfl, by rfl, by rfl, by rfl, by rfl, by decide +kernel,
    by decide +kernel⟩

theorem witness_MountScansThenRebuilds_winners :
    let b := fun g k top shut => (Bounds.mk { cand9 with segment := g, generation := k, isSealed := shut } top 1 0 .none)
    (b 9 1 0 true).cand.isSealed = true ∧ (b 8 1 31 false).cand.isSealed = false ∧
    (b 9 1 30 false).validTop < (b 8 1 31 false).validTop ∧ (b 8 1 31 false).cand.segment < (b 9 1 31 false).cand.segment ∧
    (b 9 1 0 false).cand.generation < (b 8 2 0 false).cand.generation := by
  decide

theorem witness_MountScansThenRebuilds_bounds :
    let f := readFrame stored.medium 9 0 0 512 quiet
    f.label = .valid label0 ∧ label0.firstOffset = some 0 ∧ label0.firstSeq = cand9.first ∧ f.entryZero = true ∧ f.implausible = false ∧
    f.portions = [{ lo := 0, hi := 20, grade := .clean, damaged := false, pad := false,
                    bytes := recordHeader 4 0x5C 0 1 7 true false 0 ++ [1, 2, 3, 4] }] ∧
    (recordHeader 4 0x5C 0 1 7 true false 0 ++ [1, 2, 3, 4]).length = 20 ∧ ([1, 2, 3] : List Byte).length < 4 := by
  decide +kernel

/-- Frame `k` read as one portion of these bytes. -/
def readAs (k : Nat) (first : Option Nat) (seq : Nat) (grade : Grade) (bytes : List Byte) : FrameRead :=
  { emptyRead with
    label := .valid { label0 with frameIndex := k, firstOffset := first, firstSeq := seq }
    portions := [{ lo := 0, hi := bytes.length, grade := grade, damaged := false, pad := false, bytes := bytes }]
    entryZero := true }

/-- R166, R87: record 1 covers frames 0 and 1 and one byte of frame 2, where record 2 begins and is cut short. With frame
1 BROKEN no record is whole, and the last sequence is one below the first; else it is 1. -/
theorem test_bounds_without_a_whole_record :
    let frames := fun grade => [readAs 0 (some 0) 1 .clean (recordHeader 1009 0x5C 0 1 7 true false 0 ++ List.replicate 496 0x44),
      readAs 1 none 1 grade (List.replicate 512 0x44),
      readAs 2 (some 1) 2 .clean ([0x44] ++ recordHeader 200 0x5C 0 2 7 true false 0 ++ [1, 2, 3, 4])]
    (boundsOf cand9 (numberFrames (frames .broken))).last = 0 ∧ (boundsOf cand9 (numberFrames (frames .clean))).last = 1 := by
  decide +kernel

/-! ### Invariants -/

/-- A state that is safe, and another that its step leads to. -/
theorem witness_EveryStepKeepsTheMediumSound :
    MediumSound ready ∧ EngineSound ready ∧ step { ready with pending := [.dozeEntry] } = .next ready ∧
    MediumSound stored ∧ LedgerSound (ledgered 31 ready) ∧ WriterSound ready := by
  refine ⟨⟨by decide, by decide⟩, fun _ h => (by cases h), rfl, ⟨by decide +kernel, by decide +kernel⟩,
    ⟨by decide, fun _ h => (by cases h), ?_⟩, ⟨fun _ => rfl, fun _ => rfl⟩⟩
  rintro r (h | h) <;> cases h

theorem witness_EveryStepKeepsThePortSound : PortSound (posted 11) ∧ EventsSound (posted 11) ∧ cmdFill (crowded ready) = 8 :=
  ⟨⟨by decide, by decide, by decide, by decide⟩, ⟨by decide, by decide⟩, by decide⟩

theorem witness_EveryStepKeepsTimeAndLocksSound :
    TimeSound (ticking 31 0 ready) ∧ LocksSound (guardedBy (active (some ⟨5, 1023, true⟩)) ready) := by
  refine ⟨⟨by decide, by decide, by decide, by decide, by decide, by decide, by decide⟩, ⟨?_, ?_, ?_⟩⟩
  · intro h; cases h
  · intro r h; cases h; decide
  · intro d h; cases h

/-! ### Single steps. The expected results are those of the worked sequences and tables of spec/. -/

/-- The rows one after another. -/
def afterAll : List Instr → State → State
  | [], s => s
  | i :: is, s => afterAll is (after i s)

/-- The check value of a 16-bit check with the generator, preset and order R115 states, over the ASCII digits 1 to 9: a
published constant of that check. -/
theorem test_header_check_of_digits :
    headerCheck [0x31, 0x32, 0x33, 0x34, 0x35, 0x36, 0x37, 0x38, 0x39] = 0x29B1 := by decide +kernel

/-- Chapter 1, "a query and its response": HSTAT reads 0x19 at rest. -/
theorem test_status_at_rest : hstat ready = 0x19 := by decide

/-- Chapter 1, the same: five bytes queue the frame, and CMDFILL reads 1. -/
theorem test_query_frame_is_queued :
    let t := afterAll ([0x12, 0x41, 0x01, 0x00, 0x02].map .cmdinWrite) (at_ 0x0 ready)
    t.sequencer.queue = [⟨0x12, 0x41, [0x02], false⟩] ∧ cmdFill t = 1 := by decide

/-- Chapter 2, "completions out of order": COMMIT tagged 0x10 of stream 1, sequence 907, durable (Table 2-5). -/
theorem test_completion_bytes_of_commit :
    completionBytes (completionOf 0x10 0x21 1 false { result := .done, durable := true, value := 907, aux := 907 }) =
      [0x10, 0x21, 0x00, 0x11, 0x8B, 0x03, 0, 0, 0x8B, 0x03, 0, 0] := by decide

/-- Chapter 2, "an abort that finds a command waiting". -/
theorem test_abort_of_a_waiting_command :
    let s := inPhase (.readNext 0) .waitResponse { at_ 0x4 ready with rsp := { bytes := [1], index := 0 } }
    let s := { s with sequencer := { s.sequencer with queue := [frameOf .sync, frameOf .sync] } }
    let t := after .abortSequencerSteps (after (.abort 0x01) s)
    (after (.abort 0x01) s).host.flushCnt = 2 ∧ lastReply t = some (.aborted, 0, 0) ∧ t.rsp.bytes = [] ∧
    t.host.aborting = false := by decide

/-- A frame with an unknown opcode (R21). -/
theorem test_bad_frame :
    lastReply (after .badFrame { ready with sequencer := { ready.sequencer with queue := [⟨0x24, 1, [], false⟩] } }) =
      some (.badFrame, 0, 0) := by decide

/-- Chapter 4, "a LAZY stream and a SYNC", step 2: 392 bytes of records 1 and 2 in the tail, record 3 staged. -/
def lazyThree : State :=
  let t := { empty0 with
    chain := [entry 40 1 1 2], oldest := 1, newest := 2
    tail := .pos { tail9 392 1 with segment := 40, ends := [(196, 1), (392, 2)] } }
  lazy (staged 0 180 (with0 t ready))

theorem test_third_record_fills_the_frame :
    let t := after .commit (front commit0 lazyThree)
    t.write.jobs.map (fun j => (j.kind, j.frame, j.seqs)) = [(.frame, 0, [1, 2])] ∧
    t.write.jobs.map (fun j => (j.portion, j.lo, j.hi)) = [(0, 0, 512)] ∧
    t.write.jobs.map (fun j => j.label.map (fun l => (l.firstOffset, l.firstSeq))) = [some (some 0, 1)] ∧
    lastReply t = some (.done, 3, 0) := by decide +kernel

/-- The same, step 5: frame 1 holds 468 bytes, the lowest header at 76 is that of record 4. -/
theorem test_sync_emits_the_tail :
    let p := { tail9 468 4 with segment := 40, frame := 1, header := some (76, 4), ends := [(76, 3), (272, 4), (468, 5)] }
    let t := after .sync (front .sync (with0 { empty0 with
      chain := [entry 40 1 1 5], oldest := 1, newest := 5, durable := 2, tail := .pos p } ready))
    t.write.jobs.map (fun j => (j.kind, j.frame, j.seqs)) = [(.portion, 1, [3, 4, 5])] ∧
    t.write.jobs.map (fun j => (j.portion, j.lo, j.hi)) = [(0, 0, 468)] ∧
    t.write.jobs.map (fun j => j.label.map (fun l => (l.firstOffset, l.firstSeq))) = [some (some 76, 4)] ∧
    t.sequencer.deferred.map (fun d => d.kind) = [.sync 1] := by decide +kernel

/-- Chapter 4, "a RING stream at quota": segments 101 to 103, 100 bytes left, a record of 400 bytes. -/
theorem test_ring_reclaims_its_oldest_segment :
    let t := { empty0 with
      defn := some { def0 with mode := .ring, quota := 3 }
      chain := [entry 101 7 1 10, entry 102 8 11 20, entry 103 9 21 30], oldest := 1, newest := 30, durable := 20
      tail := .pos { tail9 412 30 with segment := 103, frame := 31, ends := [(412, 30)] } }
    let u := after .commit (front commit0 (staged 0 400 (with0 t { ready with segments := { map := [], pool := [5, 6, 7] } })))
    let s := after .commit u
    u.write.jobs.map (fun j => j.kind) = [.frame] ∧ u.sequencer.deferred = [] ∧ (streamOf s 0).oldest = 11 ∧ (streamOf s 0).chain.map (fun e => (e.segment, e.generation)) = [(102, 8), (103, 9), (5, 10)] ∧
    s.segments.pool = [6, 7, 101] ∧ s.write.jobs.map (fun j => (j.kind, j.pad)) = [(.frame, true), (.portion, false)] ∧
    s.events.notices.map (fun n => n.kind) = [.reclaimed] ∧ s.sequencer.deferred.length = 1 := by decide +kernel

/-- Chapter 5, "reading behind a ring stream": cursor 1200, oldest 1350. -/
theorem test_read_next_skips :
    let t := { inTail with
      chain := [entry 9 1 1350 1350], oldest := 1350, newest := 1350, cursor := 1200
      tail := .pos { tail9 20 1350 with image := recordHeader 4 0x5C 0 1350 7 true false 0 ++ [1, 2, 3, 4] } }
    let s := after .readNext (front (.readNext 0) (with0 t ready))
    lastReply s = some (.skipped, 1350, 150) ∧ (streamOf s 0).cursor = 1351 ∧ s.rsp.bytes.length = 20 := by decide +kernel

/-- Three portions of frame 0 of segment 9, the last one PAD. -/
def threePortions : Medium :=
  let p := fun k lo hi pad => { program0 with portion := k, lo := lo, hi := hi, pad := pad, bytes := List.replicate (hi - lo) 0x33 }
  ((State.reset.medium.endProgram (p 0 0 180 false) .pass).endProgram (p 1 180 330 false) .pass).endProgram
    (p 2 330 512 true) .pass

/-- Chapter 7, "classifying a frame with three portions": one error, then three; two bits of entry 3 read 0. -/
theorem test_frame_with_three_portions :
    let n := { quiet with portions := [noNoise, { noNoise with errors := 1 }, { noNoise with errors := 3 }, { noNoise with zeroBits := some 2 }] }
    (readFrame threePortions 9 0 0 512 n).portions.map (fun p => (p.lo, p.hi, p.grade, p.pad)) =
      [(0, 180, .clean, false), (180, 330, .minor, false), (330, 512, .major, true)] := by decide +kernel

/-- The same, with six errors and an end offset that reads 300: the view ends at 330. -/
theorem test_implausible_end_ends_the_view :
    let bad := { noNoise with errors := 6, asRead := some ⟨300, false, true, []⟩ }
    let f := readFrame threePortions 9 0 0 512 { quiet with portions := [noNoise, noNoise, bad] }
    portionsEnd f.portions = 330 ∧ f.implausible = true := by decide +kernel

/-- Chapter 7, "an identity with a worn first copy": copies 0 and 1 fail, copy 2 is used. -/
theorem test_identity_uses_copy_two :
    let t := after (.arrayReadEnd (identityRead (identityBytes 2))) (copying .identity .identify 3 256)
    lastReply t = some (.done, 20, 2) ∧ t.rsp.bytes = List.replicate 16 0 ++ [2, 0, 0, 0] ∧ t.events.notices = [] := by
  decide +kernel

/-- Table 12-3: the first bytes of the descriptor, and R123: a copy that fails is followed by the next. -/
theorem test_descriptor_copies :
    let t := after (.arrayReadEnd quiet) (copying (.copies 0 []) .describe 0 40)
    let u := after (.arrayReadEnd garbled) (copying (.copies 0 []) .describe 0 40)
    t.rsp.bytes.take 12 = [1, 0x57, 0x16, 0x24, 0, 4, 5, 0, 32, 4, 0, 2] ∧ t.rsp.bytes.length = 40 ∧
    lastReply t = some (.done, 40, 0) ∧ u.engine.op = some ⟨.sequencer, .read 4 1 0 40⟩ := by decide +kernel

/-- Chapter 8, "a guard pulse over a LAZY tail": stream 0 writes in segment 150, and a job of it waits. -/
def guardPulse : State :=
  let t := { empty0 with chain := [entry 150 1 1 3], oldest := 1, newest := 3,
                         tail := .pos { tail9 300 3 with segment := 150, frame := 12, ends := [(300, 3)] } }
  guardedBy (active (some ⟨100, 199, false⟩)) ((with0 t ready).withJobs [job (some 0) 150 9])

theorem test_guard_fall_holds_the_job :
    let t := after .guardNFall guardPulse
    t.guard.range = none ∧ t.engine.op = none ∧ Raised t .guardHeld ∧
    t.events.notices.map (fun n => (n.kind, n.stream, n.segment)) = [(.guardHold, 0, 150)] := by
  unfold Raised
  decide +kernel

theorem test_guard_rise_fails_the_job :
    let t := after .guardNRise (after .guardNFall guardPulse)
    (streamOf t 0).state = .faulted ∧ (streamOf t 0).tail = .exhausted ∧ t.write.jobs = [] ∧ Raised t .media ∧
    t.events.notices.map (fun n => (n.kind, n.stream, n.segment)) = [(.guardHold, 0, 150), (.faulted, 0, 150)] := by
  unfold Raised
  decide +kernel

/-- R124: outside the unlocked range 100 to 199 every user segment is locked. -/
theorem test_locks_at_the_range_ends :
    [99, 100, 199, 200, 4].map (locked guardPulse) = [true, false, false, true, false] := by decide

/-- Chapter 8, "sealing a ring stream's history": 40 segments at generations 31 to 70 need 2 ledger frames. -/
theorem test_seal_of_forty_segments :
    let t := { empty0 with
      chain := (List.range 40).map (fun k => entry (100 + k) (31 + k) (k + 1) (k + 1)), oldest := 1, newest := 40
      durable := 40, tail := .exhausted, state := .full .quota }
    let s := after .sealStream (front (.sealStream 0 40) (armed 0x49 (with0 t ready)))
    s.sequencer.dispatched.map (fun d => match d.phase with | .sealing gs p n => (gs.map List.length, p, n) | _ => ([], 0, 0)) =
      some ([31, 9], 0, 40) := by decide +kernel

/-- Chapter 9, "a midnight alarm at wrap": the increment from 4294967295 raises WRAP and ALARM. -/
theorem test_alarm_at_wrap :
    let s := ticking 127 0xFFFFFFFF ready
    let s := { s with options := { s.options with tickDivider := 7 },
                      time := { s.time with epoch := 3, valid := true, armed := true, alarm := 0 } }
    let t := after (.sourcePulse (.xin true)) s
    t.time.counter = 0 ∧ t.time.epoch = 4 ∧ t.time.armed = false ∧ t.events.latched = Event.wrap.bit ||| Event.alarm.bit ∧
    lastReply (after .getTime (front .getTime t)) = some (.done, 0, 4 + 256 + 65536 + 7 * 16777216) := by decide

/-- Chapter 9, "a halt and its aftermath": a pending ALARM is removed, the count stops and starts again. -/
theorem test_halt_stops_the_count :
    let s := entering .halt
    let s := { s with time := { s.time with counter := 88000, valid := true, armed := true },
                      events := { s.events with latched := Event.alarm.bit } }
    let t := after (.haltEntry none) s
    t.time.valid = false ∧ t.time.armed = false ∧ t.time.running = false ∧ t.time.counter = 88000 ∧ t.events.latched = 0 ∧
    (after .haltWake t).power.state = .awake .ready ∧ (after .haltWake t).time.running = true := by decide

/-- Chapter 10, "one relocation, one interrupt": the notices of a relocation from 400 to 401, and EVCAUSE 8. -/
theorem test_relocation_reports :
    let s := { with0 { three with chain := [entry 401 1 1 3] } ready with
      catalogue := { ready.catalogue with
        queue := [.retire 400 true], retired := [400]
        work := some { version := { generation := 3, defs := [], retired := [400] }, erasing := false, segment := 0,
                       frame := 3, fallback := some 1 } } }
    let s := s.withJobs [job (some 0) 400 1]
    let s := { s with
      engine := { s.engine with reloc := some { segment := 400, frame := 0, portion := 0, stream := 0, target := 401,
                                                tried := 1, stage := .retiring, damagedFrames := 0 } }
      events := { s.events with mask := 0x81 } }
    let t := after (.catalogueProgramEnd .pass) (performing .catalogue (.program (systemProgram .catalogue 0 3 [])) s)
    t.events.notices.map (fun n => (n.kind, n.stream, n.segment, n.value, n.value2)) =
      [(.retired, 0, 400, 2, 0), (.relocated, 0, 400, 401, 0)] ∧ evcause t = 8 ∧ t.engine.reloc = none := by
  decide +kernel

/-- The last READ of a mount over erased segments: READY, MOUNTED after a power-on reset with no stream (Table 10-3). -/
theorem test_mount_of_an_erased_part :
    let s := scanning .classify 1023 0
    let s := { s with power := { s.power with mount := s.power.mount.map (fun m => { m with erased0 := true, erased1 := true }) } }
    let t := after (.mountReadEnd quiet) s
    t.power.state = .awake .ready ∧ t.events.notices.map (fun n => (n.kind, n.value)) = [(.mounted, 1)] := by decide +kernel

/-- R161: FINISH_ONE programs the head job after PFAIL_N falls in an idle engine, and then the device is DEAD. -/
theorem test_power_fail_finishes_one :
    let t := after .powerFailSequence (ready.withJobs [job (some 0) 9 1])
    t.power.state = .pfailFlush ∧ t.engine.op = some ⟨.holdup, .program (jobProgram (job (some 0) 9 1))⟩ ∧
    (after (.holdupProgramEnd .pass) t).power.state = .dead := by decide +kernel

end Sys2Proof.Machine
end

/-!
PROOFS. What an access to a live window does where nothing stands between it and the register (R1, R3, R16): the accesses
and the actions of HCTL once `Accessible` holds, and the reads of CPLOUT one by one (R12).
-/

namespace Sys2Proof.Machine

open Sys2Proof

/-! ### An access that neither wakes nor abandons -/

theorem beginAccess_of_accessible {s : State} {o : BitVec 4} (h : Accessible s o) : beginAccess s = s := by
  unfold beginAccess
  rw [if_neg h.noDoze, if_neg h.noEntry]

theorem readAccess_of_accessible {s : State} {o : BitVec 4} (h : Accessible s o) (effect : State → State) :
    readAccess o effect s = effect (drive (hostRead s o) s) := by
  unfold readAccess
  rw [if_pos h.latched, if_pos h.live, beginAccess_of_accessible h]

theorem writeAccess_of_accessible {s : State} {o : BitVec 4} {mine : BitVec 4 → Bool} (h : Accessible s o)
    (hm : mine o = true) (effect : State → State) : writeAccess mine effect s = effect s := by
  unfold writeAccess
  rw [h.latched, hm, h.live, beginAccess_of_accessible h]
  rfl

/-- What an access may have changed of a state without closing the window: the latch, and all that the window does not
depend on. -/
theorem Accessible.of_same {s t : State} {o p : BitVec 4} (h : Accessible s o) (hl : t.host.latch = p)
    (hw : t.power = s.power) (hp : t.pins = s.pins) : Accessible t p where
  live := by
    have hs := h.live
    unfold windowLive operating at hs ⊢
    rwa [hw, hp]
  latched := hl
  noDoze := by rw [hw]; exact h.noDoze
  noEntry := by rw [hw]; exact h.noEntry

/-! ### Single actions of HCTL -/

theorem hctlAccess_of_accessible {s : State} (h : Accessible s 0x4) (b : Byte) :
    hctlAccess b s = hctlWrite b (ignoresSrst s) s :=
  writeAccess_of_accessible h (by decide) _

theorem exec_rspDiscard_alone {s : State} (h : Accessible s 0x4) :
    exec (.rspDiscard 0x04) s = .next (discardResponse s) :=
  congrArg Host.Outcome.next (hctlAccess_of_accessible h 0x04)

theorem exec_cplRewind_alone {s : State} (h : Accessible s 0x4) :
    exec (.cplRewind 0x08) s = .next (rewindCompletion s) :=
  congrArg Host.Outcome.next (hctlAccess_of_accessible h 0x08)

/-- A latch pulse in a live window (R2). -/
theorem exec_offsetLatch_live {s : State} (h : windowLive s = true) (ad : Byte) :
    exec (.offsetLatch false ad) s = .next { s with host := { s.host with latch := ad.setWidth 4 } } := by
  show execOffsetLatch false ad s = _
  unfold execOffsetLatch
  rw [h]
  rfl

/-! ### Runs of accesses -/

theorem execAll_cons {i : Instr} {is : List Instr} {s t : State} (h : exec i s = .next t) :
    execAll (i :: is) s = execAll is t := by
  rw [execAll, h]

/-- A read of CPLOUT drives the byte at the index and takes it (R12). -/
theorem exec_cploutRead {s : State} (h : Accessible s 0x2) :
    exec .cploutRead s = .next (takeCompletionByte (drive (hostRead s 0x2) s)) :=
  congrArg Host.Outcome.next (readAccess_of_accessible h _)

theorem hostRead_cplout {s : State} (h : windowLive s = true) {c : Completion} {rest : List Completion}
    (hr : s.cpl.records = c :: rest) : hostRead s 0x2 = (completionBytes c).getD s.cpl.index 0 := by
  unfold hostRead
  rw [if_pos h, hr]
  rfl

/-- Taking a byte leaves the driven byte alone where there is a record. -/
theorem takeCompletionByte_host {s : State} {c : Completion} {rest : List Completion} (hr : s.cpl.records = c :: rest) :
    (takeCompletionByte s).host = s.host := by
  unfold takeCompletionByte
  rw [hr]
  dsimp only
  split <;> rfl

theorem takeCompletionByte_within {s : State} {c : Completion} {rest : List Completion} (hr : s.cpl.records = c :: rest)
    (hi : s.cpl.index < 11) : takeCompletionByte s = { s with cpl := { s.cpl with index := s.cpl.index + 1 } } := by
  unfold takeCompletionByte
  rw [hr]
  exact if_pos hi

/-- Reads of CPLOUT within one record: the last of `n + 1` of them returns the byte `n` places on from the index (R12). -/
theorem execAll_cploutReads {n : Nat} {s : State} {c : Completion} {rest : List Completion} (h : Accessible s 0x2)
    (hr : s.cpl.records = c :: rest) (hn : s.cpl.index + n < 12) :
    ∃ u, execAll (List.replicate (n + 1) .cploutRead) s = some u ∧
      u.host.dataOut = (completionBytes c).getD (s.cpl.index + n) 0 := by
  induction n generalizing s with
  | zero =>
    refine ⟨_, execAll_cons (exec_cploutRead h), ?_⟩
    rw [takeCompletionByte_host (s := drive (hostRead s 0x2) s) hr]
    exact hostRead_cplout h.live hr
  | succ n ih =>
    have hnext := takeCompletionByte_within (s := drive (hostRead s 0x2) s) hr (show s.cpl.index < 11 by omega)
    rw [List.replicate_succ, execAll_cons (exec_cploutRead h), hnext]
    obtain ⟨u, hu, hb⟩ := ih (s := { drive (hostRead s 0x2) s with cpl := { s.cpl with index := s.cpl.index + 1 } })
      (h.of_same h.latched rfl rfl) hr (show s.cpl.index + 1 + n < 12 by omega)
    exact ⟨u, hu, hb.trans (congrArg (fun k => (completionBytes c).getD k 0) (by simp only; omega))⟩

end Sys2Proof.Machine

/-!
PROOFS. How a response-producing command leaves its wait for the Response Buffer (R15, R37): it has retired, or it is
DISPATCHED in a phase that is no wait.
-/

namespace Sys2Proof.Machine

open Sys2Proof

/-- The command `d` stands in no wait: it has retired, or it is DISPATCHED past its commit point. -/
structure PastWait (d : Dispatched) (s : State) : Prop where
  passed : ∀ x, s.sequencer.dispatched = some x → x.id = d.id ∧ waits x.phase = false

theorem dispatched_of_held {s t : State} (h : t.held = s.held) : t.sequencer.dispatched = s.sequencer.dispatched :=
  congrArg Held.dispatched h

/-- The engine's choice and the posting leave the command where it is. -/
theorem PastWait.settled {d : Dispatched} {s : State} (h : PastWait d s) : PastWait d (settle (choose s)) := by
  refine ⟨fun x hx => h.passed x ?_⟩
  rwa [dispatched_of_held ((settle_held _).trans (choose_held s))] at hx

theorem pastWait_complete (d : Dispatched) (o : Outcome) (s : State) : PastWait d (complete d o s) := by
  have hnone : (complete d o s).sequencer.dispatched = none := congrArg Held.dispatched (complete_spec d o s).1
  refine ⟨fun x hx => ?_⟩
  rw [hnone] at hx
  cases hx

theorem pastWait_respond (d : Dispatched) (o : Outcome) (bytes : List Byte) (s : State) :
    PastWait d (respond d o bytes s) := pastWait_complete ..

theorem pastWait_setPhase (d : Dispatched) {p : Phase} (hp : waits p = false) (s : State) :
    PastWait d (setPhase d p s) := by
  refine ⟨fun x hx => ?_⟩
  rw [setPhase_dispatched] at hx
  cases hx
  exact ⟨rfl, hp⟩

/-! ### Lookups -/

theorem pastWait_deliver (d : Dispatched) (l : Lookup) (g : Gathered) (grade : Grade) (s : State) :
    PastWait d (deliver d l g grade s) := by
  unfold deliver
  dsimp only
  split
  · exact pastWait_respond ..
  · split
    · exact pastWait_respond ..
    · exact pastWait_respond ..

theorem pastWait_concludeLookup (d : Dispatched) (l : Lookup) (start : Option (Nat × Nat × Nat)) (s : State) :
    PastWait d (concludeLookup d l start s) := by
  unfold concludeLookup
  dsimp only
  split
  · exact pastWait_deliver ..
  · exact pastWait_complete ..

theorem pastWait_searchFrames (d : Dispatched) (l : Lookup) (left : Nat) (s : State) :
    PastWait d (searchFrames d l left s) := by
  induction left generalizing l with
  | zero => exact pastWait_concludeLookup ..
  | succ left ih =>
    unfold searchFrames
    dsimp only
    split
    · split
      · split
        · exact pastWait_concludeLookup ..
        · exact ih _
      · exact ih _
    · exact pastWait_setPhase d rfl _

theorem pastWait_startLookup (d : Dispatched) (n seq skip : Nat) (s : State) :
    PastWait d (startLookup d n seq skip s) := by
  unfold startLookup
  dsimp only
  split
  · exact pastWait_complete ..
  · exact pastWait_searchFrames ..

theorem pastWait_runReadRecord (d : Dispatched) (n seq : Nat) (s : State) : PastWait d (runReadRecord d n seq s) := by
  unfold runReadRecord
  dsimp only
  split
  · exact pastWait_complete ..
  split
  · exact pastWait_complete ..
  split
  · exact pastWait_complete ..
  · exact pastWait_startLookup ..

theorem pastWait_runReadNext (d : Dispatched) (n : Nat) (s : State) : PastWait d (runReadNext d n s) := by
  unfold runReadNext
  dsimp only
  split
  · exact pastWait_complete ..
  split
  · exact pastWait_complete ..
  · exact pastWait_startLookup ..

/-! ### The other responding commands -/

theorem pastWait_runSegmentStatus (d : Dispatched) (g : Nat) (s : State) : PastWait d (runSegmentStatus d g s) := by
  unfold runSegmentStatus
  split
  · exact pastWait_respond ..
  split
  · exact pastWait_respond ..
  · exact pastWait_setPhase d rfl _

theorem pastWait_runVaultRead (d : Dispatched) (slot : Nat) (s : State) : PastWait d (runVaultRead d slot s) := by
  unfold runVaultRead
  split
  · exact pastWait_respond ..
  split
  · exact pastWait_setPhase d rfl _
  · exact pastWait_respond ..

/-- A response-producing command that executes is in no wait any more. -/
theorem pastWait_runResponding {d : Dispatched} (hd : responding d.cmd = true) (s : State) :
    PastWait d (runResponding d s) := by
  unfold runResponding
  cases hc : d.cmd with
  | queryStream => exact pastWait_respond ..
  | readRecord => exact pastWait_runReadRecord ..
  | readNext => exact pastWait_runReadNext ..
  | segmentStatus => exact pastWait_runSegmentStatus ..
  | vaultRead => exact pastWait_runVaultRead ..
  | describe => exact pastWait_setPhase d rfl _
  | identify => exact pastWait_setPhase d rfl _
  | readNotices => exact pastWait_respond ..
  | _ => rw [hc] at hd; cases hd

/-! ### The event that finds the buffer empty -/

theorem exec_responseBufferWaitEnd {s : State} {d : Dispatched} (hw : waiting s = some d) (hp : d.phase = .waitResponse)
    (he : s.rsp.bytes = []) : exec .responseBufferWaitEnd s = .next (settle (choose (runResponding d s))) := by
  show execResponseBufferWaitEnd s = _
  unfold execResponseBufferWaitEnd
  rw [hw]
  simp only [hp, he, List.isEmpty_nil, and_self, if_true]

/-- HSTAT's bit 2 is that of RSP_AVAIL (R7). -/
theorem hstat_rspAvail (s : State) : (hstat s).getLsbD 2 = decide (rspLeft s ≠ 0) := by
  have hbits : ∀ b0 b1 b2 b3 b4 b5 b6 : Bool,
      (BitVec.ofNat 8 (bitOf b0 + 2 * bitOf b1 + 4 * bitOf b2 + 8 * bitOf b3 + 16 * bitOf b4 + 32 * bitOf b5 +
        64 * bitOf b6)).getLsbD 2 = b2 := by decide
  exact hbits ..

/-- Settles O11: the discard is an update of the Response Buffer alone, and every response-producing command that then
executes is `PastWait`. -/
theorem rspDiscardEmptiesTheBuffer : Obligations.RspDiscardEmptiesTheBuffer := by
  intro s h
  have hleft : rspLeft (discardResponse s) = 0 := rfl
  refine ⟨discardResponse s, exec_rspDiscard_alone h, rfl, hleft, ?_, rfl, ?_, ?_⟩
  · rw [hstat_rspAvail, hleft]; rfl
  · intro hempty
    unfold discardResponse ResponseBuffer.empty
    rw [← hempty]
  · intro d hw hp hd
    exact ⟨_, exec_responseBufferWaitEnd hw hp rfl, (pastWait_runResponding hd _).settled.passed⟩

end Sys2Proof.Machine

/-!
PROOFS. The byte index of the head record (R13): the rewind, the reads after it, and the four resets.
-/

namespace Sys2Proof.Machine

open Sys2Proof

/-! ### The index after each reset (Table 12-1) -/

theorem index_of_held {s t : State} (h : t.held = s.held) : t.cpl.index = s.cpl.index := congrArg Held.index h

theorem endReset_cpl (pfailN guardN : Bool) (s : State) : (endReset pfailN guardN s).cpl = s.cpl := by
  unfold endReset
  dsimp only
  split <;> rfl

/-- The occurrences of a pulse change the event bits alone. -/
theorem withPulseEvents_held (p : Option Pulse) (s0 s : State) : (withPulseEvents p s0 s).held = s.held := by
  cases p with
  | none => rfl
  | some p =>
    show (pulseEvents p s0 s).held = s.held
    unfold pulseEvents
    dsimp only
    split <;> split <;> simp only [raise_held]

theorem execPowerOnReset_index {locken rstN pfailN guardN : Bool} {cut : Cut} {s t : State}
    (h : execPowerOnReset locken rstN pfailN guardN cut s = .next t) : t.cpl.index = 0 := by
  unfold execPowerOnReset at h
  injection h with h
  subst h
  dsimp only
  split
  · rw [endReset_cpl]; rfl
  · rfl

theorem execPinReset_index {cut : Cut} {s t : State} (hs : s.pins.supply = true) (hr : s.pins.rstN = true)
    (h : execPinReset cut s = .next t) : t.cpl.index = 0 := by
  unfold execPinReset at h
  injection h with h
  subst h
  rw [hs, hr]
  rfl

theorem execPfailRecoveryReset_index {s t : State} (ho : operating s = true) (hd : s.power.state = .dead)
    (h : execPfailRecoveryReset s = .next t) : t.cpl.index = 0 := by
  unfold execPfailRecoveryReset at h
  injection h with h
  subst h
  rw [if_pos ⟨ho, hd⟩]
  rfl

theorem execSoftResetEnd_index {p : Option Pulse} {s t : State} (ha : isAwake s = true)
    (hs : s.power.soft = some .drain) (hd : drained s = true) (h : execSoftResetEnd p s = .next t) :
    t.cpl.index = 0 := by
  unfold execSoftResetEnd at h
  injection h with h
  subst h
  have hheld : (settle (choose (withPulseEvents p s (endSoftReset (withPulse p s))))).held =
      (endSoftReset (withPulse p s)).held := by rw [settle_held, choose_held, withPulseEvents_held]
  rw [ha, hs, hd]
  exact index_of_held hheld

/-! ### The statement -/

/-- The rewind and the latch of CPLOUT's offset after it. -/
theorem execAll_rewind_latch {s : State} (h : Accessible s 0x4) :
    execAll [.cplRewind 0x08, .offsetLatch false 0x02] s =
      some { rewindCompletion s with host := { s.host with latch := 0x2 } } := by
  have hlive : windowLive (rewindCompletion s) = true := h.live
  rw [execAll_cons (exec_cplRewind_alone h), execAll_cons (exec_offsetLatch_live hlive 0x02)]
  rfl

/-- Settles O12: the rewind is an update of the index alone, the reads after it start at index 0, and the index is held
at the 0 that each reset writes. -/
theorem cplRewindRestartsTheHeadRecord : Obligations.CplRewindRestartsTheHeadRecord := by
  refine ⟨fun s h => ⟨exec_cplRewind_alone h, fun hz => ?_⟩, fun s c rest h hr => ?_, fun i s t h hreset => ?_⟩
  · have hsame : rewindCompletion s = s := by unfold rewindCompletion; rw [← hz]
    rw [exec_cplRewind_alone h, hsame]
  · refine ⟨_, execAll_rewind_latch h, rfl, fun k hk => ?_⟩
    obtain ⟨u, hu, hb⟩ := execAll_cploutReads (n := k) (s := { rewindCompletion s with host := { s.host with latch := 0x2 } })
      (h.of_same rfl rfl rfl) hr (show 0 + k < 12 by omega)
    exact ⟨u, hu, hb.trans (congrArg (fun n => (completionBytes c).getD n 0) (Nat.zero_add k))⟩
  · obtain ⟨locken, rstN, pfailN, guardN, cut, rfl⟩ | ⟨cut, rfl, hs, hn⟩ | ⟨rfl, ho, hd⟩ | ⟨p, rfl, ha, hs, hd⟩ := hreset
    · exact execPowerOnReset_index h
    · exact execPinReset_index hs hn h
    · exact execPfailRecoveryReset_index ho hd h
    · exact execSoftResetEnd_index ha hs hd h

end Sys2Proof.Machine

/-!
PROOFS. SEEK (R95): what it does by its origin, and its row where the cursor moves and where it stays.
-/

namespace Sys2Proof.Machine

open Sys2Proof

/-! ### SEEK by its origin (R95) -/

/-- The command completes with the stream's cursor placed there. -/
def placeCursor (d : Dispatched) (n c : Nat) (s : State) : State :=
  complete d { result := .done, value := c } (setStream n { streamOf s n with cursor := c } s)

/-- A stream that holds a record has a readable range that is not empty (R87). -/
theorem oldest_le_newest_of_holdsRecord {t : Stream} (h : holdsRecord t = true) : t.oldest ≤ t.newest := by
  unfold holdsRecord at h
  simp only [Bool.and_eq_true, decide_eq_true_eq] at h
  exact h.2

section

variable {d : Dispatched} {n origin seq : Nat} {s : State}

theorem runSeek_undefined (h : (streamOf s n).defn = none) :
    runSeek d n origin seq s = complete d { result := .noStream } s := by
  simp only [runSeek, h, Option.isNone_none, if_true]

theorem runSeek_oldest (h : (streamOf s n).defn ≠ none) :
    runSeek d n 0 seq s = placeCursor d n (cursorAtOldest (streamOf s n)) s := by
  simp only [runSeek, placeCursor, Option.isNone_iff_eq_none, if_neg h, if_true]

theorem runSeek_newest (h : (streamOf s n).defn ≠ none) :
    runSeek d n 1 seq s =
      placeCursor d n (if holdsRecord (streamOf s n) then (streamOf s n).newest else (streamOf s n).newest + 1) s := by
  simp only [runSeek, placeCursor, Option.isNone_iff_eq_none, if_neg h, Nat.one_ne_zero, if_false, if_true]

/-- The sequence of an EXACT SEEK is judged against the readable range before the cursor moves (R87). -/
theorem runSeek_exact (h : (streamOf s n).defn ≠ none) :
    runSeek d n 2 seq s =
      if holdsRecord (streamOf s n) = true ∧ seq < (streamOf s n).oldest then complete d { result := .gone } s
      else if holdsRecord (streamOf s n) = false ∨ (streamOf s n).newest < seq then
        complete d { result := .notYet } s
      else placeCursor d n seq s := by
  simp [runSeek, placeCursor, h]

theorem runSeek_exact_below (h : (streamOf s n).defn ≠ none) (hr : holdsRecord (streamOf s n) = true)
    (hq : seq < (streamOf s n).oldest) : runSeek d n 2 seq s = complete d { result := .gone } s := by
  rw [runSeek_exact h, if_pos ⟨hr, hq⟩]

theorem runSeek_exact_above (h : (streamOf s n).defn ≠ none)
    (hq : holdsRecord (streamOf s n) = false ∨ (streamOf s n).newest < seq) :
    runSeek d n 2 seq s = complete d { result := .notYet } s := by
  have notBelow : ¬ (holdsRecord (streamOf s n) = true ∧ seq < (streamOf s n).oldest) := by
    rintro ⟨hr, hlt⟩
    have hrange := oldest_le_newest_of_holdsRecord hr
    rcases hq with hn | hgt
    · exact ne_false_of_eq_true hr hn
    · omega
  rw [runSeek_exact h, if_neg notBelow, if_pos hq]

theorem runSeek_exact_within (h : (streamOf s n).defn ≠ none) (hr : holdsRecord (streamOf s n) = true)
    (hlo : (streamOf s n).oldest ≤ seq) (hhi : seq ≤ (streamOf s n).newest) :
    runSeek d n 2 seq s = placeCursor d n seq s := by
  rw [runSeek_exact h, if_neg (fun hb => Nat.not_lt.mpr hlo hb.2),
    if_neg (not_or.mpr ⟨ne_false_of_eq_true hr, Nat.not_lt.mpr hhi⟩)]

end

/-! ### SEEK's row -/

section

variable {s : State} {f : CmdFrame} {n origin seq : Nat} (h : Dispatches s f (.seek n origin seq))
include h

/-- A SEEK that only completes leaves the cursor, and everything else. -/
theorem completes_seek_stays {o : Outcome}
    (hw : ∀ d, runSeek d n origin seq (takenState s f (.seek n origin seq)) =
      complete d o (takenState s f (.seek n origin seq))) :
    Completes .seek s f (.seek n origin seq) o s :=
  completes h rfl (hw _) rfl rfl rfl rfl rfl rfl rfl rfl rfl rfl

/-- A SEEK that places the cursor changes that field of the stream's entry alone. -/
theorem completes_seek_places {c : Nat}
    (hw : ∀ d, runSeek d n origin seq (takenState s f (.seek n origin seq)) =
      placeCursor d n c (takenState s f (.seek n origin seq))) :
    Completes .seek s f (.seek n origin seq) { result := .done, value := c }
      (s.withStream n { streamOf s n with cursor := c }) :=
  completes h rfl (hw _) rfl rfl rfl rfl rfl rfl rfl rfl rfl rfl

end

/-- Settles O23: each outcome of `runSeek` either leaves the state it found or places the cursor in it. -/
theorem seekPlacesTheCursor : Obligations.SeekPlacesTheCursor := by
  intro s f n origin seq h
  refine ⟨fun hd => ?undefined, ?oldest, ?newest, ?below, ?above, ?within⟩
  case undefined => exact completes_seek_stays h fun _ => runSeek_undefined hd
  case oldest =>
    rintro hd rfl c rfl
    exact completes_seek_places h fun _ => runSeek_oldest hd
  case newest =>
    rintro hd rfl c rfl
    exact completes_seek_places h fun _ => runSeek_newest hd
  case below =>
    rintro hd rfl hr hq
    exact completes_seek_stays h fun _ => runSeek_exact_below hd hr hq
  case above =>
    rintro hd rfl hq
    exact completes_seek_stays h fun _ => runSeek_exact_above hd hq
  case within =>
    rintro hd rfl hr hlo hhi
    exact completes_seek_places h fun _ => runSeek_exact_within hd hr hlo hhi

end Sys2Proof.Machine

/-!
PROOFS. GET TIME and the option commands (R142, R144, R175): steps 3 and 4 of Figure 2-1 never refuse them, and what
their own executions leave of the Timebase and the options.
-/

namespace Sys2Proof.Machine

open Sys2Proof

/-! ### The judgement of a command that no state refuses and that needs no arm -/

/-- Only step 5 of Figure 2-1 can refuse such a command (R25). -/
theorem dispatchFault_params_only {c : Cmd} (hr : ∀ x, refusedIn x c = false) (ha : needsArm c = false) (s : State) :
    dispatchFault s c = if paramsInRange c = true then none else some .badParam := by
  unfold dispatchFault
  cases paramsInRange c <;> split <;> simp [ha, hr]

theorem dispatches_getTime {s : State} {f : CmdFrame} (h : goodHead s = some (f, .getTime))
    (hr : dispatchReady s = true) : Dispatches s f .getTime :=
  ⟨h, hr, (dispatchFault_params_only (fun _ => rfl) rfl s).trans (if_pos rfl)⟩

theorem dispatchFault_setOption_badParam {id v : Nat} (h : paramsInRange (.setOption id v) = false) (s : State) :
    dispatchFault s (.setOption id v) = some .badParam := by
  rw [dispatchFault_params_only (fun _ => rfl) rfl, h]
  rfl

/-! ### GET TIME (R144) -/

/-- AUX of GET TIME holds four bytes: epoch, TIME_VALID, source and divider. -/
theorem leBytes_timeAux (e a b : Byte) (valid : Bool) :
    leBytes 4 (e.toNat + 256 * bitOf valid + 65536 * a.toNat + 16777216 * b.toNat) =
      [e, if valid then 1 else 0, a, b] := by
  have spelled : e.toNat + 256 * bitOf valid + 65536 * a.toNat + 16777216 * b.toNat =
      leNat [e, if valid then 1 else 0, a, b] := by
    cases valid <;> simp [leNat, bitOf] <;> omega
  rw [spelled]
  exact leBytes_leNat [e, if valid then 1 else 0, a, b]

/-- What GET TIME reports of a state. -/
def timeReport (s : State) : Outcome :=
  { result := .done, value := s.time.counter.toNat
    aux := s.time.epoch.toNat + 256 * bitOf s.time.valid + 65536 * s.options.tickSource +
      16777216 * s.options.tickDivider }

theorem runGetTime_eq (d : Dispatched) (s : State) : runGetTime d s = complete d (timeReport s) s := rfl

theorem completes_getTime {s : State} {f : CmdFrame} (h : Dispatches s f .getTime) :
    Completes .getTime s f .getTime (timeReport s) s :=
  completes h rfl (runGetTime_eq ..) rfl rfl rfl rfl rfl rfl rfl rfl rfl rfl

/-- Settles O43: GET TIME is always accepted, completes in the state it found, and AUX spells its four bytes. -/
theorem getTimeCarriesTheTime : Obligations.GetTimeCarriesTheTime := by
  intro s f hg hr hsrc hdiv
  refine ⟨timeReport s, completes_getTime (dispatches_getTime hg hr), rfl, rfl,
    (BitVec.ofNat_toNat ..).trans (BitVec.setWidth_eq _), ?_⟩
  have hbytes := leBytes_timeAux s.time.epoch (BitVec.ofNat 8 s.options.tickSource)
    (BitVec.ofNat 8 s.options.tickDivider) s.time.valid
  rwa [BitVec.toNat_ofNat, BitVec.toNat_ofNat, Nat.mod_eq_of_lt hsrc, Nat.mod_eq_of_lt hdiv] at hbytes

/-! ### GET OPTION and SET OPTION (R142, R175) -/

/-- The machine with an option replaced; the tick source and divider clear the prescaler count (R142). -/
def State.withOptionSet (s : State) (id v : Nat) : State :=
  { s with
    options := withOption id v s.options
    time := if id = 2 ∨ id = 3 then { s.time with prescaler := 0 } else s.time }

theorem runSetOption_eq {d : Dispatched} {id v : Nat} (hd : d.cmd = .setOption id v) (s : State) :
    runSetOption d s =
      complete d { result := .done, value := v, aux := optionValue s.options id } (s.withOptionSet id v) := by
  unfold runSetOption
  rw [hd]
  rfl

theorem completes_setOption {s : State} {f : CmdFrame} {id v : Nat} (h : Dispatches s f (.setOption id v)) :
    Completes .setOption s f (.setOption id v) { result := .done, value := v, aux := optionValue s.options id }
      (s.withOptionSet id v) :=
  completes h rfl (w := (takenState s f (.setOption id v)).withOptionSet id v)
    (runSetOption_eq (d := newDispatched s f (.setOption id v)) rfl _) rfl rfl rfl rfl rfl rfl rfl rfl rfl rfl

theorem completes_getOption {s : State} {f : CmdFrame} {id : Nat} (h : Dispatches s f (.getOption id)) :
    Completes .getOption s f (.getOption id) { result := .done, value := optionValue s.options id, aux := id } s :=
  completes h rfl (w := takenState s f (.getOption id)) rfl rfl rfl rfl rfl rfl rfl rfl rfl rfl rfl

/-- A command that completes leaves the Timebase and the options as its own execution did. -/
theorem Completes.time_options {i : Instr} {s u : State} {f : CmdFrame} {c : Cmd} {o : Outcome}
    (h : Completes i s f c o u) : ∃ t, exec i s = .next t ∧ t.options = u.options ∧ t.time = u.time := by
  obtain ⟨t, ht, hk⟩ := h
  exact ⟨t, ht, congrArg Held.options hk.settled.held, congrArg Held.time hk.settled.held⟩

/-- A refusal in steps 3 to 5 of Figure 2-1 leaves the Timebase and the options. -/
theorem exec_refused_time_options {s : State} {f : CmdFrame} {c : Cmd} {r : Result} (h : goodHead s = some (f, c))
    (hr : dispatchReady s = true) (hf : dispatchFault s c = some r) :
    ∃ t, exec (rowOf c) s = .next t ∧ t.options = s.options ∧ t.time = s.time := by
  have houter :
      (settle (choose (complete (newDispatched s f c) { result := r } (afterTake s f c)))).outer = s.outer := by
    rw [settle_outer, choose_outer, complete_outer, afterTake, takeHead_outer]
  exact ⟨_, (exec_rowOf c hr).trans (congrArg _ (dispatch_refused h hr hf)), options_of_outer houter,
    time_of_outer houter⟩

theorem optionValue_withOption (o : Options) {id k : Nat} (v : Nat) (hid : 1 ≤ id ∧ id ≤ 6) (hk : 1 ≤ k ∧ k ≤ 6) :
    optionValue (withOption id v o) k = if k = id then v else optionValue o k := by
  obtain ⟨hid1, hid6⟩ := hid
  obtain ⟨hk1, hk6⟩ := hk
  interval_cases id <;> interval_cases k <;> rfl

end Sys2Proof.Machine

/-!
PROOFS. A run of source pulses up to the increment (R140 to R142): what may be due in the events of the pulses changes
neither the Timebase nor the options, so each pulse takes the prescaler count one further.
-/

namespace Sys2Proof.Machine

open Sys2Proof

/-! ### What the tails of a soft reset leave (R171) -/

theorem discardTail_held (n : Nat) (s : State) : (discardTail n s).held = s.held := by
  unfold discardTail
  dsimp only
  split
  · exact addNotice_held ..
  · rfl

theorem discardTails_held (ns : List Nat) (s : State) : (discardTails ns s).held = s.held := by
  induction ns generalizing s with
  | nil => rfl
  | cons n ns ih => exact (ih _).trans (discardTail_held n s)

theorem syncTail_held (n : Nat) (s : State) : (syncTail n s).held = s.held := by
  unfold syncTail
  dsimp only
  split
  · split <;> rfl
  · rfl

theorem syncTails_held (ns : List Nat) (s : State) : (syncTails ns s).held = s.held := by
  induction ns generalizing s with
  | nil => rfl
  | cons n ns ih => exact (ih _).trans (syncTail_held n s)

/-- The held part with the soft reset at this step. -/
def Held.atSoft (h : Held) (x : SoftStep) : Held := { h with power := { h.power with soft := some x } }

theorem setSoft_held (x : SoftStep) (s : State) : (setSoft (some x) s).held = s.held.atSoft x := rfl

theorem softSync_held (ns : List Nat) (s : State) :
    ∃ x, x ≠ .abortSteps ∧ (softSync ns s).held = s.held.atSoft x := by
  unfold softSync
  split
  · exact ⟨.room ns, nofun, setSoft_held ..⟩
  · exact ⟨.drain, nofun, (setSoft_held ..).trans (by rw [syncTails_held])⟩

/-- The tails' step does nothing, or takes the soft reset on to another step. -/
theorem softTails_held (s : State) :
    softTails s = s ∨ ∃ x, x ≠ .abortSteps ∧ (softTails s).held = s.held.atSoft x := by
  unfold softTails
  split
  · obtain ⟨x, hx, hh⟩ := softSync_held ((pendingStreams s).filter (fun n => !tailRefused s (streamOf s n).tail))
      (discardTails ((pendingStreams s).filter (fun n => tailRefused s (streamOf s n).tail)) s)
    exact .inr ⟨x, hx, hh.trans (by rw [discardTails_held])⟩
  · exact .inr (softSync_held ..)
  · exact .inl rfl

/-! ### States in which pulses only count -/

/-- No event brings an abort step, a job of a record or an entry: at most a soft reset's tails are due. It follows from
`nothingDue`, and unlike that it lasts when a job failed by a lock makes room for the tails (R81, R125). -/
structure PulseSteady (s : State) : Prop where
  noAbort : s.host.aborting = false
  noAbortSteps : s.power.soft ≠ some .abortSteps
  noPlacing : placingDue s = none
  noEntry : s.power.entryDue = none

theorem pulseSteady_of_nothingDue {s : State} (h : nothingDue s = true) : PulseSteady s := by
  unfold nothingDue at h
  simp only [Bool.and_eq_true, Bool.not_eq_true', Option.isNone_iff_eq_none, decide_eq_true_eq] at h
  obtain ⟨⟨⟨⟨ha, hs⟩, -⟩, hp⟩, he⟩ := h
  exact ⟨ha, hs, hp, he⟩

theorem placingDue_of_dispatched {s t : State} (h : t.sequencer.dispatched = s.sequencer.dispatched) :
    placingDue t = placingDue s := by
  unfold placingDue
  rw [h]

/-- The Timebase has no part in it, nor has the rest of the power state. -/
theorem PulseSteady.of_held {s t : State} {m : Timebase} {w : Power} (h : PulseSteady s)
    (hh : t.held = { s.held with time := m, power := w }) (hs : w.soft ≠ some .abortSteps) (he : w.entryDue = none) :
    PulseSteady t where
  noAbort := (congrArg (fun x => x.host.aborting) hh).trans h.noAbort
  noAbortSteps := by rw [show t.power = w from congrArg Held.power hh]; exact hs
  noPlacing := (placingDue_of_dispatched (congrArg Held.dispatched hh)).trans h.noPlacing
  noEntry := by rw [show t.power = w from congrArg Held.power hh]; exact he

theorem PulseSteady.atSoft {s t : State} {x : SoftStep} (h : PulseSteady s) (hx : x ≠ .abortSteps)
    (hh : t.held = s.held.atSoft x) : PulseSteady t :=
  h.of_held (m := s.time) hh (fun he => hx (Option.some.inj he)) h.noEntry

/-- All that can be due in a steady state is the tails' step. -/
theorem due_of_pulseSteady {s : State} (h : PulseSteady s) :
    due s = s ∨ ∃ x, x ≠ .abortSteps ∧ (due s).held = s.held.atSoft x := by
  have htails := softTails_held s
  have hsteady : PulseSteady (softTails s) := by
    obtain hsame | ⟨x, hx, hh⟩ := htails
    · rwa [hsame]
    · exact h.atSoft hx hh
  unfold due
  split
  · simp only [hsteady.noAbort, Bool.false_eq_true, if_false, if_neg hsteady.noAbortSteps,
      goOnPlacing_none hsteady.noPlacing, takeEntry_none hsteady.noEntry]
    exact htails
  · exact .inl rfl

/-! ### One pulse -/

theorem pulseEvents_held (p : Pulse) (s0 s : State) : (pulseEvents p s0 s).held = s.held :=
  withPulseEvents_held (some p) s0 s

theorem pulseEvents_work (p : Pulse) (s0 s : State) : SameWork s (pulseEvents p s0 s) := by
  unfold pulseEvents
  dsimp only
  split <;> split
  · exact (raise_work ..).trans (raise_work ..)
  · exact raise_work ..
  · exact raise_work ..
  · exact SameWork.refl s

theorem pulseBody_held (p : Pulse) (s : State) : (pulseBody p s).held = { s.held with time := pulseTime p s } :=
  pulseEvents_held ..

theorem pulseBody_deferred (p : Pulse) (s : State) : (pulseBody p s).sequencer.deferred = s.sequencer.deferred :=
  (pulseEvents_work p s { s with time := pulseTime p s }).2.2

/-- No frame is dispatched while a soft reset is in progress (R23). -/
theorem not_canDispatch_of_soft {s : State} {x : SoftStep} (h : s.power.soft = some x) : ¬ CanDispatch s := by
  rintro ⟨-, hr⟩
  unfold dispatchReady at hr
  simp [h] at hr

/-- The part of a pulse's event before the dispatch of further frames: the pulse, what was due, and a wake from DOZE. -/
def pulseDue (p : Pulse) (s : State) : State :=
  if s.power.state = .doze ∧ pulseWakes p s then wake (due (pulseBody p s)) else due (pulseBody p s)

theorem sourcePulse_eq (p : Pulse) (s : State) :
    sourcePulse p s = settle (choose (ifDeferred dispatchFrames s (pulseEvents p s (pulseDue p s)))) := rfl

/-- A wake changes the power state alone, neither the soft reset nor an entry due. -/
theorem pulseDue_eq (p : Pulse) (s : State) : ∃ x, pulseDue p s =
    { due (pulseBody p s) with power := { (due (pulseBody p s)).power with state := x } } := by
  unfold pulseDue
  split
  · exact ⟨_, rfl⟩
  · exact ⟨(due (pulseBody p s)).power.state, rfl⟩

/-- In a steady state a pulse changes of what is held the Timebase and the power state, and no frame is dispatched in its
event: either nothing was due, and no command has deferred, or a soft reset is in progress. -/
theorem pulseDue_of_pulseSteady {p : Pulse} {s : State} (h : PulseSteady s) :
    ∃ w : Power, w.soft ≠ some .abortSteps ∧ w.entryDue = none ∧
      (pulseDue p s).held = { s.held with time := pulseTime p s, power := w } ∧
      ((pulseDue p s).sequencer.deferred = s.sequencer.deferred ∨ ∃ x, (pulseDue p s).power.soft = some x) := by
  have hbody := pulseBody_held p s
  have hpower : (pulseBody p s).power = s.power := congrArg Held.power hbody
  obtain ⟨x, hx⟩ := pulseDue_eq p s
  obtain hsame | ⟨y, hy, hh⟩ := due_of_pulseSteady (h.of_held hbody h.noAbortSteps h.noEntry)
  · refine ⟨{ s.power with state := x }, h.noAbortSteps, h.noEntry, ?_, .inl ?_⟩
    · rw [hx, hsame, hpower]
      exact congrArg (fun k : Held => { k with power := { s.power with state := x } }) hbody
    · rw [hx, hsame]
      exact pulseBody_deferred p s
  · have hdue : (due (pulseBody p s)).power = { s.power with soft := some y } :=
      (congrArg Held.power hh).trans (by rw [← hpower]; rfl)
    refine ⟨{ s.power with soft := some y, state := x }, fun he => hy (Option.some.inj he), h.noEntry, ?_, .inr ⟨y, ?_⟩⟩
    · rw [hx, hdue]
      rw [hbody] at hh
      exact congrArg (fun k : Held => { k with power := { s.power with soft := some y, state := x } }) hh
    · rw [hx, hdue]

/-- `t` is a steady state with the options and pins of `s` and this Timebase. -/
structure Counted (s t : State) (m : Timebase) : Prop where
  time : t.time = m
  options : t.options = s.options
  pins : t.pins = s.pins
  steady : PulseSteady t

/-- A pulse in a steady state changes the Timebase as R141 says, and the state stays steady. -/
theorem exec_sourcePulse_counted {p : Pulse} {s : State} (h : PulseSteady s) (hc : pulseCounts p s = true) :
    ∃ t, exec (.sourcePulse p) s = .next t ∧ Counted s t (pulseTime p s) := by
  obtain ⟨w, hsoft, hentry, hdue, hidle⟩ := pulseDue_of_pulseSteady (p := p) h
  have hevents := pulseEvents_held p s (pulseDue p s)
  have hnone : ifDeferred dispatchFrames s (pulseEvents p s (pulseDue p s)) = pulseEvents p s (pulseDue p s) := by
    obtain hsame | ⟨x, hx⟩ := hidle
    · exact ifDeferred_not (by rw [(pulseEvents_work ..).2.2, hsame])
    · have hx' := (congrArg (fun k => k.power.soft) hevents).trans hx
      rw [ifDeferred, dispatchFrames_none (not_canDispatch_of_soft hx'), ite_self]
  have hheld : (sourcePulse p s).held = { s.held with time := pulseTime p s, power := w } := by
    rw [sourcePulse_eq, hnone, settle_held, choose_held, hevents, hdue]
  refine ⟨sourcePulse p s, congrArg Host.Outcome.next (if_pos hc), ?_, ?_, ?_, h.of_held hheld hsoft hentry⟩
  · exact congrArg Held.time hheld
  · exact congrArg Held.options hheld
  · exact congrArg Held.pins hheld

/-! ### A run of pulses -/

theorem pulseTime_below {p : Pulse} {s : State} (hc : pulseCounts p s = true)
    (hb : s.time.prescaler + 1 < 2 ^ s.options.tickDivider) :
    pulseTime p s = { s.time with prescaler := s.time.prescaler + 1 } := by
  have hn : increments p s = false := by
    unfold increments completesPrescaler
    rw [decide_eq_false (Nat.not_le.mpr hb), Bool.and_false]
  unfold pulseTime
  rw [hn, hc]
  rfl

theorem pulseTime_at {p : Pulse} {s : State} (hc : pulseCounts p s = true)
    (hb : 2 ^ s.options.tickDivider ≤ s.time.prescaler + 1) :
    (pulseTime p s).counter = s.time.counter + 1 ∧ (pulseTime p s).prescaler = 0 := by
  have hi : increments p s = true := by
    unfold increments completesPrescaler
    rw [decide_eq_true hb, hc]
    rfl
  unfold pulseTime
  rw [if_pos hi]
  exact ⟨rfl, rfl⟩

/-- Whether a pulse counts depends on the pins, the source and RUNNING alone (R140). -/
theorem Counted.pulseCounts_eq {s t : State} {m : Timebase} (h : Counted s t m) (hm : m.running = s.time.running)
    (p : Pulse) : pulseCounts p t = pulseCounts p s := by
  unfold pulseCounts
  rw [h.time, h.options, h.pins, hm]

theorem Counted.trans {s t u : State} {m k : Timebase} (h : Counted s t m) (h' : Counted t u k) : Counted s u k :=
  ⟨h'.time, h'.options.trans h.options, h'.pins.trans h.pins, h'.steady⟩

theorem execAll_append (is js : List Instr) (s : State) :
    execAll (is ++ js) s = (execAll is s).bind (execAll js) := by
  induction is generalizing s with
  | nil => rfl
  | cons i is ih =>
    rw [List.cons_append, execAll, execAll]
    split
    · exact ih _
    · rfl
    · rfl

/-- Pulses that do not complete the prescaler only count. -/
theorem execAll_sourcePulses_below {p : Pulse} {k : Nat} {s : State} (h : PulseSteady s) (hc : pulseCounts p s = true)
    (hk : s.time.prescaler + k < 2 ^ s.options.tickDivider) :
    ∃ t, execAll (List.replicate k (.sourcePulse p)) s = some t ∧
      Counted s t { s.time with prescaler := s.time.prescaler + k } := by
  induction k with
  | zero => exact ⟨s, rfl, rfl, rfl, rfl, h⟩
  | succ k ih =>
    obtain ⟨t, ht, hcount⟩ := ih (by omega)
    have htime : t.time.prescaler = s.time.prescaler + k := congrArg Timebase.prescaler hcount.time
    have hct : pulseCounts p t = true := (hcount.pulseCounts_eq rfl p).trans hc
    obtain ⟨u, hu, hnext⟩ := exec_sourcePulse_counted hcount.steady hct
    rw [pulseTime_below hct (by rw [htime, hcount.options]; omega), hcount.time] at hnext
    refine ⟨u, ?_, hcount.trans hnext⟩
    rw [List.replicate_succ', execAll_append, ht]
    exact execAll_cons hu

/-- From a clear prescaler count the first increment comes with the pulse numbered 2 raised to the divider (R142). -/
theorem execAll_sourcePulses_increment {p : Pulse} {s : State} (h : PulseSteady s) (hc : pulseCounts p s = true)
    (hz : s.time.prescaler = 0) :
    ∃ t, execAll (List.replicate (2 ^ s.options.tickDivider) (.sourcePulse p)) s = some t ∧
      t.time.counter = s.time.counter + 1 ∧ t.time.prescaler = 0 := by
  obtain ⟨k, hk⟩ := Nat.exists_eq_add_one.mpr (Nat.two_pow_pos s.options.tickDivider)
  obtain ⟨t, ht, hcount⟩ := execAll_sourcePulses_below (k := k) h hc (by omega)
  have htime : t.time.prescaler + 1 = 2 ^ t.options.tickDivider := by
    rw [hcount.time, hcount.options, hk]
    simp only [hz, Nat.zero_add]
  have hct : pulseCounts p t = true := (hcount.pulseCounts_eq rfl p).trans hc
  obtain ⟨u, hu, hnext⟩ := exec_sourcePulse_counted hcount.steady hct
  obtain ⟨hcounter, hprescaler⟩ := pulseTime_at hct (Nat.le_of_eq htime.symm)
  refine ⟨u, ?_, ?_, ?_⟩
  · rw [hk, List.replicate_succ', execAll_append, ht]
    exact execAll_cons hu
  · rw [hnext.time, hcounter, hcount.time]
  · rw [hnext.time, hprescaler]

/-- With the source OFF nothing on the pins is a source pulse (R140). -/
theorem pulseCounts_off {s : State} (h : s.options.tickSource = 0) (p : Pulse) : pulseCounts p s = false := by
  unfold pulseCounts
  rw [h]
  cases p <;> exact Bool.and_false _

/-! ### The statement -/

/-- Settles O39: the option commands are `completes_getOption` and `completes_setOption`, and the pulses after a cleared
prescaler count are a run from a steady state. -/
theorem optionsAndThePrescaler : Obligations.OptionsAndThePrescaler := by
  refine ⟨⟨fun s f id v h => ⟨?source, ?divider, ?others⟩, ?badParam, ?getLeaves, ?pulses⟩, ?off, ?get, ?set, ?values⟩
  case source =>
    rintro rfl
    exact completes_setOption h
  case divider =>
    rintro rfl
    exact completes_setOption h
  case others =>
    intro h2 h3
    obtain ⟨t, ht, -, htime⟩ := (completes_setOption h).time_options
    exact ⟨t, ht, htime.trans (if_neg (not_or.mpr ⟨h2, h3⟩))⟩
  case badParam =>
    intro s f id v hg hr hp
    exact exec_refused_time_options hg hr (dispatchFault_setOption_badParam hp s)
  case getLeaves => exact fun s f id h => (completes_getOption h).time_options
  case pulses =>
    intro s p hn hc hz
    have hsteady := pulseSteady_of_nothingDue hn
    refine ⟨fun k hk => ?_, execAll_sourcePulses_increment hsteady hc hz⟩
    obtain ⟨t, ht, hcount⟩ := execAll_sourcePulses_below (k := k) hsteady hc (by rwa [hz, Nat.zero_add])
    rw [hz, Nat.zero_add] at hcount
    exact ⟨t, ht, hcount.time⟩
  case off =>
    intro s p h
    exact congrArg Host.Outcome.next (if_neg (ne_true_of_eq_false (pulseCounts_off h p)))
  case get => exact fun s f id h => completes_getOption h
  case set => exact fun s f id v h => completes_setOption h
  case values => exact fun o id v k h1 h6 k1 k6 => optionValue_withOption o v ⟨h1, h6⟩ ⟨k1, k6⟩

end Sys2Proof.Machine

/-!
PROOFS. The invariants of a step, part by part: each is a condition on the few fields it speaks of, and `Keeps` says of
two states that every one of them passes from the first to the second. What leaves those fields alone keeps them all
(`Keeps.of_parts`), so only the operations that write one of them have anything to prove.
-/

namespace Sys2Proof.Machine

open Sys2Proof

/-- Nothing is no something. -/
theorem of_none_eq_some {α : Type} {p : Prop} {a : α} (h : none = some a) : p := (Option.some_ne_none a h.symm).elim

/-! ### The conditions -/

/-- The Segment Map is canonical. -/
def MapOk (m : List (Nat × SegEntry)) : Prop := storeWf (fun _ => SegEntry.free) 0 m = true

/-- A pending request is the Sequencer's or its ledger writer's (R55). -/
def RequestOk (request : Option Request) : Prop := ∀ r, request = some r → r.who = .sequencer ∨ r.who = .ledger

/-- A ledger operation is the PROGRAM of a ledger frame that exists (R47). -/
def LedgerFrameOk (r : Request) : Prop := r.who = .ledger → ∃ p, r.op = .program p ∧ p.segment = 2 ∧ p.frame ≤ 31

/-- Every ledger operation pending or in progress is one of an existing frame. -/
def LedgerOk (request op : Option Request) : Prop := ∀ r, request = some r ∨ op = some r → LedgerFrameOk r

/-- A mount scan counts at most 32 ledger frames (R164). -/
def ScanOk (m : Mount) : Prop := m.frame ≤ 31 ∧ m.ledgerUsed ≤ 32

/-- At most 32 ledger frames are counted, by the vault and by mount (R131). -/
def CountOk (used : Nat) (mount : Option Mount) : Prop := used ≤ 32 ∧ ∀ m, mount = some m → ScanOk m

/-- A version under way is one requested. -/
def BuiltOk (queue : List VersionFor) (work : Option CatWork) : Prop := work ≠ none → queue ≠ []

/-- The first version requested is under way. -/
def HandedOk (queue : List VersionFor) (work : Option CatWork) : Prop := queue ≠ [] → work ≠ none

/-- At most 16 completion slots are in use (R24). -/
def SlotsOk (deferred : Nat) (dispatched : Option Dispatched) (c : CompletionQueue) : Prop :=
  deferred + (if dispatched.isSome then 1 else 0) + c.records.length + c.fresh.length ≤ 16

/-- At most 8 frames are queued or being received (R11). -/
def FramesOk (a : Assembler) (queue : Nat) : Prop := queue + (if a = .idle then 0 else 1) ≤ 8

/-- The byte index stands in the head record, and at 0 where there is none (R12). -/
def IndexOk (c : CompletionQueue) : Prop := c.index ≤ 11 ∧ (c.records = [] → c.index = 0)

/-- The Notice List and the lost counter are within their bounds (R152). -/
def NoticesOk (notices : List Notice) (lost : Nat) : Prop := notices.length ≤ 8 ∧ lost ≤ 255

/-- The options are in range (Table 12-4). -/
structure OptionsOk (o : Options) : Prop where
  policy : o.commitPolicy ≤ 1
  source : o.tickSource ≤ 3
  divider : o.tickDivider ≤ 7
  holdup : o.holdupUse ≤ 1
  damaged : o.damagedReads ≤ 1
  background : o.backgroundErase ≤ 1

/-- The options are in range and the prescaler count is below its limit (R141). -/
def TimeOk (o : Options) (t : Timebase) : Prop := OptionsOk o ∧ t.prescaler < 2 ^ o.tickDivider

/-- A lock range lies in the user segments. -/
def RangeOk (r : LockRange) : Prop := 5 ≤ r.low ∧ r.low ≤ r.high ∧ r.high ≤ 1023

/-- The lock state is legal and the DISPATCHED command fits it (R124). -/
structure LocksOk (mode : LockMode) (range : Option LockRange) (frozen : Bool) (dispatched : Option Dispatched) :
    Prop where
  disabled : mode = .disabled → range = none ∧ frozen = false ∧ ∀ d, dispatched = some d → lockCommand d.cmd = false
  range : ∀ r, range = some r → RangeOk r
  params : ∀ d, dispatched = some d → paramsInRange d.cmd = true

/-! ### The invariants of the statements in these words -/

theorem mediumSound_iff (s : State) : MediumSound s ↔ s.medium.wf = true ∧ MapOk s.segments.map :=
  ⟨fun h => ⟨h.medium, h.map⟩, fun h => ⟨h.1, h.2⟩⟩

theorem ledgerSound_iff (s : State) :
    LedgerSound s ↔ CountOk s.vault.used s.power.mount ∧ LedgerOk s.engine.request s.engine.op :=
  ⟨fun h => ⟨⟨h.used, h.scanned⟩, h.frames⟩, fun h => ⟨h.1.1, h.1.2, h.2⟩⟩

theorem writerSound_iff (s : State) :
    WriterSound s ↔ BuiltOk s.catalogue.queue s.catalogue.work ∧ HandedOk s.catalogue.queue s.catalogue.work := by
  unfold WriterSound BuiltOk HandedOk
  tauto

theorem portSound_iff (s : State) :
    PortSound s ↔ SlotsOk s.sequencer.deferred.length s.sequencer.dispatched s.cpl ∧
      FramesOk s.host.assembler s.sequencer.queue.length ∧ IndexOk s.cpl :=
  ⟨fun h => ⟨h.slots, h.frames, h.index, h.noRecord⟩, fun h => ⟨h.1, h.2.1, h.2.2.1, h.2.2.2⟩⟩

theorem eventsSound_iff (s : State) : EventsSound s ↔ NoticesOk s.events.notices s.events.lost :=
  ⟨fun h => ⟨h.notices, h.lost⟩, fun h => ⟨h.1, h.2⟩⟩

theorem timeSound_iff (s : State) : TimeSound s ↔ TimeOk s.options s.time :=
  ⟨fun h => ⟨⟨h.policy, h.source, h.divider, h.holdup, h.damaged, h.background⟩, h.prescaler⟩,
    fun ⟨h, p⟩ => ⟨h.policy, h.source, h.divider, h.holdup, h.damaged, h.background, p⟩⟩

theorem locksSound_iff (s : State) :
    LocksSound s ↔ LocksOk s.guard.mode s.guard.range s.guard.frozen s.sequencer.dispatched :=
  ⟨fun h => ⟨h.disabled, h.range, h.params⟩, fun h => ⟨h.disabled, h.range, h.params⟩⟩

/-! ### What an operation keeps -/

/-- Every condition passes from `s` to `t`. Where a written version's successor is still owed its hand-over (R46), the
catalogue writer's second condition is left out. -/
structure Keeps (owed : Bool) (s t : State) : Prop where
  medium : s.medium.wf = true → t.medium.wf = true
  map : MapOk s.segments.map → MapOk t.segments.map
  request : RequestOk s.engine.request → RequestOk t.engine.request
  ledger : LedgerOk s.engine.request s.engine.op → LedgerOk t.engine.request t.engine.op
  count : CountOk s.vault.used s.power.mount → CountOk t.vault.used t.power.mount
  built : BuiltOk s.catalogue.queue s.catalogue.work → BuiltOk t.catalogue.queue t.catalogue.work
  handed : owed = false → HandedOk s.catalogue.queue s.catalogue.work → HandedOk t.catalogue.queue t.catalogue.work
  slots : SlotsOk s.sequencer.deferred.length s.sequencer.dispatched s.cpl →
    SlotsOk t.sequencer.deferred.length t.sequencer.dispatched t.cpl
  frames : FramesOk s.host.assembler s.sequencer.queue.length → FramesOk t.host.assembler t.sequencer.queue.length
  index : IndexOk s.cpl → IndexOk t.cpl
  notices : NoticesOk s.events.notices s.events.lost → NoticesOk t.events.notices t.events.lost
  time : TimeOk s.options s.time → TimeOk t.options t.time
  locks : LocksOk s.guard.mode s.guard.range s.guard.frozen s.sequencer.dispatched →
    LocksOk t.guard.mode t.guard.range t.guard.frozen t.sequencer.dispatched

/-- The fields the conditions speak of. -/
structure Parts where
  medium : Medium
  map : List (Nat × SegEntry)
  request : Option Request
  op : Option Request
  used : Nat
  mount : Option Mount
  versions : List VersionFor
  work : Option CatWork
  deferred : Nat
  dispatched : Option Dispatched
  cpl : CompletionQueue
  assembler : Assembler
  queue : Nat
  notices : List Notice
  lost : Nat
  options : Options
  time : Timebase
  mode : LockMode
  range : Option LockRange
  frozen : Bool

def State.parts (s : State) : Parts :=
  { medium := s.medium, map := s.segments.map, request := s.engine.request, op := s.engine.op, used := s.vault.used,
    mount := s.power.mount, versions := s.catalogue.queue, work := s.catalogue.work,
    deferred := s.sequencer.deferred.length, dispatched := s.sequencer.dispatched, cpl := s.cpl,
    assembler := s.host.assembler, queue := s.sequencer.queue.length, notices := s.events.notices,
    lost := s.events.lost, options := s.options, time := s.time, mode := s.guard.mode, range := s.guard.range,
    frozen := s.guard.frozen }

section

variable {o : Bool} {s t u : State} {d : Dispatched}

theorem Keeps.refl (s : State) : Keeps o s s := ⟨id, id, id, id, id, id, fun _ => id, id, id, id, id, id, id⟩

theorem Keeps.trans (h : Keeps o s t) (k : Keeps o t u) : Keeps o s u where
  medium := k.medium ∘ h.medium
  map := k.map ∘ h.map
  request := k.request ∘ h.request
  ledger := k.ledger ∘ h.ledger
  count := k.count ∘ h.count
  built := k.built ∘ h.built
  handed := fun e => k.handed e ∘ h.handed e
  slots := k.slots ∘ h.slots
  frames := k.frames ∘ h.frames
  index := k.index ∘ h.index
  notices := k.notices ∘ h.notices
  time := k.time ∘ h.time
  locks := k.locks ∘ h.locks

theorem Keeps.of_parts (h : t.parts = s.parts) : Keeps o s t := by
  unfold State.parts at h
  injection h
  constructor <;> simp only [*] <;> first | exact id | exact fun _ => id

/-- An operation keeps the conditions and leaves the DISPATCHED command where it is. -/
structure Quiet (owed : Bool) (s t : State) : Prop extends Keeps owed s t where
  same : t.sequencer.dispatched = s.sequencer.dispatched

theorem Quiet.refl (s : State) : Quiet o s s := ⟨Keeps.refl s, rfl⟩

theorem Quiet.trans (h : Quiet o s t) (k : Quiet o t u) : Quiet o s u :=
  ⟨h.toKeeps.trans k.toKeeps, k.same.trans h.same⟩

/-- The same, read from the last operation back. -/
theorem Quiet.comp (k : Quiet o t u) (h : Quiet o s t) : Quiet o s u := h.trans k

theorem Quiet.ite {p : Prop} [Decidable p] (h : Quiet o s t) (k : Quiet o s u) : Quiet o s (if p then t else u) := by
  split <;> assumption

theorem Quiet.of_parts (h : t.parts = s.parts) : Quiet o s t := ⟨.of_parts h, congrArg Parts.dispatched h⟩

/-- An operation of the DISPATCHED command, after a quiet one. -/
theorem Keeps.after (k : t.sequencer.dispatched = some d → Keeps o t u) (h : Quiet o s t)
    (hd : s.sequencer.dispatched = some d) : Keeps o s u := h.toKeeps.trans (k (h.same.trans hd))

theorem Keeps.onQuiet (k : Keeps o t u) (h : Quiet o s t) : Keeps o s u := h.toKeeps.trans k

/-- A quiet operation after one of any kind. -/
theorem Keeps.comp (k : Quiet o t u) (h : Keeps o s t) : Keeps o s u := h.trans k.toKeeps

/-! ### Updates of one part -/

theorem quiet_medium {m : Medium} (h : s.medium.wf = true → m.wf = true) : Quiet o s { s with medium := m } :=
  ⟨⟨h, id, id, id, id, id, fun _ => id, id, id, id, id, id, id⟩, rfl⟩

theorem quiet_map {m : Segments} (h : MapOk s.segments.map → MapOk m.map) : Quiet o s { s with segments := m } :=
  ⟨⟨id, h, id, id, id, id, fun _ => id, id, id, id, id, id, id⟩, rfl⟩

/-- Only requests already known, or legal ones, come to the engine. -/
theorem quiet_engine {e : Engine}
    (hr : ∀ r, e.request = some r →
      s.engine.request = some r ∨ (r.who = .sequencer ∨ r.who = .ledger) ∧ LedgerFrameOk r)
    (ho : ∀ r, e.op = some r → s.engine.request = some r ∨ s.engine.op = some r ∨ LedgerFrameOk r) :
    Quiet o s { s with engine := e } := by
  refine ⟨⟨id, id, fun h r k => ?_, fun h r k => ?_, id, id, fun _ => id, id, id, id, id, id, id⟩, rfl⟩
  · exact (hr r k).elim (h r) (·.1)
  · obtain k | k := k
    · exact (hr r k).elim (fun e => h r (.inl e)) (·.2)
    · exact (ho r k).elim (fun e => h r (.inl e)) (fun e => e.elim (fun e => h r (.inr e)) id)

theorem quiet_vault {v : SealVault} (h : CountOk s.vault.used s.power.mount → v.used ≤ 32) :
    Quiet o s { s with vault := v } :=
  ⟨⟨id, id, id, id, fun k => ⟨h k, k.2⟩, id, fun _ => id, id, id, id, id, id, id⟩, rfl⟩

theorem quiet_power {p : Power} (h : CountOk s.vault.used s.power.mount → ∀ m, p.mount = some m → ScanOk m) :
    Quiet o s { s with power := p } :=
  ⟨⟨id, id, id, id, fun k => ⟨k.1, h k⟩, id, fun _ => id, id, id, id, id, id, id⟩, rfl⟩

theorem quiet_catalogue {c : Catalogue} (h : BuiltOk s.catalogue.queue s.catalogue.work → BuiltOk c.queue c.work)
    (k : o = false → HandedOk s.catalogue.queue s.catalogue.work → HandedOk c.queue c.work) :
    Quiet o s { s with catalogue := c } :=
  ⟨⟨id, id, id, id, id, h, k, id, id, id, id, id, id⟩, rfl⟩

theorem quiet_events {e : EventUnit} (h : NoticesOk s.events.notices s.events.lost → NoticesOk e.notices e.lost) :
    Quiet o s { s with events := e } :=
  ⟨⟨id, id, id, id, id, id, fun _ => id, id, id, id, h, id, id⟩, rfl⟩

theorem quiet_time {t : Timebase} {p : Options} (h : TimeOk s.options s.time → TimeOk p t) :
    Quiet o s { s with time := t, options := p } :=
  ⟨⟨id, id, id, id, id, id, fun _ => id, id, id, id, id, h, id⟩, rfl⟩

theorem quiet_guard {g : GuardUnit}
    (h : LocksOk s.guard.mode s.guard.range s.guard.frozen s.sequencer.dispatched →
      LocksOk g.mode g.range g.frozen s.sequencer.dispatched) : Quiet o s { s with guard := g } :=
  ⟨⟨id, id, id, id, id, id, fun _ => id, id, id, id, id, id, h⟩, rfl⟩

theorem quiet_cpl {c : CompletionQueue} (h :
    c.records.length + c.fresh.length ≤ s.cpl.records.length + s.cpl.fresh.length)
    (k : IndexOk s.cpl → IndexOk c) : Quiet o s { s with cpl := c } :=
  ⟨⟨id, id, id, id, id, id, fun _ => id, fun e => by unfold SlotsOk at *; dsimp only; omega, id, k, id, id, id⟩, rfl⟩

/-- The queue of frames and the assembler. -/
theorem quiet_frames {a : Assembler} {h : HostPort} {q : Sequencer} (ha : h.assembler = a)
    (hd : q.dispatched = s.sequencer.dispatched) (he : q.deferred.length ≤ s.sequencer.deferred.length)
    (hf : FramesOk s.host.assembler s.sequencer.queue.length → FramesOk a q.queue.length) :
    Quiet o s { s with host := h, sequencer := q } :=
  ⟨⟨id, id, id, id, id, id, fun _ => id, fun e => by unfold SlotsOk at *; dsimp only; rw [hd]; omega, ha ▸ hf, id, id,
    id, hd ▸ id⟩, hd⟩

end

end Sys2Proof.Machine

/-!
PROOFS. The operations that leave the DISPATCHED command alone keep every condition, in the order of their definitions.
-/

namespace Sys2Proof.Machine

open Sys2Proof

variable {o : Bool}

/-! ### Events, notices and posting -/

theorem raise_parts (e : Event) (s : State) : (raise e s).parts = s.parts := by unfold raise; split <;> rfl

theorem addNoticeAt_parts (k : Nat) (n : Notice) (s : State) : (addNoticeAt k n s).parts = s.parts := by
  unfold addNoticeAt; split <;> rfl

theorem quiet_raise (e : Event) (s : State) : Quiet o s (raise e s) := .of_parts (raise_parts e s)

theorem quiet_addNoticeAt (k : Nat) (n : Notice) (s : State) : Quiet o s (addNoticeAt k n s) :=
  .of_parts (addNoticeAt_parts k n s)

theorem quiet_addNotice (n : Notice) (s : State) : Quiet o s (addNotice n s) := quiet_addNoticeAt ..

theorem quiet_hostError (c : Byte) (s : State) : Quiet o s (hostError c s) :=
  .comp (quiet_raise ..) (.of_parts rfl)

/-- A notice that joins a full list pushes out the oldest (R152). -/
theorem noticesOk_joinNotice {e : EventUnit} (n : Notice) (h : NoticesOk e.notices e.lost) :
    NoticesOk (joinNotice e n).notices (joinNotice e n).lost := by
  unfold joinNotice saturate NoticesOk at *
  split
  · exact ⟨by simp only [List.length_append, List.length_singleton]; omega, h.2⟩
  · refine ⟨by simp only [List.length_append, List.length_drop, List.length_singleton]; omega, ?_⟩
    dsimp only
    split <;> omega

theorem noticesOk_foldl (ns : List Notice) {e : EventUnit} (h : NoticesOk e.notices e.lost) :
    NoticesOk (ns.foldl joinNotice e).notices (ns.foldl joinNotice e).lost := by
  induction ns generalizing e with
  | nil => exact h
  | cons n ns ih => exact ih (noticesOk_joinNotice n h)

theorem quiet_settle (s : State) : Quiet o s (settle s) := by
  refine .comp (t := flushCompletions s) (quiet_events fun h => noticesOk_foldl _ h) (quiet_cpl ?_ ?_)
  · simp [length_orderByKey]
  · exact fun h => ⟨h.1, fun e => h.2 (List.append_eq_nil_iff.mp e).1⟩

/-- What a posted record changes: it is one of the fresh ones. -/
theorem postRecord_parts (k : Nat) (c : Completion) (s : State) :
    (postRecord k c s).parts = { s.parts with cpl := { s.cpl with fresh := s.cpl.fresh ++ [(k, c)] } } := by
  unfold postRecord
  dsimp only
  split
  · rw [raise_parts]; rfl
  · rfl

/-! ### The Stream Table and the Segment Map -/

theorem quiet_setStream (n : Nat) (t : Stream) (s : State) : Quiet o s (setStream n t s) := .of_parts rfl

theorem quiet_updStream (n : Nat) (f : Stream → Stream) (s : State) : Quiet o s (updStream n f s) := .of_parts rfl

theorem quiet_enterFull (n : Nat) (r : FullReason) (s : State) : Quiet o s (enterFull n r s) := by
  unfold enterFull
  dsimp only
  split
  · exact .refl s
  · exact .comp (quiet_addNotice ..) <| .comp (quiet_raise ..) (quiet_setStream ..)

theorem quiet_setSeg (g : Nat) (e : SegEntry) (s : State) : Quiet o s (setSeg g e s) :=
  quiet_map fun h => storeWf_storePut h (Nat.zero_le _)

theorem quiet_updSeg (g : Nat) (f : SegEntry → SegEntry) (s : State) : Quiet o s (updSeg g f s) := quiet_setSeg ..

theorem quiet_leavePool (g : Nat) (s : State) : Quiet o s (leavePool g s) := .of_parts rfl

theorem quiet_joinPool (g : Nat) (s : State) : Quiet o s (joinPool g s) := .of_parts rfl

theorem quiet_takeSegment (g : Nat) (s : State) : Quiet o s (takeSegment g s) :=
  .comp (quiet_updSeg ..) (quiet_leavePool ..)

theorem quiet_releaseSegment (g : Nat) (s : State) : Quiet o s (releaseSegment g s) :=
  .comp (quiet_joinPool ..) (quiet_updSeg ..)

theorem quiet_retireSegment (g : Nat) (s : State) : Quiet o s (retireSegment g s) :=
  .comp (quiet_leavePool ..) (quiet_updSeg ..)

theorem quiet_clearWeak (g : Nat) (s : State) : Quiet o s (clearWeak g s) := quiet_updSeg ..

theorem quiet_holdForMount (g : Nat) (s : State) : Quiet o s (holdForMount g s) := quiet_updSeg ..

/-! ### Jobs, tails and deferred commands -/

theorem quiet_noteProgram (failed : Bool) (s : State) : Quiet o s (noteProgram failed s) := .of_parts rfl

theorem quiet_engineIdle (s : State) : Quiet o s (engineIdle s) :=
  quiet_engine (fun _ => .inl) (fun _ => of_none_eq_some)

theorem quiet_emitJob (j : Job) (s : State) : Quiet o s (emitJob j s) := .of_parts rfl

theorem quiet_dropHead (s : State) : Quiet o s (dropHead s) := .of_parts rfl

theorem quiet_nameAll (id : Nat) (s : State) : Quiet o s (nameAll id s) := .of_parts rfl

theorem quiet_syncTail (n : Nat) (s : State) : Quiet o s (syncTail n s) := by
  unfold syncTail
  dsimp only
  split
  · split
    · exact .of_parts rfl
    · exact .refl s
  · exact .refl s

theorem quiet_syncTails (ns : List Nat) (s : State) : Quiet o s (syncTails ns s) := by
  induction ns generalizing s with
  | nil => exact .refl s
  | cons n ns ih => exact .comp (ih _) (quiet_syncTail n s)

theorem enterFull_parts (n : Nat) (r : FullReason) (s : State) : (enterFull n r s).parts = s.parts := by
  unfold enterFull
  dsimp only
  split
  · rfl
  · exact (addNoticeAt_parts ..).trans (raise_parts ..)

theorem postDeferred_parts (d : Deferred) (s : State) : ∃ x,
    (postDeferred d s).parts = { s.parts with cpl := { s.cpl with fresh := s.cpl.fresh ++ [x] } } := by
  refine ⟨_, Eq.trans ?_ (postRecord_parts (d.id + 1)
    (completionOf d.tag d.opcode (deferredDetail d.kind) d.abortLate (deferredOutcome s d)) s)⟩
  unfold postDeferred
  cases d.kind with
  | commit n seq =>
    dsimp only
    split
    · exact enterFull_parts ..
    · rfl
  | sync => rfl
  | vaultWrite => rfl

theorem postAll_parts (ds : List Deferred) (s : State) : ∃ xs, xs.length = ds.length ∧
    (postAll ds s).parts = { s.parts with cpl := { s.cpl with fresh := s.cpl.fresh ++ xs } } := by
  induction ds generalizing s with
  | nil => exact ⟨[], rfl, by simp [postAll, State.parts]⟩
  | cons d ds ih =>
    obtain ⟨x, hx⟩ := postDeferred_parts d s
    obtain ⟨xs, hl, hxs⟩ := ih (postDeferred d s)
    refine ⟨x :: xs, by simp [hl], hxs.trans ?_⟩
    rw [show (postDeferred d s).cpl = _ from congrArg Parts.cpl hx, hx]
    simp

/-- A deferred command that posts gives its slot to its record (R24, R31). -/
theorem quiet_releaseDeferred (s : State) : Quiet o s (releaseDeferred s) := by
  unfold releaseDeferred
  dsimp only
  have hlen := List.length_eq_length_filter_add (l := s.sequencer.deferred) (fun d => stillNamed s d.id)
  generalize s.sequencer.deferred.filter (fun d => !stillNamed s d.id) = ready at *
  generalize s.sequencer.deferred.filter (fun d => stillNamed s d.id) = kept at *
  obtain ⟨xs, hl, hx⟩ := postAll_parts ready { s with sequencer := { s.sequencer with deferred := kept } }
  have hk : Quiet o s { s with
      sequencer := { s.sequencer with deferred := kept }, cpl := { s.cpl with fresh := s.cpl.fresh ++ xs } } :=
    ⟨⟨id, id, id, id, id, id, fun _ => id,
      fun e => by unfold SlotsOk at *; simp only [List.length_append] at *; omega, id, id, id, id, id⟩, rfl⟩
  exact hk.trans (.of_parts hx)

theorem quiet_spoilNamed (js : List Job) (s : State) : Quiet o s (spoilNamed js s) :=
  .of_parts (by unfold spoilNamed State.parts; simp only [List.length_map])

theorem quiet_advanceDurable (j : Job) (s : State) : Quiet o s (advanceDurable j s) := by
  unfold advanceDurable
  split
  · exact quiet_updStream ..
  · exact .refl s

theorem quiet_faultStream (n seg cause : Nat) (s : State) : Quiet o s (faultStream n seg cause s) := by
  unfold faultStream
  exact .comp (quiet_releaseDeferred _) <| .comp (quiet_raise ..) <| .comp (quiet_addNotice ..) <|
    .comp (quiet_updStream ..) <| .comp (quiet_spoilNamed ..) (.of_parts rfl)

/-! ### The retired list and catalogue versions -/

theorem quiet_enterWornOut (why : Nat) (s : State) : Quiet o s (enterWornOut why s) := by
  unfold enterWornOut
  split
  · exact .refl s
  · exact .comp (quiet_raise ..) <| .comp (quiet_addNotice ..) (.of_parts rfl)

theorem quiet_handVersion (s : State) : Quiet o s (handVersion s) := by
  refine quiet_catalogue (fun h => ?_) fun _ _ => ?_
  · intro hw
    by_cases hq : s.catalogue.queue = []
    · exact absurd (by simpa [hq] using hw) (fun e => h e hq)
    · exact hq
  · intro hq
    obtain ⟨v, vs, hv⟩ := List.exists_cons_of_ne_nil hq
    dsimp only at hv ⊢
    rw [hv]
    simp

/-- Once the head is handed over, the version under way is the first one requested. -/
theorem handedOk_handVersion (s : State) : HandedOk (handVersion s).catalogue.queue (handVersion s).catalogue.work := by
  intro hq
  obtain ⟨v, vs, hv⟩ := List.exists_cons_of_ne_nil hq
  simp only [handVersion_queue, handVersion_work] at *
  rw [hv]
  simp

theorem quiet_requestVersion (v : VersionFor) (s : State) : Quiet o s (requestVersion v s) := by
  refine quiet_catalogue (fun _ _ => ?_) fun _ _ _ => ?_
  · exact List.append_ne_nil_of_right_ne_nil _ (List.cons_ne_nil _ _)
  · simp

theorem quiet_listRetired (g : Nat) (s : State) : Quiet o s (listRetired g s) := .of_parts rfl

theorem quiet_recordRetirement (g : Nat) (b : Bool) (s : State) : Quiet o s (recordRetirement g b s) := by
  unfold recordRetirement
  split
  · split
    · exact .comp (quiet_requestVersion ..) (quiet_listRetired ..)
    · exact .comp (quiet_enterWornOut ..) (quiet_holdForMount ..)
  · split
    · exact quiet_listRetired ..
    · exact quiet_holdForMount ..
  · exact quiet_holdForMount ..
  · exact quiet_holdForMount ..

theorem quiet_retireErased (g : Nat) (b : Bool) (s : State) : Quiet o s (retireErased g b s) :=
  .comp (quiet_raise ..) <| .comp (quiet_addNotice ..) <| .comp (quiet_recordRetirement ..) (quiet_retireSegment ..)

/-! ### Relocation -/

theorem quiet_setReloc (r : Option Reloc) (s : State) : Quiet o s (setReloc r s) := .of_parts rfl

theorem quiet_giveUp (r : Reloc) (s : State) : Quiet o s (giveUp r s) :=
  .comp (quiet_faultStream ..) <| .comp (quiet_setReloc ..) <| .comp (quiet_recordRetirement ..) <|
    .comp (quiet_updStream ..) (quiet_retireSegment ..)

theorem quiet_takeTarget (r : Reloc) (s : State) : Quiet o s (takeTarget r s) := by
  unfold takeTarget
  split
  · exact quiet_giveUp ..
  split
  · exact quiet_giveUp ..
  · exact .comp (quiet_setReloc ..) (quiet_takeSegment ..)

theorem quiet_startRelocation (j : Job) (s : State) : Quiet o s (startRelocation j s) :=
  .comp (quiet_takeTarget ..) (quiet_updSeg ..)

theorem quiet_finishRelocation (r : Reloc) (s : State) : Quiet o s (finishRelocation r s) := by
  unfold finishRelocation
  split
  · exact quiet_setReloc ..
  · exact .comp (quiet_raise ..) <| .comp (quiet_addNotice ..) <| .comp (quiet_addNotice ..) <|
      .comp (quiet_releaseDeferred _) <| .comp (quiet_setReloc ..) <| .comp (quiet_updStream ..) <|
        .comp (quiet_advanceDurable ..) (.of_parts rfl)

theorem quiet_completeCopy (r : Reloc) (s : State) : Quiet o s (completeCopy r s) := by
  unfold completeCopy
  dsimp only
  generalize hu : recordRetirement r.segment true _ = u
  have hq : Quiet o s u := by
    rw [← hu]
    exact .comp (quiet_recordRetirement ..) <| .comp (quiet_updSeg ..) <| .comp (quiet_retireSegment ..) <|
      .comp (quiet_updStream ..) (quiet_updSeg ..)
  split
  · exact .comp (quiet_setReloc ..) hq
  · exact .comp (quiet_finishRelocation ..) hq

theorem quiet_abandonTarget (r : Reloc) (s : State) : Quiet o s (abandonTarget r s) :=
  .comp (quiet_takeTarget ..) <| .comp (quiet_raise ..) <| .comp (quiet_addNotice ..) <|
    .comp (quiet_recordRetirement ..) (quiet_retireSegment ..)

theorem quiet_beginCopy (r : Reloc) (s : State) : Quiet o s (beginCopy r s) :=
  .comp (quiet_setReloc ..) (quiet_clearWeak ..)

theorem quiet_targetEraseFailed (r : Reloc) (s : State) : Quiet o s (targetEraseFailed r s) :=
  .comp (quiet_takeTarget ..) (quiet_retireErased ..)

theorem quiet_copyAfterRead (r : Reloc) (i : Nat) (f : FrameRead) (s : State) : Quiet o s (copyAfterRead r i f s) :=
  quiet_setReloc ..

theorem quiet_copyPassed (r : Reloc) (i : Nat) (p : Program) (s : State) : Quiet o s (copyPassed r i p s) := by
  unfold copyPassed
  dsimp only
  split
  · exact quiet_setReloc ..
  · exact quiet_completeCopy ..

/-! ### Streams that leave, and COMMIT's segments -/

theorem quiet_releaseAll (es : List ChainEntry) (s : State) : Quiet o s (releaseAll es s) := by
  induction es generalizing s with
  | nil => exact .refl s
  | cons e es ih => exact .comp (ih _) (quiet_releaseSegment ..)

theorem quiet_dropRetired (es : List ChainEntry) (s : State) : Quiet o s (dropRetired es s) := by
  induction es generalizing s with
  | nil => exact .refl s
  | cons e es ih => exact .comp (ih _) (quiet_updSeg ..)

theorem quiet_leaveStream (n : Nat) (s : State) : Quiet o s (leaveStream n s) :=
  .comp (quiet_setStream ..) <| .comp (quiet_dropRetired ..) (quiet_releaseAll ..)

theorem quiet_leaveStreams (ns : List Nat) (s : State) : Quiet o s (leaveStreams ns s) := by
  induction ns generalizing s with
  | nil => exact .refl s
  | cons n ns ih => exact .comp (ih _) (quiet_leaveStream ..)

theorem quiet_unstage (n : Nat) (s : State) : Quiet o s (unstage n s) := by
  unfold unstage
  split
  · split
    · exact .of_parts rfl
    · exact .refl s
  · exact .refl s

theorem quiet_formatted (s : State) : Quiet o s (formatted s) := by
  unfold formatted
  generalize List.range 8 = ns
  have h : Quiet o s (leaveStreams ns { s with write := { s.write with staging := none } }) :=
    .comp (quiet_leaveStreams ..) (.of_parts rfl)
  dsimp only
  split
  · exact h.trans (.of_parts rfl)
  · exact h

theorem quiet_closeWriteSegment (n : Nat) (s : State) : Quiet o s (closeWriteSegment n s) := by
  unfold closeWriteSegment
  dsimp only
  have hclosed : Quiet o s (match writeEntry s (streamOf s n) with
      | some e => updSeg e.segment (fun g => { g with isOpen := false }) s
      | none => s) := by
    split
    · exact quiet_updSeg ..
    · exact .refl s
  split
  · split
    · exact .comp (quiet_emitJob ..) <| .comp (quiet_setStream ..) hclosed
    · exact .comp (quiet_setStream ..) hclosed
  · exact hclosed

theorem quiet_reclaimOldest (n : Nat) (s : State) : Quiet o s (reclaimOldest n s) := by
  unfold reclaimOldest
  dsimp only
  split
  · exact .refl s
  · exact .comp (quiet_raise ..) <| .comp (quiet_addNotice ..) <| .comp (quiet_releaseSegment ..) (quiet_setStream ..)

/-! ### Requests, seals and system reads -/

theorem quiet_requestRead (segment frame lo hi : Nat) (s : State) : Quiet o s (requestRead segment frame lo hi s) :=
  quiet_engine (fun _ e => .inr (by cases e; exact ⟨.inl rfl, nofun⟩)) (fun _ e => .inr (.inl e))

theorem quiet_requestErase (g : Nat) (s : State) :
    Quiet o s { s with engine := { s.engine with request := some { who := .sequencer, op := .erase g } } } :=
  quiet_engine (fun _ e => .inr (by cases e; exact ⟨.inl rfl, nofun⟩)) (fun _ e => .inr (.inl e))

/-- The ledger writer asks for an unused frame (R47). -/
theorem quiet_requestLedger (content : LedgerFrame) {s : State} (h : s.vault.used < 32) :
    Quiet o s (requestLedger content s) :=
  quiet_engine (fun _ e => .inr (by cases e; exact ⟨.inr rfl, fun _ => ⟨_, rfl, rfl, Nat.lt_succ_iff.mp h⟩⟩))
    (fun _ e => .inr (.inl e))

theorem quiet_dropRequest (s : State) : Quiet o s (dropRequest s) :=
  quiet_engine (fun _ => of_none_eq_some) (fun _ e => .inr (.inl e))

theorem quiet_closeForSeal (n : Nat) (set : List SealEntry) (s : State) : Quiet o s (closeForSeal n set s) := by
  unfold closeForSeal
  dsimp only
  split
  · split
    · exact .comp (quiet_setStream ..) (quiet_updSeg ..)
    · exact .refl s
  · exact .refl s

theorem quiet_sealSegments (xs : List SealEntry) (s : State) : Quiet o s (sealSegments xs s) := by
  induction xs generalizing s with
  | nil => exact .refl s
  | cons x xs ih => exact .comp (ih _) (quiet_updSeg ..)

theorem quiet_useLedgerFrame (s : State) : Quiet o s (useLedgerFrame s) := quiet_vault fun _ => Nat.min_le_left ..

theorem quiet_systemDamaged (segment value : Nat) (s : State) : Quiet o s (systemDamaged segment value s) :=
  .comp (quiet_raise ..) (quiet_addNotice ..)

/-! ### The choice of work -/

theorem quiet_holdWrite (h : Nat × Nat × Nat) (s : State) : Quiet o s (holdWrite h s) := by
  unfold holdWrite
  split
  · exact .refl s
  · exact .comp (quiet_raise ..) <| .comp (quiet_addNotice ..) (.of_parts rfl)

/-- A candidate is the pending request, or one of another block than the ledger writer. -/
def Known (s : State) (c : WorkItem) : Prop := s.engine.request = some c.request ∨ c.request.who ≠ .ledger

theorem candidates_known (s : State) : ∀ c ∈ candidates s, Known s c := by
  have catalogue : ∀ mine kind stream, ∀ c ∈ catalogueCandidate mine kind stream s, Known s c := by
    intro mine kind stream c hc
    unfold catalogueCandidate at hc
    split at hc
    · split at hc
      · cases List.mem_singleton.mp hc; exact .inr nofun
      · cases hc
    · cases hc
  have sequencer : ∀ reads, ∀ c ∈ sequencerCandidate reads s, Known s c := by
    intro reads c hc
    unfold sequencerCandidate at hc
    split at hc
    · rename_i r hr
      split at hc
      · cases hc
      · cases List.mem_singleton.mp hc; exact .inl hr
    · cases hc
  have job : ∀ c ∈ jobCandidate s, Known s c := by
    intro c hc
    unfold jobCandidate at hc
    split at hc
    · cases List.mem_singleton.mp hc; exact .inr nofun
    · cases hc
  have relocation : ∀ c ∈ rankOne s, Known s c := by
    intro c hc
    unfold rankOne at hc
    dsimp only at hc
    obtain hc | hc := List.mem_append.mp hc
    · exact catalogue _ _ _ c hc
    · split at hc
      · cases List.mem_singleton.mp hc; exact .inr nofun
      · cases hc
  intro c hc
  unfold candidates at hc
  simp only [List.mem_append] at hc
  obtain ((((hc | hc) | hc) | hc) | hc) | hc := hc
  · exact relocation c hc
  · exact sequencer _ c hc
  · exact catalogue _ _ _ c hc
  · exact catalogue _ _ _ c hc
  · exact sequencer _ c hc
  · exact job c hc

theorem quiet_startWorkOn {c : WorkItem} {s : State} (h : Known s c) : Quiet o s (startWorkOn c s) := by
  refine quiet_engine (fun r hr => ?_) (fun r hr => ?_)
  · dsimp only at hr
    split at hr
    · cases hr
    · exact .inl hr
  · cases hr
    exact h.imp id fun hw => .inr (fun e => absurd e hw)

theorem quiet_startBackgroundErase (s : State) : Quiet o s (startBackgroundErase s) := by
  unfold startBackgroundErase
  split
  · split
    · exact quiet_engine (fun _ => .inl) (fun _ e => .inr (.inr (by cases e; exact nofun)))
    · exact .refl s
  · exact .refl s

theorem quiet_failByLock (s : State) : Quiet o s (failByLock s) := by
  unfold failByLock
  split
  · exact .refl s
  · exact .comp (quiet_raise ..) (quiet_faultStream ..)

theorem quiet_tryCandidates {again : State → State} (ha : ∀ s, Quiet o s (again s)) (cs : List WorkItem) (s : State)
    (h : ∀ c ∈ cs, Known s c) : Quiet o s (tryCandidates again cs s) := by
  induction cs generalizing s with
  | nil => exact quiet_startBackgroundErase s
  | cons c cs ih =>
    unfold tryCandidates
    split
    · rename_i x _
      split
      · have hx : (holdWrite x s).engine = s.engine := (holdWrite_posting x s).2
        refine (quiet_holdWrite x s).trans (ih _ fun c' hc' => ?_)
        have := h c' (List.mem_cons_of_mem _ hc')
        unfold Known at *
        rwa [hx]
      split
      · exact .comp (ha _) (quiet_failByLock s)
      · exact quiet_startWorkOn (h c List.mem_cons_self)
    · exact quiet_startWorkOn (h c List.mem_cons_self)

theorem quiet_chooseWork (n : Nat) (s : State) : Quiet o s (chooseWork n s) := by
  induction n generalizing s with
  | zero => exact .refl s
  | succ n ih =>
    unfold chooseWork
    split
    · exact quiet_tryCandidates ih _ s (candidates_known s)
    · exact .refl s

theorem quiet_close (s : State) : Quiet o s (settle (choose s)) := .comp (quiet_settle _) (quiet_chooseWork 10 s)

/-! ### What may be due, and the wakes -/

theorem quiet_signalRoom (b : Bool) (s : State) : Quiet o s (signalRoom b s) := by
  unfold signalRoom
  split
  · exact quiet_raise ..
  · exact .refl s

theorem quiet_setSoft (x : Option SoftStep) (s : State) : Quiet o s (setSoft x s) := .of_parts rfl

theorem quiet_discardTail (n : Nat) (s : State) : Quiet o s (discardTail n s) := by
  unfold discardTail
  dsimp only
  split
  · exact .comp (quiet_addNotice ..) (quiet_setStream ..)
  · exact .refl s

theorem quiet_discardTails (ns : List Nat) (s : State) : Quiet o s (discardTails ns s) := by
  induction ns generalizing s with
  | nil => exact .refl s
  | cons n ns ih => exact .comp (ih _) (quiet_discardTail n s)

theorem quiet_softSync (ns : List Nat) (s : State) : Quiet o s (softSync ns s) := by
  unfold softSync
  split
  · exact quiet_setSoft ..
  · exact .comp (quiet_setSoft ..) (quiet_syncTails ..)

theorem quiet_softTails (s : State) : Quiet o s (softTails s) := by
  unfold softTails
  split
  · exact .comp (quiet_softSync ..) (quiet_discardTails ..)
  · exact quiet_softSync ..
  · exact .refl s

theorem quiet_enterDoze (s : State) : Quiet o s (enterDoze s) := .of_parts rfl

theorem quiet_enterHalt (s : State) : Quiet o s (enterHalt s) :=
  have h : Quiet o s { s with power := (enterHalt s).power, events := (enterHalt s).events } := .of_parts rfl
  h.trans (quiet_time (t := haltTime s.time) (p := s.options) fun h => ⟨h.1, Nat.two_pow_pos _⟩)

theorem quiet_takeEntry (s : State) : Quiet o s (takeEntry s) := by
  unfold takeEntry
  split
  · exact quiet_enterDoze s
  · exact quiet_enterHalt s
  · exact .refl s

theorem quiet_wake (s : State) : Quiet o s (wake s) := .of_parts rfl

/-! ### The ends of operations -/

theorem quiet_slotDone (j : Job) (failed : Bool) (s : State) : Quiet o s (slotDone j failed s) := by
  unfold slotDone
  split
  · exact quiet_vault (·.1)
  · exact .refl s

theorem quiet_jobPassed (j : Job) (s : State) : Quiet o s (jobPassed j s) :=
  .comp (quiet_releaseDeferred _) <| .comp (quiet_advanceDurable ..) <| .comp (quiet_slotDone ..) (quiet_dropHead s)

theorem quiet_jobFailed (j : Job) (s : State) : Quiet o s (jobFailed j s) := by
  unfold jobFailed
  split
  · exact .comp (quiet_releaseDeferred _) <| .comp (quiet_spoilNamed ..) <| .comp (quiet_slotDone ..) (quiet_dropHead s)
  · exact quiet_startRelocation ..

theorem quiet_jobEnded (r : ProgramResult) (s : State) : Quiet o s (jobEnded r s) := by
  unfold jobEnded
  split
  · exact .refl s
  · split
    · exact quiet_jobFailed ..
    · exact quiet_jobPassed ..

theorem quiet_jobEndedInFlush (r : ProgramResult) (s : State) : Quiet o s (jobEndedInFlush r s) := by
  unfold jobEndedInFlush
  split
  · exact .of_parts rfl
  · exact quiet_dropHead s

theorem quiet_programEnded (p : Program) (r : ProgramResult) (s : State) : Quiet o s (programEnded p r s) :=
  .comp (quiet_noteProgram ..) <| .comp (quiet_engineIdle _) (quiet_medium fun h => Medium.wf_endProgram h p r)

theorem quiet_eraseEnded (g : Nat) (r : EraseResult) (s : State) : Quiet o s (eraseEnded g r s) :=
  .comp (quiet_engineIdle _) (quiet_medium fun h => Medium.wf_endErase h g r)

theorem quiet_cutOperation (cut : Cut) (s : State) : Quiet o s (cutOperation cut s) := by
  unfold cutOperation
  split
  · exact .comp (quiet_engineIdle _) (quiet_medium fun h => Medium.wf_cut h _ cut)
  · exact .refl s

theorem quiet_enterDead (s : State) : Quiet o s (enterDead s) := .of_parts rfl

theorem quiet_finishFlush (s : State) : Quiet o s (finishFlush s) := by
  unfold finishFlush
  split
  · exact quiet_engine (fun _ => .inl) (fun _ e => .inr (.inr (by cases e; exact nofun)))
  · exact quiet_enterDead s

end Sys2Proof.Machine

/-!
PROOFS. The operations of the DISPATCHED command keep every condition: it completes, defers or goes on, and each of the
three leaves as many completion slots in use as it found (R24).
-/

namespace Sys2Proof.Machine

open Sys2Proof

variable {o : Bool} {s : State} {d : Dispatched}

/-! ### The command retires or goes on -/

theorem LocksOk.retired {m : LockMode} {r : Option LockRange} {f : Bool} {x : Option Dispatched}
    (h : LocksOk m r f x) : LocksOk m r f none :=
  ⟨fun e => ⟨(h.disabled e).1, (h.disabled e).2.1, fun _ => of_none_eq_some⟩, h.range, fun _ => of_none_eq_some⟩

/-- The lock state asks nothing of a command but what it is. -/
theorem LocksOk.same_cmd {m : LockMode} {r : Option LockRange} {f : Bool} {x y : Dispatched}
    (h : LocksOk m r f (some x)) (e : y.cmd = x.cmd) : LocksOk m r f (some y) :=
  ⟨fun k => ⟨(h.disabled k).1, (h.disabled k).2.1, fun _ hz => by cases hz; rw [e]; exact (h.disabled k).2.2 x rfl⟩,
    h.range, fun _ hz => by cases hz; rw [e]; exact h.params x rfl⟩

theorem complete_parts (d : Dispatched) (out : Outcome) (s : State) : ∃ x,
    (complete d out s).parts =
      { s.parts with dispatched := none, cpl := { s.cpl with fresh := s.cpl.fresh ++ [x] } } :=
  ⟨_, postRecord_parts ..⟩

theorem keeps_complete {out : Outcome} (hd : s.sequencer.dispatched = some d) : Keeps o s (complete d out s) := by
  obtain ⟨x, hx⟩ := complete_parts d out s
  have h : Keeps o s { s with
      sequencer := { s.sequencer with dispatched := none }
      cpl := { s.cpl with fresh := s.cpl.fresh ++ [x] } } := by
    refine ⟨id, id, id, id, id, id, fun _ => id, fun e => ?_, id, id, id, id, LocksOk.retired⟩
    unfold SlotsOk at *
    simp [hd] at e ⊢
    omega
  exact h.trans (.of_parts hx)

theorem keeps_setPhase {p : Phase} (hd : s.sequencer.dispatched = some d) : Keeps o s (setPhase d p s) := by
  refine ⟨id, id, id, id, id, id, fun _ => id, fun e => ?_, id, id, id, id, fun e => ?_⟩
  · unfold SlotsOk at *
    rwa [hd] at e
  · rw [hd] at e
    exact e.same_cmd rfl

theorem keeps_defer {k : DeferredKind} (hd : s.sequencer.dispatched = some d) : Keeps o s (defer d k s) := by
  refine ⟨id, id, id, id, id, id, fun _ => id, fun e => ?_, id, id, id, id, LocksOk.retired⟩
  unfold SlotsOk defer at *
  simp [hd] at e ⊢
  omega

theorem keeps_respond {out : Outcome} {bytes : List Byte} (hd : s.sequencer.dispatched = some d) :
    Keeps o s (respond d out bytes s) := .after keeps_complete (.of_parts rfl) hd

theorem keeps_completeDispatched {out : Outcome} {s : State} : Keeps o s (completeDispatched out s) := by
  unfold completeDispatched
  split
  · exact keeps_complete ‹_›
  · exact .refl s

/-! ### Catalogue versions -/

theorem keeps_versionWritten {v : VersionFor} {version : Version} {s : State} :
    Keeps o s (versionWritten v version s) := by
  unfold versionWritten
  split
  · exact .onQuiet keeps_completeDispatched (quiet_setStream ..)
  · exact .onQuiet keeps_completeDispatched <| .comp (quiet_leaveStream ..) (quiet_unstage ..)
  · exact .onQuiet keeps_completeDispatched (quiet_formatted s)
  · split
    · split
      · exact (quiet_finishRelocation ..).toKeeps
      · exact .refl s
    · exact .refl s

theorem keeps_versionGivenUp {v : VersionFor} {s : State} : Keeps o s (versionGivenUp v s) := by
  unfold versionGivenUp
  split
  · exact keeps_completeDispatched
  · exact keeps_completeDispatched
  · exact keeps_completeDispatched
  · rename_i g b
    have h : Quiet o s (holdForMount g
        { s with catalogue := { s.catalogue with retired := s.catalogue.retired.filter (fun x => x ≠ g) } }) :=
      .comp (quiet_holdForMount ..) (.of_parts rfl)
    dsimp only
    split
    · split
      · exact .comp (quiet_finishRelocation ..) h.toKeeps
      · exact h.toKeeps
    · exact h.toKeeps

theorem keeps_giveUpVersions (vs : List VersionFor) (s : State) : Keeps o s (giveUpVersions vs s) := by
  induction vs generalizing s with
  | nil => exact .refl s
  | cons v vs ih => exact keeps_versionGivenUp.trans (ih _)

theorem keeps_loseCatalogue (s : State) : Keeps o s (loseCatalogue s) :=
  .onQuiet (keeps_giveUpVersions ..) <| .comp (quiet_enterWornOut ..) <|
    quiet_catalogue (fun _ h => absurd rfl h) (fun _ _ h => absurd rfl h)

/-- A version under way stays under way, in another segment, or the catalogue is lost for writing. -/
theorem keeps_workFailed {w : CatWork} (hw : s.catalogue.work ≠ none) : Keeps o s (workFailed w s) := by
  unfold workFailed
  split
  · exact Quiet.toKeeps (quiet_catalogue (fun h _ => h hw) (fun _ _ _ => Option.some_ne_none _))
  · exact keeps_loseCatalogue s

theorem keeps_catalogueErased {w : CatWork} {r : EraseResult} (hw : s.catalogue.work ≠ none) :
    Keeps o s (catalogueErased w r s) := by
  unfold catalogueErased
  split
  · exact Quiet.toKeeps (quiet_catalogue (fun h _ => h hw) (fun _ _ _ => Option.some_ne_none _))
  · exact keeps_workFailed hw

/-- A version written is followed by the hand-over of the next one requested (R46). -/
theorem keeps_catalogueProgrammed {w : CatWork} {r : ProgramResult} (hw : s.catalogue.work ≠ none) :
    Keeps o s (catalogueProgrammed w r s) := by
  unfold catalogueProgrammed
  split
  · dsimp only
    split
    · have hq : Quiet true s { s with catalogue := { s.catalogue with
          active := w.segment, top := some w.frame, generation := w.version.generation,
          queue := s.catalogue.queue.drop 1, work := none } } := quiet_catalogue (fun _ h => absurd rfl h) nofun
      have written := Keeps.comp (quiet_handVersion _) (.onQuiet (keeps_versionWritten (v := ‹_›) (version :=
        w.version)) hq)
      exact { written with handed := fun _ _ => handedOk_handVersion _ }
    · rename_i hq
      rw [List.head?_eq_none_iff.mp hq]
      exact Quiet.toKeeps (quiet_catalogue (fun _ h => absurd rfl h) (fun _ _ h => absurd rfl h))
  · exact .onQuiet (keeps_workFailed (by exact hw)) (.of_parts rfl)

/-! ### COMMIT -/

theorem keeps_finishCommit {n seq : Nat} (hd : s.sequencer.dispatched = some d) :
    Keeps o s (finishCommit d n seq s) := by
  unfold finishCommit
  dsimp only
  split
  · exact .after keeps_defer (.comp (quiet_updStream ..) (.of_parts rfl)) hd
  split
  · exact .comp (quiet_enterFull ..) <| .after keeps_complete (.comp (quiet_updStream ..) (.of_parts rfl)) hd
  · exact .after keeps_complete (.comp (quiet_updStream ..) (.of_parts rfl)) hd

theorem keeps_placingLost {n seq : Nat} (hd : s.sequencer.dispatched = some d) : Keeps o s (placingLost d n seq s) := by
  unfold placingLost
  split
  · exact .after keeps_complete (.of_parts rfl) hd
  · exact keeps_finishCommit hd

theorem keeps_copyRecord {n seq : Nat} {free : Bool} {bytes : List Byte} (hd : s.sequencer.dispatched = some d) :
    Keeps o s (copyRecord d n seq free bytes s) := by
  unfold copyRecord
  dsimp only
  split
  · split
    · exact .after keeps_setPhase (.of_parts rfl) hd
    · exact .after keeps_finishCommit (.of_parts rfl) hd
  · exact keeps_placingLost hd

theorem keeps_assignAndPlace {n : Nat} {attr : Byte} {free : Bool} (hd : s.sequencer.dispatched = some d) :
    Keeps o s (assignAndPlace d n attr free s) := by
  unfold assignAndPlace
  dsimp only
  split
  · exact .after keeps_copyRecord (quiet_setStream ..) hd
  · exact .refl s

theorem keeps_placeInWriteSegment {n : Nat} {attr : Byte} (hd : s.sequencer.dispatched = some d) :
    Keeps o s (placeInWriteSegment d n attr s) := .after keeps_assignAndPlace (quiet_updStream ..) hd

theorem keeps_placeInNewSegment {n : Nat} {attr : Byte} {generation g : Nat} {free : Bool}
    (hd : s.sequencer.dispatched = some d) : Keeps o s (placeInNewSegment d n attr generation g free s) :=
  .after keeps_assignAndPlace (.comp (quiet_setStream ..) (quiet_updSeg ..)) hd

theorem keeps_allocationFailed {n : Nat} (hd : s.sequencer.dispatched = some d) :
    Keeps o s (allocationFailed d n s) := .comp (quiet_enterFull ..) <| .after keeps_complete (.of_parts rfl) hd

theorem keeps_allocate {n : Nat} {attr : Byte} {generation : Nat} {free : Bool}
    (hd : s.sequencer.dispatched = some d) : Keeps o s (allocate d n attr generation free s) := by
  unfold allocate
  split
  · exact keeps_allocationFailed hd
  split
  · exact .after keeps_setPhase (.comp (quiet_requestErase ..) (quiet_takeSegment ..)) hd
  · exact .after keeps_placeInNewSegment (quiet_takeSegment ..) hd

theorem keeps_commitPoint {n : Nat} {attr : Byte} {p : Placement} (hd : s.sequencer.dispatched = some d) :
    Keeps o s (commitPoint d n attr p s) := by
  unfold commitPoint
  dsimp only
  split
  · rename_i reclaim
    cases reclaim with
    | true =>
      exact .after keeps_allocate (.comp (quiet_reclaimOldest ..) <|
        .comp (quiet_closeWriteSegment ..) (.of_parts rfl)) hd
    | false => exact .after keeps_allocate (.comp (quiet_closeWriteSegment ..) (.of_parts rfl)) hd
  · exact .after keeps_placeInWriteSegment (.of_parts rfl) hd

theorem keeps_runCommit {n : Nat} {attr : Byte} (hd : s.sequencer.dispatched = some d) :
    Keeps o s (runCommit d n attr s) := by
  unfold runCommit
  split
  · exact keeps_complete hd
  · exact .comp (quiet_enterFull ..) (keeps_complete hd)
  · dsimp only
    split
    · exact keeps_setPhase hd
    · exact keeps_commitPoint hd

theorem keeps_allocationErased {n : Nat} {attr : Byte} {generation g : Nat} {failed : Bool}
    (hd : s.sequencer.dispatched = some d) : Keeps o s (allocationErased d n attr generation g failed s) := by
  unfold allocationErased
  split
  · exact .after keeps_allocate (quiet_retireErased ..) hd
  · exact .after keeps_placeInNewSegment (quiet_clearWeak ..) hd

/-! ### Reading -/

theorem keeps_deliver {l : Lookup} {g : Gathered} {grade : Grade} (hd : s.sequencer.dispatched = some d) :
    Keeps o s (deliver d l g grade s) := by
  unfold deliver
  dsimp only
  split
  · exact .after keeps_respond (.comp (quiet_raise ..) (quiet_addNotice ..)) hd
  · split
    · exact .after keeps_respond
        (.ite (.comp (quiet_raise ..) <| .comp (quiet_addNotice ..) (quiet_updSeg ..)) (.refl s)) hd
    · exact .after keeps_respond
        (.ite (.comp (quiet_raise ..) <| .comp (quiet_addNotice ..) (quiet_updSeg ..)) (.refl s)) hd

theorem keeps_concludeLookup {l : Lookup} {start : Option (Nat × Nat × Nat)} (hd : s.sequencer.dispatched = some d) :
    Keeps o s (concludeLookup d l start s) := by
  unfold concludeLookup
  dsimp only
  split
  · exact keeps_deliver hd
  · exact keeps_complete hd

theorem keeps_searchFrames {l : Lookup} {left : Nat} (hd : s.sequencer.dispatched = some d) :
    Keeps o s (searchFrames d l left s) := by
  induction left generalizing l with
  | zero => exact keeps_concludeLookup hd
  | succ left ih =>
    unfold searchFrames
    dsimp only
    split
    · split
      · split
        · exact keeps_concludeLookup hd
        · exact ih
      · exact ih
    · exact .after keeps_setPhase (quiet_requestRead l.segment left 0 512 s) hd

theorem keeps_lookupRead {l : Lookup} {f : FrameRead} (hd : s.sequencer.dispatched = some d) :
    Keeps o s (lookupRead d l f s) := by
  unfold lookupRead
  dsimp only
  split
  · split
    · exact keeps_concludeLookup hd
    · exact keeps_searchFrames hd
  · exact keeps_searchFrames hd

theorem keeps_startLookup {n seq skip : Nat} (hd : s.sequencer.dispatched = some d) :
    Keeps o s (startLookup d n seq skip s) := by
  unfold startLookup
  dsimp only
  split
  · exact keeps_complete hd
  · exact keeps_searchFrames hd

theorem keeps_runReadRecord {n seq : Nat} (hd : s.sequencer.dispatched = some d) :
    Keeps o s (runReadRecord d n seq s) := by
  unfold runReadRecord
  dsimp only
  split
  · exact keeps_complete hd
  split
  · exact keeps_complete hd
  split
  · exact keeps_complete hd
  · exact keeps_startLookup hd

theorem keeps_runReadNext {n : Nat} (hd : s.sequencer.dispatched = some d) : Keeps o s (runReadNext d n s) := by
  unfold runReadNext
  dsimp only
  split
  · exact keeps_complete hd
  split
  · exact keeps_complete hd
  · exact .after keeps_startLookup (quiet_setStream ..) hd

theorem keeps_runSeek {n origin seq : Nat} (hd : s.sequencer.dispatched = some d) :
    Keeps o s (runSeek d n origin seq s) := by
  unfold runSeek
  dsimp only
  split
  · exact keeps_complete hd
  split
  · exact .after keeps_complete (quiet_setStream ..) hd
  split
  · exact .after keeps_complete (quiet_setStream ..) hd
  split
  · exact keeps_complete hd
  split
  · exact keeps_complete hd
  · exact .after keeps_complete (quiet_setStream ..) hd

/-! ### Seals, locks, barriers and the vault -/

theorem closeForSeal_vault (n : Nat) (set : List SealEntry) (s : State) : (closeForSeal n set s).vault = s.vault := by
  unfold closeForSeal
  dsimp only
  split
  · split <;> rfl
  · rfl

/-- A ledger program is asked for by a command that goes on. -/
theorem keeps_askLedger {p : Phase} {content : LedgerFrame} (hd : s.sequencer.dispatched = some d)
    (hu : s.vault.used < 32) : Keeps o s (requestLedger content (setPhase d p s)) :=
  .comp (quiet_requestLedger _ (by exact hu)) (keeps_setPhase hd)

theorem keeps_sealAfterBarrier {n seq : Nat} (hd : s.sequencer.dispatched = some d) :
    Keeps o s (sealAfterBarrier d n seq s) := by
  unfold sealAfterBarrier
  dsimp only
  split
  · exact keeps_complete hd
  split
  · exact keeps_complete hd
  split
  · exact keeps_complete hd
  split
  · exact keeps_complete hd
  · rename_i hne hfit
    have hlen : 0 < (sealSet n seq (streamOf s n)).length :=
      List.length_pos_of_ne_nil (fun e => hne (by rw [e]; rfl))
    refine .after (fun h => keeps_askLedger h ?_) (quiet_closeForSeal n _ s) hd
    rw [closeForSeal_vault]
    omega

/-- The sealed set grows. -/
theorem quiet_sealed {t : State} (gs : List Nat) (h : Quiet o s t) :
    Quiet o s { t with vault := { t.vault with sealedSet := t.vault.sealedSet ++ gs } } :=
  h.trans (quiet_vault (·.1))

theorem keeps_sealProgrammed {n programmed total : Nat} {groups : List (List SealEntry)} {failed : Bool}
    (hd : s.sequencer.dispatched = some d) : Keeps o s (sealProgrammed d n groups programmed total failed s) := by
  unfold sealProgrammed
  dsimp only
  split
  · split
    · rename_i hu
      exact .after (fun h => keeps_askLedger h hu) (quiet_useLedgerFrame s) hd
    · exact .after keeps_complete (quiet_useLedgerFrame s) hd
  · have hmarked : Quiet o s
        (updStream n (markSealed (groups.headD [])) (sealSegments (groups.headD []) (useLedgerFrame s))) :=
      .comp (quiet_updStream ..) <| .comp (quiet_sealSegments ..) (quiet_useLedgerFrame s)
    have hq := quiet_sealed ((groups.headD []).map (fun x => x.segment)) hmarked
    split
    · exact .after keeps_complete hq hd
    · split
      · rename_i hlt
        exact .after (fun h => keeps_askLedger h hlt) hq hd
      · exact .after keeps_complete hq hd

theorem keeps_runVaultClose (hd : s.sequencer.dispatched = some d) : Keeps o s (runVaultClose d s) := by
  unfold runVaultClose
  split
  · exact keeps_complete hd
  split
  · exact keeps_complete hd
  split
  · exact keeps_complete hd
  · exact keeps_askLedger hd (by omega)

theorem keeps_closingProgrammed {failed : Bool} (hd : s.sequencer.dispatched = some d) :
    Keeps o s (closingProgrammed d failed s) := by
  unfold closingProgrammed
  dsimp only
  split
  · split
    · rename_i hu
      exact .after (fun h => keeps_askLedger h hu) (quiet_useLedgerFrame s) hd
    · exact .after keeps_complete (quiet_useLedgerFrame s) hd
  · exact .after keeps_complete (.comp (quiet_vault (·.1)) (quiet_useLedgerFrame s)) hd

theorem keeps_ledgerProgrammed (failed : Bool) (s : State) : Keeps o s (ledgerProgrammed failed s) := by
  unfold ledgerProgrammed
  split
  · exact .refl s
  · split
    · exact keeps_sealProgrammed ‹_›
    · exact keeps_closingProgrammed ‹_›
    · exact .refl s

/-- A lock command past its judgement leaves a legal lock state (R126). -/
theorem locksOk_lockUpdate {g : GuardUnit} (h : LocksOk g.mode g.range g.frozen (some d)) :
    LocksOk (lockUpdate d.cmd g).mode (lockUpdate d.cmd g).range (lockUpdate d.cmd g).frozen (some d) := by
  unfold lockUpdate
  have active : lockCommand d.cmd = true → g.mode ≠ .disabled := fun hc hm => by
    have := (h.disabled hm).2.2 d rfl
    simp [hc] at this
  split
  · rename_i hc
    exact ⟨fun e => absurd e (active (by rw [hc]; rfl)), fun _ => of_none_eq_some, h.params⟩
  · rename_i low high invert hc
    refine ⟨fun e => absurd e (active (by rw [hc]; rfl)), fun r hr => ?_, h.params⟩
    cases hr
    have hp := h.params d rfl
    simp only [hc, paramsInRange, isUser, Bool.and_eq_true, decide_eq_true_eq] at hp
    exact ⟨hp.1.1.1.1, hp.1.2, hp.1.1.2.2⟩
  · rename_i hc
    exact ⟨fun e => absurd e (active (by rw [hc]; rfl)), h.range, h.params⟩
  · exact h

theorem quiet_lockUpdate (hd : s.sequencer.dispatched = some d) :
    Quiet o s { s with guard := lockUpdate d.cmd s.guard } :=
  quiet_guard (by rw [hd]; exact locksOk_lockUpdate)

theorem keeps_judgeEntry {e : Entry} (hd : s.sequencer.dispatched = some d) : Keeps o s (judgeEntry d e s) := by
  unfold judgeEntry
  split
  · exact .after keeps_complete (.of_parts rfl) hd
  · exact keeps_complete hd

theorem keeps_afterBarrier (hd : s.sequencer.dispatched = some d) : Keeps o s (afterBarrier d s) := by
  unfold afterBarrier
  split
  · split
    · exact keeps_complete hd
    · exact .comp (quiet_requestVersion ..) (keeps_setPhase hd)
  · exact keeps_sealAfterBarrier hd
  · split
    · exact keeps_complete hd
    · exact .comp (quiet_requestVersion ..) (keeps_setPhase hd)
  · exact keeps_judgeEntry hd
  · exact keeps_judgeEntry hd
  · exact .after keeps_complete (quiet_lockUpdate hd) hd

theorem keeps_drainBarrier (hd : s.sequencer.dispatched = some d) : Keeps o s (drainBarrier d s) := by
  unfold drainBarrier
  split
  · exact keeps_afterBarrier hd
  · exact keeps_setPhase hd

theorem keeps_syncBarrier (hd : s.sequencer.dispatched = some d) : Keeps o s (syncBarrier d s) := by
  unfold syncBarrier
  dsimp only
  split
  · exact keeps_setPhase hd
  · exact .after keeps_drainBarrier (quiet_syncTails ..) hd

theorem keeps_runSync (hd : s.sequencer.dispatched = some d) : Keeps o s (runSync d s) := by
  unfold runSync
  dsimp only
  split
  · exact keeps_setPhase hd
  split
  · exact .after keeps_complete (quiet_syncTails ..) hd
  · exact .after keeps_defer (.comp (quiet_nameAll ..) (quiet_syncTails ..)) hd

theorem keeps_runVaultWrite {slot : Nat} {data : List Byte} (hd : s.sequencer.dispatched = some d) :
    Keeps o s (runVaultWrite d slot data s) := by
  unfold runVaultWrite
  split
  · exact keeps_complete hd
  split
  · exact keeps_complete hd
  split
  · exact keeps_complete hd
  split
  · exact keeps_setPhase hd
  · exact .after keeps_defer (quiet_emitJob ..) hd

/-! ### READs of the Sequencer and the responding commands -/

/-- A READ is asked for by a command that goes on. -/
theorem keeps_askRead {p : Phase} {segment frame lo hi : Nat} (hd : s.sequencer.dispatched = some d) :
    Keeps o s (setPhase d p (requestRead segment frame lo hi s)) := .after keeps_setPhase (quiet_requestRead ..) hd

theorem keeps_respondDamaged {out : Outcome} {bytes : List Byte} {segment value : Nat}
    (hd : s.sequencer.dispatched = some d) : Keeps o s (respond d out bytes (systemDamaged segment value s)) :=
  .after keeps_respond (quiet_systemDamaged ..) hd

theorem keeps_runVaultRead {slot : Nat} (hd : s.sequencer.dispatched = some d) : Keeps o s (runVaultRead d slot s) := by
  unfold runVaultRead
  split
  · exact keeps_respond hd
  split
  · exact keeps_askRead hd
  · exact keeps_respond hd

theorem keeps_slotReadEnd {slot : Nat} {f : FrameRead} (hd : s.sequencer.dispatched = some d) :
    Keeps o s (slotReadEnd d slot f s) := by
  unfold slotReadEnd
  split
  · exact keeps_respondDamaged hd
  · exact keeps_respond hd

theorem keeps_copyReadEnd {copy : Nat} {first : List Byte} {f : FrameRead} (hd : s.sequencer.dispatched = some d) :
    Keeps o s (copyReadEnd d copy first f s) := by
  unfold copyReadEnd
  dsimp only
  split
  · exact keeps_respond hd
  split
  · exact keeps_askRead hd
  · exact keeps_respondDamaged hd

theorem keeps_identityReadEnd {bytes : List Byte} (hd : s.sequencer.dispatched = some d) :
    Keeps o s (identityReadEnd d bytes s) := by
  unfold identityReadEnd
  split
  · exact keeps_respond hd
  · exact keeps_respondDamaged hd

theorem keeps_runSegmentStatus {g : Nat} (hd : s.sequencer.dispatched = some d) :
    Keeps o s (runSegmentStatus d g s) := by
  unfold runSegmentStatus
  split
  · exact keeps_respond hd
  split
  · exact keeps_respond hd
  · exact keeps_askRead hd

theorem keeps_countingReadEnd {g frame : Nat} {f : FrameRead} (hd : s.sequencer.dispatched = some d) :
    Keeps o s (countingReadEnd d g frame f s) := by
  unfold countingReadEnd
  split
  · exact keeps_respond hd
  split
  · exact keeps_askRead hd
  · exact keeps_respond hd

theorem keeps_runReadNotices (hd : s.sequencer.dispatched = some d) : Keeps o s (runReadNotices d s) :=
  .after keeps_respond (quiet_events fun _ => ⟨Nat.zero_le _, Nat.zero_le _⟩) hd

theorem keeps_runResponding (hd : s.sequencer.dispatched = some d) : Keeps o s (runResponding d s) := by
  unfold runResponding
  split
  · exact keeps_respond hd
  · exact keeps_runReadRecord hd
  · exact keeps_runReadNext hd
  · exact keeps_runSegmentStatus hd
  · exact keeps_runVaultRead hd
  · exact keeps_askRead hd
  · exact keeps_askRead hd
  · exact keeps_runReadNotices hd
  · exact .refl s

theorem keeps_awaitBuffer (hd : s.sequencer.dispatched = some d) : Keeps o s (awaitBuffer d s) := by
  unfold awaitBuffer
  split
  · exact keeps_runResponding hd
  · exact keeps_setPhase hd

theorem keeps_sequencerRead (seg frame lo hi : Nat) (noise : ReadNoise) (s : State) :
    Keeps o s (sequencerRead seg frame lo hi noise s) := by
  unfold sequencerRead
  dsimp only
  split
  · exact .refl s
  · rename_i hd
    split
    · exact keeps_lookupRead hd
    · exact keeps_countingReadEnd hd
    · exact keeps_slotReadEnd hd
    · exact keeps_copyReadEnd hd
    · exact keeps_identityReadEnd hd
    · exact .refl s

/-! ### Each command's own execution -/

theorem optionsOk_withOption {id v : Nat} {p : Options} (hp : paramsInRange (.setOption id v) = true)
    (h : OptionsOk p) : OptionsOk (withOption id v p) := by
  simp only [paramsInRange, Bool.and_eq_true, decide_eq_true_eq] at hp
  obtain ⟨⟨h1, h6⟩, hv⟩ := hp
  obtain ⟨a, b, c, d, e, f⟩ := h
  interval_cases id <;> constructor <;> assumption

/-- SET OPTION clears the prescaler count where it changes the divider (R142). -/
theorem timeOk_setOption {id v : Nat} {p : Options} {t : Timebase} (hp : paramsInRange (.setOption id v) = true)
    (h : TimeOk p t) : TimeOk (withOption id v p) (if id = 2 ∨ id = 3 then { t with prescaler := 0 } else t) := by
  refine ⟨optionsOk_withOption hp h.1, ?_⟩
  split
  · exact Nat.two_pow_pos _
  · rename_i hid
    have hsame : (withOption id v p).tickDivider = p.tickDivider := by
      unfold withOption
      split <;> first | rfl | (exfalso; omega)
    rw [hsame]
    exact h.2

theorem keeps_runSetOption (hd : s.sequencer.dispatched = some d) (hp : paramsInRange d.cmd = true) :
    Keeps o s (runSetOption d s) := by
  unfold runSetOption
  split
  · rename_i id v hc
    rw [hc] at hp
    exact .after keeps_complete (quiet_time (timeOk_setOption hp)) hd
  · exact .refl s

theorem keeps_runDefine (hd : s.sequencer.dispatched = some d) : Keeps o s (runDefine d s) := by
  unfold runDefine
  split
  · split
    · exact keeps_complete hd
    split
    · exact keeps_complete hd
    · exact .comp (quiet_requestVersion ..) (keeps_setPhase hd)
  · exact .refl s

theorem keeps_runDelete (hd : s.sequencer.dispatched = some d) : Keeps o s (runDelete d s) := by
  unfold runDelete
  split
  · dsimp only
    split
    · exact keeps_complete hd
    split
    · exact keeps_complete hd
    · exact keeps_drainBarrier hd
  · exact .refl s

theorem keeps_runTrim (hd : s.sequencer.dispatched = some d) : Keeps o s (runTrim d s) := by
  unfold runTrim
  split
  · dsimp only
    split
    · exact keeps_complete hd
    split
    · exact keeps_complete hd
    split
    · exact keeps_complete hd
    · exact .after keeps_complete (.comp (quiet_setStream ..) (quiet_releaseAll ..)) hd
  · exact .refl s

theorem keeps_runAppend (hd : s.sequencer.dispatched = some d) : Keeps o s (runAppend d s) := by
  unfold runAppend
  split
  · dsimp only
    split
    · exact keeps_complete hd
    split
    · exact keeps_complete hd
    split
    · exact keeps_complete hd
    split
    · exact .after keeps_complete (.of_parts rfl) hd
    · exact .after keeps_complete (.of_parts rfl) hd
  · exact .refl s

theorem keeps_runCommitCommand (hd : s.sequencer.dispatched = some d) : Keeps o s (runCommitCommand d s) := by
  unfold runCommitCommand
  split
  · exact keeps_runCommit hd
  · exact .refl s

theorem keeps_runCancel (hd : s.sequencer.dispatched = some d) : Keeps o s (runCancel d s) := by
  unfold runCancel
  split
  · split
    · split
      · exact .after keeps_complete (.of_parts rfl) hd
      · exact keeps_complete hd
    · exact keeps_complete hd
  · exact .refl s

theorem keeps_runSeekCommand (hd : s.sequencer.dispatched = some d) : Keeps o s (runSeekCommand d s) := by
  unfold runSeekCommand
  split
  · exact keeps_runSeek hd
  · exact .refl s

theorem keeps_runLock (hd : s.sequencer.dispatched = some d) : Keeps o s (runLock d s) := by
  unfold runLock
  split
  · exact keeps_complete hd
  split
  · exact keeps_complete hd
  · exact keeps_syncBarrier hd

theorem keeps_runArm (hd : s.sequencer.dispatched = some d) : Keeps o s (runArm d s) := by
  unfold runArm
  split
  · exact .after keeps_complete (.of_parts rfl) hd
  · exact .refl s

theorem keeps_runSeal (hd : s.sequencer.dispatched = some d) : Keeps o s (runSeal d s) := by
  unfold runSeal
  split
  · dsimp only
    split
    · exact keeps_complete hd
    split
    · exact keeps_complete hd
    split
    · exact keeps_complete hd
    · exact keeps_syncBarrier hd
  · exact .refl s

theorem keeps_runFormat (hd : s.sequencer.dispatched = some d) : Keeps o s (runFormat d s) := by
  unfold runFormat
  split
  · exact keeps_complete hd
  · exact keeps_drainBarrier hd

theorem keeps_runVaultWriteCommand (hd : s.sequencer.dispatched = some d) : Keeps o s (runVaultWriteCommand d s) := by
  unfold runVaultWriteCommand
  split
  · exact keeps_runVaultWrite hd
  · exact .refl s

theorem keeps_runGetOption (hd : s.sequencer.dispatched = some d) : Keeps o s (runGetOption d s) := by
  unfold runGetOption
  split
  · exact keeps_complete hd
  · exact .refl s

theorem keeps_runSetTime (hd : s.sequencer.dispatched = some d) : Keeps o s (runSetTime d s) := by
  unfold runSetTime
  split
  · exact .after keeps_complete (quiet_time fun h => ⟨h.1, Nat.two_pow_pos _⟩) hd
  · exact .refl s

theorem keeps_runSetAlarm (hd : s.sequencer.dispatched = some d) : Keeps o s (runSetAlarm d s) := by
  unfold runSetAlarm
  split
  · split
    · exact .after keeps_complete (quiet_time id) hd
    · exact .after keeps_complete (quiet_time id) hd
  · exact .refl s

theorem keeps_runOf (hd : s.sequencer.dispatched = some d) (hp : paramsInRange d.cmd = true) (c : Cmd) :
    Keeps o s (runOf c d s) := by
  cases c with
  | defineStream => exact keeps_runDefine hd
  | deleteStream => exact keeps_runDelete hd
  | trimStream => exact keeps_runTrim hd
  | append => exact keeps_runAppend hd
  | commit => exact keeps_runCommitCommand hd
  | cancel => exact keeps_runCancel hd
  | sync => exact keeps_runSync hd
  | seek => exact keeps_runSeekCommand hd
  | lockAll | unlockRange | freezeLocks => exact keeps_runLock hd
  | arm => exact keeps_runArm hd
  | sealStream => exact keeps_runSeal hd
  | format => exact keeps_runFormat hd
  | vaultWrite => exact keeps_runVaultWriteCommand hd
  | vaultClose => exact keeps_runVaultClose hd
  | getOption => exact keeps_runGetOption hd
  | setOption => exact keeps_runSetOption hd hp
  | setTime => exact keeps_runSetTime hd
  | getTime => exact (keeps_complete hd : Keeps o s (runGetTime d s))
  | setAlarm => exact keeps_runSetAlarm hd
  | doze => exact keeps_drainBarrier hd
  | halt => exact keeps_syncBarrier hd
  | queryStream | readRecord | readNext | segmentStatus | vaultRead | describe | identify | readNotices =>
    exact keeps_awaitBuffer hd

theorem keeps_afterRoom (hd : s.sequencer.dispatched = some d) : Keeps o s (afterRoom d s) := by
  unfold afterRoom
  split
  · exact keeps_runCommit hd
  · exact keeps_runSync hd
  · exact keeps_runVaultWrite hd
  · exact keeps_syncBarrier hd

end Sys2Proof.Machine

/-!
PROOFS. The dispatch of a frame and the internal event keep every condition.
-/

namespace Sys2Proof.Machine

open Sys2Proof

variable {o : Bool} {s : State} {d : Dispatched}

/-! ### What is due -/

/-- What an abort does to the DISPATCHED command (R39). -/
def abortCommand (d : Dispatched) (s : State) : State :=
  if waits d.phase then complete d { result := .aborted } s
  else { s with sequencer := { s.sequencer with dispatched := some { d with abortLate := true } } }

theorem abortSteps_parts (s : State) : (abortSteps s).parts =
    (match s.sequencer.dispatched with | none => s | some d => abortCommand d s).parts := by
  unfold abortSteps
  cases hd : s.sequencer.dispatched with
  | none => rfl
  | some d =>
    obtain ⟨id, tag, opcode, cmd, eager, late, phase⟩ := d
    cases phase <;> rfl

theorem keeps_abortCommand (hd : s.sequencer.dispatched = some d) : Keeps o s (abortCommand d s) := by
  unfold abortCommand
  split
  · exact keeps_complete hd
  · refine ⟨id, id, id, id, id, id, fun _ => id, fun e => ?_, id, id, id, id, fun e => ?_⟩
    · unfold SlotsOk at *
      rwa [hd] at e
    · rw [hd] at e
      exact e.same_cmd rfl

theorem keeps_abortSteps (s : State) : Keeps o s (abortSteps s) := by
  refine Keeps.trans ?_ (.of_parts (abortSteps_parts s))
  split
  · exact .refl s
  · exact keeps_abortCommand ‹_›

theorem keeps_endAbort (s : State) : Keeps o s (endAbort s) :=
  .comp (quiet_signalRoom ..) ((keeps_abortSteps s).trans (.of_parts rfl))

theorem keeps_softAbort (s : State) : Keeps o s (softAbort s) := (keeps_abortSteps s).trans (.of_parts rfl)

theorem keeps_goOnPlacing (s : State) : Keeps o s (goOnPlacing s) := by
  unfold goOnPlacing
  split
  · rename_i d n seq rest h
    refine keeps_copyRecord ?_
    unfold placingDue at h
    split at h
    · split at h
      · cases h; assumption
      · cases h
    · cases h
  · exact .refl s

theorem Keeps.ite {p : Prop} [Decidable p] {t u : State} (h : Keeps o s t) (k : Keeps o s u) :
    Keeps o s (if p then t else u) := by split <;> assumption

theorem keeps_due (s : State) : Keeps o s (due s) := by
  unfold due
  dsimp only
  refine .ite (.comp (quiet_takeEntry _) ?_) (.refl s)
  refine Keeps.trans ?_ (keeps_goOnPlacing _)
  refine Keeps.trans ((quiet_softTails s).toKeeps.trans ?_) (.ite (keeps_softAbort _) (.refl _))
  exact .ite (keeps_endAbort _) (.refl _)

/-! ### Dispatch -/

theorem takeHead_parts (x : Option Dispatched) (s : State) :
    (takeHead x s).parts = { s.parts with dispatched := x, queue := (s.sequencer.queue.drop 1).length } := by
  unfold takeHead signalRoom
  split
  · exact raise_parts ..
  · rfl

theorem takeHead_dispatched (x : Option Dispatched) (s : State) : (takeHead x s).sequencer.dispatched = x :=
  congrArg Parts.dispatched (takeHead_parts x s)

/-- R23's conditions in the fields. -/
theorem dispatchReady_slots (h : dispatchReady s = true) : s.sequencer.dispatched = none ∧
    s.sequencer.deferred.length + s.cpl.records.length + s.cpl.fresh.length < 16 := by
  unfold dispatchReady slotFree reservedCount at h
  simp only [Bool.and_eq_true, Option.isNone_iff_eq_none, decide_eq_true_eq] at h
  obtain ⟨⟨⟨⟨-, hn⟩, -⟩, -⟩, hl⟩ := h
  simp [hn] at hl
  exact ⟨hn, by omega⟩

theorem framesOk_drop {a : Assembler} {n m : Nat} (h : FramesOk a n) (k : m ≤ n) : FramesOk a m := by
  unfold FramesOk at *
  omega

/-- A frame is taken into the DISPATCHED place when a slot is free and the lock state allows its command. -/
theorem keeps_takeHead (h : dispatchReady s = true) (hp : paramsInRange d.cmd = true)
    (hl : s.guard.mode = .disabled → lockCommand d.cmd = false) : Keeps o s (takeHead (some d) s) := by
  obtain ⟨hn, hs⟩ := dispatchReady_slots h
  have taken : Keeps o s { s with
      sequencer := { s.sequencer with dispatched := some d, queue := s.sequencer.queue.drop 1 } } := by
    refine ⟨id, id, id, id, id, id, fun _ => id, fun _ => ?_, fun e =>
      framesOk_drop e (by simp), id, id, id, fun e => ?_⟩
    · unfold SlotsOk
      simp only [Option.isSome_some, if_true]
      omega
    · rw [hn] at e
      exact ⟨fun m => ⟨(e.disabled m).1, (e.disabled m).2.1, fun _ hx => by cases hx; exact hl m⟩, e.range,
        fun _ hx => by cases hx; exact hp⟩
  exact taken.trans (.of_parts (takeHead_parts ..))

/-- A frame that posts at its dispatch uses the free slot for its record. -/
theorem keeps_takePosted {t : State} {x : Nat × Completion} (h : dispatchReady s = true)
    (ht : t.parts = { s.parts with
      dispatched := none, queue := (s.sequencer.queue.drop 1).length,
      cpl := { s.cpl with fresh := s.cpl.fresh ++ [x] } }) : Keeps o s t := by
  obtain ⟨hn, hs⟩ := dispatchReady_slots h
  have posted : Keeps o s { s with
      sequencer := { s.sequencer with dispatched := none, queue := s.sequencer.queue.drop 1 }
      cpl := { s.cpl with fresh := s.cpl.fresh ++ [x] } } := by
    refine ⟨id, id, id, id, id, id, fun _ => id, fun _ => ?_, fun e => framesOk_drop e (by simp), id, id, id,
      LocksOk.retired⟩
    unfold SlotsOk
    simp
    omega
  exact posted.trans (.of_parts ht)

theorem keeps_refused {out : Outcome} (h : dispatchReady s = true) :
    Keeps o s (complete d out (takeHead (some d) s)) := by
  obtain ⟨x, hx⟩ := complete_parts d out (takeHead (some d) s)
  rw [show (takeHead (some d) s).cpl = s.cpl from congrArg Parts.cpl (takeHead_parts ..), takeHead_parts] at hx
  exact keeps_takePosted h hx

theorem keeps_badFrame {k : Nat} {c : Completion} (h : dispatchReady s = true) :
    Keeps o s (postRecord k c (takeHead none s)) := by
  have hx := postRecord_parts k c (takeHead none s)
  rw [show (takeHead none s).cpl = s.cpl from congrArg Parts.cpl (takeHead_parts ..), takeHead_parts] at hx
  exact keeps_takePosted h hx

/-- In DISABLED a lock command goes no further than its refusal (R126). -/
theorem runOf_lockCommand {c : Cmd} {t : State} (hc : lockCommand c = true) (hm : t.guard.mode = .disabled) :
    runOf c d t = complete d { result := .lockDisabled } t := by
  have lock : runLock d t = complete d { result := .lockDisabled } t := if_pos hm
  cases c with
  | lockAll | unlockRange | freezeLocks => exact lock
  | _ => cases hc

theorem dispatchFault_params {c : Cmd} (h : dispatchFault s c = none) : paramsInRange c = true := by
  by_contra hp
  rw [Bool.not_eq_true] at hp
  simp only [dispatchFault, hp, Bool.not_false, if_true, ite_eq_right_iff, reduceCtorEq, imp_false] at h
  split_ifs at h

theorem keeps_dispatchHead (h : dispatchReady s = true) : Keeps o s (dispatchHead s) := by
  unfold dispatchHead
  split
  · rename_i f c _
    dsimp only
    split
    · exact keeps_refused h
    · rename_i hf
      have hp : paramsInRange (newDispatched s f c).cmd = true := dispatchFault_params hf
      by_cases hl : s.guard.mode = .disabled ∧ lockCommand c = true
      · have hm : (takeHead (some (newDispatched s f c)) s).guard.mode = .disabled :=
          (congrArg Parts.mode (takeHead_parts ..)).trans hl.1
        rw [runOf_lockCommand hl.2 hm]
        exact keeps_refused h
      · have hlock : s.guard.mode = .disabled → lockCommand (newDispatched s f c).cmd = false :=
          fun hm => Bool.eq_false_iff.mpr fun hc => hl ⟨hm, hc⟩
        exact (keeps_takeHead h hp hlock).trans (keeps_runOf (takeHead_dispatched ..) hp c)
  · split
    · exact keeps_badFrame h
    · exact .refl s

theorem keeps_dispatchNext (n : Nat) (s : State) : Keeps o s (dispatchNext n s) := by
  induction n generalizing s with
  | zero => exact .refl s
  | succ n ih =>
    unfold dispatchNext
    split
    · rename_i h
      exact (keeps_dispatchHead h).trans (.ite (ih _) (.refl _))
    · exact .refl s

theorem keeps_dispatchFrames (s : State) : Keeps o s (dispatchFrames s) := keeps_dispatchNext ..

theorem keeps_close {t : State} (h : Keeps o s t) : Keeps o s (settle (choose t)) := .comp (quiet_close t) h

theorem keeps_ifDeferred {s₀ t : State} (h : Keeps o s t) : Keeps o s (ifDeferred dispatchFrames s₀ t) :=
  h.trans (.ite (keeps_dispatchFrames t) (.refl t))

theorem keeps_dispatch (code : Byte) (s : State) : Keeps o s (dispatch code s) := by
  unfold dispatch
  split
  · exact .refl s
  · exact .ite (keeps_close (keeps_dispatchFrames s)) (.refl s)

/-! ### Internal events and the ends of waits -/

theorem keeps_internalEvent {body : State → State} (hb : ∀ t, Keeps o t (body t)) (s : State) :
    Keeps o s (internalEvent body s) :=
  keeps_close (((keeps_due s).trans (hb _)).trans (.ite (keeps_dispatchFrames _) (.refl _)))

/-- The end of an operation: `ended` acts on the engine and the array, the rest by the state the device is in. -/
theorem keeps_endEvent {ended inFlush act : State → State} (he : ∀ t, Quiet o t (ended t))
    (hf : ∀ t, Quiet o t (inFlush t)) (ha : ∀ t, Keeps o t (act t)) (s : State) :
    Keeps o s (endEvent ended inFlush act s) :=
  .ite ((he s).trans <| (hf _).trans <| (quiet_finishFlush _).trans (quiet_settle _)).toKeeps
    (keeps_internalEvent (fun t => (he t).toKeeps.trans (ha _)) s)

theorem waiting_dispatched (h : waiting s = some d) : s.sequencer.dispatched = some d := by
  unfold waiting at h
  split at h
  · exact h
  · cases h

end Sys2Proof.Machine

/-!
PROOFS. Every row keeps every condition, whatever state it is taken in.
-/

namespace Sys2Proof.Machine

open Sys2Proof

variable {o : Bool} {s : State} {d : Dispatched}

/-! ### The Host Port -/

theorem keeps_beginAccess (s : State) : Keeps o s (beginAccess s) :=
  .ite (keeps_internalEvent (fun t => (quiet_wake t).toKeeps) s) (.ite (.of_parts rfl) (.refl s))

theorem keeps_readAccess {off : BitVec 4} {effect : State → State} (he : ∀ t, Quiet o t (effect t)) (s : State) :
    Keeps o s (readAccess off effect s) := by
  have drives : ∀ b t, Quiet o t (drive b t) := fun _ _ => .of_parts rfl
  exact .ite (.ite (.comp ((drives ..).trans (he _)) (keeps_beginAccess s)) (drives ..).toKeeps) (.refl s)

theorem keeps_writeAccess {mine : BitVec 4 → Bool} {effect : State → State} (he : ∀ t, Quiet o t (effect t))
    (s : State) : Keeps o s (writeAccess mine effect s) :=
  .ite (.comp (he _) (keeps_beginAccess s)) (.refl s)

/-- A frame that was in the assembler joins the queue (R9, R11). -/
theorem quiet_enqueueFrame {f : CmdFrame} (ha : s.host.assembler ≠ .idle) : Quiet o s (enqueueFrame f s) := by
  refine .comp (quiet_signalRoom ..) (quiet_frames (a := .idle) rfl rfl le_rfl fun h => ?_)
  unfold FramesOk at *
  simp only [ha, if_false, if_true, List.length_append, List.length_singleton] at *
  omega

/-- The assembler goes on with a frame already counted, or begins one where there is room. -/
theorem quiet_setAssembler {a : Assembler} (ha : s.host.assembler ≠ .idle ∨ cmdRoom s = true) :
    Quiet o s (setAssembler a s) := by
  refine quiet_frames (a := a) (q := s.sequencer) rfl rfl le_rfl fun h => ?_
  unfold FramesOk at *
  obtain ha | ha := ha
  · rw [if_neg ha] at h
    split <;> omega
  · unfold cmdRoom at ha
    simp only [Bool.and_eq_true, decide_eq_true_eq] at ha
    split <;> omega

theorem quiet_headerComplete {opcode tag : Byte} {n : Nat} (ha : s.host.assembler ≠ .idle) :
    Quiet o s (headerComplete opcode tag n s) := by
  unfold headerComplete
  exact .ite (quiet_enqueueFrame ha) (.ite (quiet_setAssembler (.inl ha)) (quiet_setAssembler (.inl ha)))

theorem quiet_takeByte (b : Byte) (s : State) : Quiet o s (takeByte b s) := by
  unfold takeByte
  split
  · split
    · exact quiet_setAssembler (.inr ‹_›)
    · exact quiet_hostError ..
  · rename_i h
    exact quiet_headerComplete (by rw [h]; nofun)
  · rename_i h
    exact quiet_setAssembler (.inl (by rw [h]; nofun))
  · rename_i h
    have ha : s.host.assembler ≠ .idle := by rw [h]; nofun
    exact .ite (quiet_setAssembler (.inl ha)) (quiet_enqueueFrame ha)
  · rename_i h
    have ha : s.host.assembler ≠ .idle := by rw [h]; nofun
    exact .ite (quiet_setAssembler (.inl ha)) (quiet_enqueueFrame ha)

theorem quiet_takeResponseByte (s : State) : Quiet o s (takeResponseByte s) :=
  .ite (quiet_hostError ..) (.ite (.of_parts rfl) (.of_parts rfl))

/-- A byte of the head record, or its pop (R12). -/
theorem quiet_takeCompletionByte (s : State) : Quiet o s (takeCompletionByte s) := by
  unfold takeCompletionByte
  split
  · exact quiet_hostError ..
  · rename_i r rest h
    split
    · exact quiet_cpl le_rfl fun _ => ⟨by dsimp only; omega, fun e => absurd (h.symm.trans e) nofun⟩
    · exact quiet_cpl (by rw [h]; simp only [List.length_cons]; omega) fun _ => ⟨Nat.zero_le _, fun _ => rfl⟩

theorem quiet_flushFrames (s : State) : Quiet o s (flushFrames s) :=
  quiet_frames (a := .idle) rfl rfl le_rfl fun _ => Nat.zero_le _

theorem quiet_beginAbort (s : State) : Quiet o s (beginAbort s) :=
  .ite (.refl s) (.trans (quiet_flushFrames s) (.of_parts rfl))

theorem quiet_beginSoftReset (s : State) : Quiet o s (beginSoftReset s) :=
  .trans (quiet_flushFrames s) (.of_parts rfl)

theorem quiet_rewindCompletion (s : State) : Quiet o s (rewindCompletion s) :=
  quiet_cpl le_rfl fun _ => ⟨Nat.zero_le _, fun _ => rfl⟩

theorem quiet_hctlWrite (b : Byte) (i : Bool) (s : State) : Quiet o s (hctlWrite b i s) := by
  refine .ite (.ite (.refl s) (quiet_beginSoftReset s)) ?_
  have discard : ∀ t, Quiet o t (discardResponse t) := fun _ => .of_parts rfl
  have h : Quiet o s (if b.getLsbD 0 then beginAbort s else s) := .ite (quiet_beginAbort s) (.refl s)
  have k := h.trans (.ite (p := b.getLsbD 2) (discard _) (.refl _))
  exact k.trans (.ite (quiet_rewindCompletion _) (.refl _))

theorem keeps_hctlAccess (b : Byte) (s : State) : Keeps o s (hctlAccess b s) :=
  keeps_writeAccess (fun t => quiet_hctlWrite b (ignoresSrst s) t) s

theorem quiet_readEffect (a : BitVec 4) (s : State) : Quiet o s (readEffect a s) := by
  unfold readEffect
  split_ifs
  · exact quiet_hostError ..
  · exact quiet_takeResponseByte s
  · exact quiet_takeCompletionByte s
  · exact .of_parts rfl
  · exact .of_parts rfl
  · exact .of_parts rfl
  · exact .refl s

theorem quiet_writeEffect (a : BitVec 4) (b : Byte) (i : Bool) (s : State) : Quiet o s (writeEffect a b i s) := by
  unfold writeEffect
  split_ifs
  · exact quiet_takeByte b s
  · exact quiet_hctlWrite b i s
  · exact .of_parts rfl
  · exact .of_parts rfl
  · exact quiet_hostError ..

theorem keeps_anyAccess (w : Option Byte) (s : State) : Keeps o s (anyAccess w s) := by
  cases w with
  | none => exact keeps_readAccess (quiet_readEffect _) s
  | some b => exact keeps_writeAccess (mine := fun _ => true) (quiet_writeEffect s.host.latch b (ignoresSrst s)) s

/-! ### Time -/

/-- A pulse that does not complete the prescaler leaves its count below the limit (R141). -/
theorem timeOk_pulseTime (p : Pulse) (s : State) (h : TimeOk s.options s.time) : TimeOk s.options (pulseTime p s) := by
  refine ⟨h.1, ?_⟩
  have hp := h.2
  unfold pulseTime
  split
  · exact Nat.two_pow_pos _
  split
  · rename_i hi hc
    have : ¬ 2 ^ s.options.tickDivider ≤ s.time.prescaler + 1 := by
      simpa only [increments, hc, completesPrescaler, Bool.true_and, decide_eq_true_eq] using hi
    dsimp only
    omega
  · exact hp

theorem quiet_pulseEvents (p : Pulse) (s₀ s : State) : Quiet o s (pulseEvents p s₀ s) :=
  .comp (.ite (quiet_raise ..) (.refl _)) (.ite (p := wraps p s₀) (quiet_raise ..) (.refl s))

theorem quiet_pulseBody (p : Pulse) (s : State) : Quiet o s (pulseBody p s) :=
  .comp (quiet_pulseEvents ..) (quiet_time (timeOk_pulseTime p s))

theorem keeps_sourcePulse (p : Pulse) (s : State) : Keeps o s (sourcePulse p s) := by
  have h : Keeps o s (due (pulseBody p s)) := (quiet_pulseBody p s).toKeeps.trans (keeps_due _)
  have k := h.trans (.ite (p := s.power.state = .doze ∧ pulseWakes p s = true) (quiet_wake _).toKeeps (.refl _))
  exact keeps_close (keeps_ifDeferred (.comp (quiet_pulseEvents ..) k))

theorem quiet_withPulse (p : Option Pulse) (s : State) : Quiet o s (withPulse p s) := by
  cases p with
  | none => exact .refl s
  | some p => exact quiet_pulseBody p s

theorem quiet_withPulseEvents (p : Option Pulse) (s₀ s : State) : Quiet o s (withPulseEvents p s₀ s) := by
  cases p with
  | none => exact .refl s
  | some p => exact quiet_pulseEvents p s₀ s

/-! ### Power states and GUARD_N -/

theorem keeps_endSoftReset (s : State) : Keeps o s (endSoftReset s) := by
  refine ⟨id, id, id, id, id, id, fun _ => id, fun h => ?_, fun _ => Nat.zero_le _,
    fun _ => ⟨Nat.zero_le _, fun _ => rfl⟩, id, id, id⟩
  unfold SlotsOk endSoftReset CompletionQueue.empty at *
  simp only [List.length_nil]
  omega

theorem quiet_guardFall (s : State) :
    Quiet o s { s with guard := { s.guard with level := false, range := fallRange s } } := by
  have hr : ∀ r, fallRange s = some r → s.guard.range = some r := by
    intro r h
    obtain k | k : fallRange s = none ∨ fallRange s = s.guard.range := ite_eq_or_eq ..
    · exact of_none_eq_some (k.symm.trans h)
    · exact k.symm.trans h
  refine quiet_guard fun h => ⟨fun m => ⟨?_, (h.disabled m).2⟩, fun r e => h.range r (hr r e), h.params⟩
  rw [Option.eq_none_iff_forall_ne_some]
  intro r e
  exact of_none_eq_some ((h.disabled m).1.symm.trans (hr r e))

theorem keeps_haltWake (s : State) : Keeps o s (wake { s with time := { s.time with running := true } }) :=
  have h : Quiet o s { s with time := { s.time with running := true } } := quiet_time id
  (h.trans (quiet_wake _)).toKeeps

theorem keeps_dozeWake (source : WakeSource) (s : State) : ∃ t, execDozeWake source s = .next t ∧ Keeps o s t := by
  refine ⟨_, rfl, ?_⟩
  cases source with
  | wakeN => exact .ite (keeps_internalEvent (fun t => (quiet_wake t).toKeeps) s) (.refl s)
  | access w => exact .ite (keeps_anyAccess w s) (.refl s)
  | pulse p => exact .ite (keeps_sourcePulse p s) (.refl s)

/-! ### Power failure and resets -/

theorem keeps_enterFlush (s : State) : Keeps o s (enterFlush s) where
  medium := id
  map := id
  request _ _ := of_none_eq_some
  ledger h _ e := e.elim of_none_eq_some (fun e => h _ (.inr e))
  count h := ⟨h.1, fun _ => of_none_eq_some⟩
  built _ h := absurd rfl h
  handed _ _ h := absurd rfl h
  slots h := by
    unfold SlotsOk enterFlush at *
    simp only [Option.isSome_none, Bool.false_eq_true, if_false]
    omega
  frames := id
  index := id
  notices := id
  time := id
  locks := LocksOk.retired

theorem keeps_pfailFall (s : State) : Keeps o s (pfailFall s) := by
  unfold pfailFall
  split
  · exact (quiet_enterDead s).toKeeps
  · exact .refl s
  · exact .refl s
  · exact (keeps_enterFlush s).trans (.ite (quiet_finishFlush _).toKeeps (.refl _))

theorem optionsOk_defaults : OptionsOk Options.defaults := by constructor <;> decide

theorem locksOk_resetGuard {kind : ResetKind} {locken : Bool} {g : GuardUnit} {x : Option Dispatched}
    (h : LocksOk g.mode g.range g.frozen x) :
    LocksOk (resetGuard kind locken g).mode (resetGuard kind locken g).range (resetGuard kind locken g).frozen none
      := by
  have kept : LocksOk g.mode (if g.frozen then g.range else none) g.frozen none := by
    refine ⟨fun m => ⟨?_, (h.disabled m).2.1, fun _ => of_none_eq_some⟩, fun r e => ?_, fun _ => of_none_eq_some⟩
    · rw [(h.disabled m).2.1]
      rfl
    · split at e
      · exact h.range r e
      · cases e
  cases kind with
  | por => exact ⟨fun _ => ⟨rfl, rfl, fun _ => of_none_eq_some⟩, fun _ => of_none_eq_some, fun _ => of_none_eq_some⟩
  | pin | pfail => exact kept

theorem keeps_startReset (kind : ResetKind) (locken : Bool) (cut : Cut) (s : State) :
    Keeps o s (startReset kind locken cut s) := by
  refine Keeps.onQuiet ?_ (quiet_cutOperation cut s)
  exact
    { medium := id
      map := fun _ => rfl
      request := fun _ _ => of_none_eq_some
      ledger := fun _ _ e => e.elim of_none_eq_some of_none_eq_some
      count := fun _ => ⟨Nat.zero_le _, fun _ => of_none_eq_some⟩
      built := fun _ h => absurd rfl h
      handed := fun _ _ h => absurd rfl h
      slots := fun _ => Nat.zero_le _
      frames := fun _ => Nat.zero_le _
      index := fun _ => ⟨Nat.zero_le _, fun _ => rfl⟩
      notices := fun _ => ⟨Nat.zero_le _, Nat.zero_le _⟩
      time := fun _ => ⟨optionsOk_defaults, by cases kind <;> exact Nat.two_pow_pos _⟩
      locks := locksOk_resetGuard }

theorem scanOk_first : ScanOk Mount.first := by constructor <;> decide

theorem quiet_startMount (g : Bool) (s : State) : Quiet o s (startMount g s) := by
  have h : Quiet o s { s with
      power := { s.power with state := .mounting, reset := none, mount := some Mount.first } } :=
    quiet_power fun _ m e => by cases e; exact scanOk_first
  have k := h.trans (quiet_engine
    (e := { s.engine with op := some { who := .mount, op := .read 0 0 0 512 } })
    (fun _ => .inl) (fun _ e => .inr (.inr (by cases e; exact nofun))))
  exact k.trans (.of_parts rfl)

theorem quiet_endReset (p g : Bool) (s : State) : Quiet o s (endReset p g s) := by
  have h : Quiet o s { s with pins := { s.pins with pfailN := p } } := .of_parts rfl
  exact .ite (h.trans (quiet_startMount g _)) (h.trans (.of_parts rfl))

/-! ### Mount -/

theorem scanLedger_used (f : FrameRead) (m : Mount) :
    (scanLedger f m).ledgerUsed = m.ledgerUsed ∨ (scanLedger f m).ledgerUsed = m.frame + 1 := by
  unfold scanLedger
  dsimp only
  split
  · right
    split <;> rfl
  · exact .inl rfl

theorem scanLedger_frame (f : FrameRead) (m : Mount) : (scanLedger f m).frame = m.frame := by
  unfold scanLedger
  dsimp only
  split
  · split <;> rfl
  · rfl

theorem scanCatalogue_scan (f : FrameRead) (m : Mount) :
    (scanCatalogue f m).frame = m.frame ∧ (scanCatalogue f m).ledgerUsed = m.ledgerUsed := by
  unfold scanCatalogue
  dsimp only
  split <;> exact ⟨rfl, rfl⟩

theorem scanVault_scan (f : FrameRead) (m : Mount) :
    (scanVault f m).frame = m.frame ∧ (scanVault f m).ledgerUsed = m.ledgerUsed := by
  unfold scanVault
  split <;> exact ⟨rfl, rfl⟩

theorem noteIncarnation_scan (f : FrameRead) (m : Mount) :
    (noteIncarnation f m).frame = m.frame ∧ (noteIncarnation f m).ledgerUsed = m.ledgerUsed := by
  unfold noteIncarnation
  split
  · split <;> exact ⟨rfl, rfl⟩
  · exact ⟨rfl, rfl⟩

theorem classify_scan (f : FrameRead) (m : Mount) :
    (classify f m).frame = m.frame ∧ (classify f m).ledgerUsed = m.ledgerUsed := by
  unfold classify
  dsimp only
  split
  · exact ⟨rfl, rfl⟩
  split
  · split <;> exact ⟨rfl, rfl⟩
  split
  · exact ⟨rfl, rfl⟩
  split
  · split <;> exact ⟨rfl, rfl⟩
  · exact ⟨rfl, rfl⟩

theorem ScanOk.of_eq {m m' : Mount} (h : ScanOk m) (k : m'.frame = m.frame ∧ m'.ledgerUsed = m.ledgerUsed) :
    ScanOk m' := ⟨k.1 ▸ h.1, k.2 ▸ h.2⟩

theorem scanOk_scanLedger {f : FrameRead} {m : Mount} (h : ScanOk m) : ScanOk (scanLedger f m) := by
  refine ⟨scanLedger_frame f m ▸ h.1, ?_⟩
  obtain k | k := scanLedger_used f m <;> rw [k]
  · exact h.2
  · exact Nat.succ_le_succ h.1

theorem ScanOk.at {m m' : Mount} (h : ScanOk m) (hf : m'.frame ≤ 31) (hu : m'.ledgerUsed = m.ledgerUsed) : ScanOk m' :=
  ⟨hf, hu ▸ h.2⟩

theorem scanOk_nextChainRead {m n : Mount} (h : ScanOk m) (e : nextChainRead m = some n) : ScanOk n := by
  unfold nextChainRead at e
  split at e
  · cases e
  · cases e
    exact h.at (by decide : 1 ≤ 31) rfl

theorem scanOk_scan {f : FrameRead} {m n : Mount} (h : ScanOk m) (e : scan f m = some n) : ScanOk n := by
  unfold scan at e
  split at e
  · have k := h.of_eq (scanCatalogue_scan f m)
    dsimp only at e
    split_ifs at e <;> cases e
    · exact k.at (by dsimp only; omega) rfl
    · exact k.at (Nat.zero_le _) rfl
    · exact k.at (Nat.zero_le _) rfl
  · have k := scanOk_scanLedger (f := f) h
    dsimp only at e
    split_ifs at e <;> cases e
    · exact k.at (by dsimp only; omega) rfl
    · exact k.at (Nat.zero_le _) rfl
  · have k := h.of_eq (scanVault_scan f m)
    dsimp only at e
    split_ifs at e <;> cases e
    · exact k.at (by dsimp only; omega) rfl
    · exact k.at (Nat.zero_le _) rfl
  · have k := (h.of_eq (noteIncarnation_scan f m)).of_eq (classify_scan f (noteIncarnation f m))
    dsimp only at e
    split_ifs at e
    · cases e
      exact k.at k.1 rfl
    · refine scanOk_nextChainRead ?_ e
      exact k.at k.1 rfl
  · have k := ScanOk.of_eq (m := { m with frames := f :: m.frames }) h (noteIncarnation_scan f _)
    dsimp only at e
    split_ifs at e
    · cases e
      exact k.at (by dsimp only; omega) rfl
    · split at e
      · cases e
      · refine scanOk_nextChainRead ?_ e
        exact k.at k.1 rfl

theorem scanned_used (f : FrameRead) (m : Mount) : (scanned f m).ledgerUsed = m.ledgerUsed := by
  unfold scanned
  split
  · exact (classify_scan f _).2.trans (noteIncarnation_scan f m).2
  · dsimp only
    split <;> exact (noteIncarnation_scan f _).2
  · rfl

theorem mapOk_buildMap (es : List (Nat × SegEntry)) : MapOk (buildMap es) := by
  have built : ∀ m, MapOk m → MapOk (es.foldl (fun map e => storePut (fun _ => SegEntry.free) e.1 e.2 map) m) := by
    induction es with
    | nil => exact fun _ => id
    | cons e es ih => exact fun m h => ih _ (storeWf_storePut h (Nat.zero_le _))
  exact built [] rfl

theorem quiet_mountNotices (m : Mount) (s : State) : Quiet o s (mountNotices m s) := by
  unfold mountNotices
  dsimp only
  cases m.badLowest with
  | none => exact .ite (.comp (quiet_addNoticeAt ..) (quiet_addNotice ..)) (quiet_addNotice ..)
  | some k =>
    exact .ite (.comp (quiet_addNoticeAt ..) (.comp (quiet_addNoticeAt ..) (quiet_addNotice ..)))
      (.comp (quiet_addNoticeAt ..) (quiet_addNotice ..))

theorem mountedCatalogue_idle (m : Mount) : (mountedCatalogue m).queue = [] ∧ (mountedCatalogue m).work = none := by
  unfold mountedCatalogue
  split <;> exact ⟨rfl, rfl⟩

theorem quiet_rebuilt {m : Mount} (h : CountOk s.vault.used s.power.mount → m.ledgerUsed ≤ 32) :
    Quiet o s (rebuilt m s) := by
  obtain ⟨hq, hw⟩ := mountedCatalogue_idle m
  have a : Quiet o s { s with
      segments := { map := buildMap (mountedSegments m), pool := buildPool (mountedSegments m) } } :=
    quiet_map fun _ => mapOk_buildMap _
  have b := a.trans (quiet_catalogue (c := mountedCatalogue m) (fun _ => by rw [hw]; exact absurd rfl)
    (fun _ _ => by rw [hq]; exact absurd rfl))
  have c := b.trans (quiet_vault (v := SealVault.mk m.ledgerUsed m.sealedSet m.written [] m.vaultClosed) h)
  exact c.trans (.of_parts rfl)

theorem quiet_endMount {m : Mount} (h : CountOk s.vault.used s.power.mount → m.ledgerUsed ≤ 32) :
    Quiet o s (endMount m s) := by
  have a : Quiet o s (mountNotices m (rebuilt m s)) := .comp (quiet_mountNotices ..) (quiet_rebuilt h)
  unfold endMount
  dsimp only
  exact .comp (quiet_power fun _ _ => of_none_eq_some) (.ite (.comp (quiet_raise ..) a) a)

theorem quiet_mountStep (f : FrameRead) (s : State) : Quiet o s (mountStep f s) := by
  unfold mountStep
  split
  · exact .refl s
  · rename_i m hm
    split
    · rename_i next hn
      have a : Quiet o s { s with power := { s.power with mount := some next } } :=
        quiet_power fun h m' e => by cases e; exact scanOk_scan (h.2 m hm) hn
      exact a.trans (quiet_engine
        (e := { s.engine with op := some { who := .mount, op := .read next.segment next.frame 0 512 } })
        (fun _ => .inl) (fun _ e => .inr (.inr (by cases e; exact nofun))))
    · exact quiet_endMount fun h => by rw [scanned_used]; exact (h.2 m hm).2

end Sys2Proof.Machine

/-!
PROOFS. The ends of operations, every row, and the invariants of a step.
-/

namespace Sys2Proof.Machine

open Sys2Proof

variable {o : Bool} {s : State} {d : Dispatched}

/-! ### The ends of operations -/

theorem allocating_dispatched {g n generation : Nat} {attr : Byte}
    (h : allocating g s = some (d, n, attr, generation)) : s.sequencer.dispatched = some d := by
  unfold allocating at h
  split at h
  · cases h
  · split at h
    · split at h
      · cases h
        assumption
      · cases h
    · cases h

theorem keeps_backgroundPassed (g : Nat) (s : State) : Keeps o s (backgroundPassed g s) := by
  unfold backgroundPassed
  split
  · have h : allocating g s = some _ := ‹_›
    exact .after keeps_allocationErased (quiet_dropRequest s) (allocating_dispatched h)
  · exact (quiet_beginCopy ..).toKeeps
  · exact (quiet_updSeg ..).toKeeps

theorem keeps_backgroundFailed (g : Nat) (s : State) : Keeps o s (backgroundFailed g s) := by
  unfold backgroundFailed
  split
  · have h : allocating g s = some _ := ‹_›
    exact .after keeps_allocationErased (quiet_dropRequest s) (allocating_dispatched h)
  · exact (Quiet.comp (quiet_takeTarget ..) (quiet_retireErased ..)).toKeeps
  · exact (quiet_retireErased ..).toKeeps

theorem quiet_unchanged (s : State) : Quiet o s (unchanged s) := .refl s

theorem keeps_programJobEnd (r : ProgramResult) (s : State) : ∃ t, execProgramJobEnd r s = .next t ∧ Keeps o s t := by
  refine ⟨_, rfl, ?_⟩
  split
  · exact keeps_endEvent (quiet_programEnded _ r) (quiet_jobEndedInFlush r) (fun t => (quiet_jobEnded r t).toKeeps) s
  · exact .refl s

theorem keeps_relocationEraseEnd (r : EraseResult) (s : State) :
    ∃ t, execRelocationEraseEnd r s = .next t ∧ Keeps o s t := by
  refine ⟨_, rfl, ?_⟩
  split
  · refine keeps_endEvent (quiet_eraseEnded _ r) quiet_unchanged (fun t => ?_) s
    split
    · exact .ite (quiet_targetEraseFailed ..).toKeeps (quiet_beginCopy ..).toKeeps
    · exact .refl t
  · exact .refl s

theorem keeps_relocationReadEnd (noise : ReadNoise) (s : State) :
    ∃ t, execRelocationReadEnd noise s = .next t ∧ Keeps o s t := by
  refine ⟨_, rfl, ?_⟩
  split
  · refine keeps_endEvent quiet_engineIdle quiet_unchanged (fun t => ?_) s
    split
    · exact (quiet_copyAfterRead ..).toKeeps
    · exact .refl t
  · exact .refl s

theorem keeps_relocationCopyEnd (r : ProgramResult) (s : State) :
    ∃ t, execRelocationCopyEnd r s = .next t ∧ Keeps o s t := by
  refine ⟨_, rfl, ?_⟩
  split
  · refine keeps_endEvent (quiet_programEnded _ r) quiet_unchanged (fun t => ?_) s
    split
    · exact .ite (quiet_abandonTarget ..).toKeeps (quiet_copyPassed ..).toKeeps
    · exact .refl t
  · exact .refl s

theorem keeps_allocationEraseEnd (r : EraseResult) (s : State) :
    ∃ t, execAllocationEraseEnd r s = .next t ∧ Keeps o s t := by
  refine ⟨_, rfl, ?_⟩
  split
  · refine keeps_endEvent (quiet_eraseEnded _ r) quiet_unchanged (fun t => ?_) s
    split
    · exact keeps_allocationErased (allocating_dispatched ‹_›)
    · exact .refl t
  · exact .refl s

theorem keeps_backgroundEraseEnd (r : EraseResult) (s : State) :
    ∃ t, execBackgroundEraseEnd r s = .next t ∧ Keeps o s t := by
  refine ⟨_, rfl, ?_⟩
  split
  · refine keeps_endEvent (quiet_eraseEnded _ r) quiet_unchanged (fun t => ?_) s
    split
    · exact keeps_backgroundFailed ..
    · exact keeps_backgroundPassed ..
  · exact .refl s

theorem keeps_catalogueEraseEnd (r : EraseResult) (s : State) :
    ∃ t, execCatalogueEraseEnd r s = .next t ∧ Keeps o s t := by
  refine ⟨_, rfl, ?_⟩
  split
  · refine keeps_endEvent (quiet_eraseEnded _ r) quiet_unchanged (fun t => ?_) s
    split
    · rename_i w h
      exact keeps_catalogueErased (by rw [h]; exact Option.some_ne_none _)
    · exact .refl t
  · exact .refl s

theorem keeps_catalogueProgramEnd (r : ProgramResult) (s : State) :
    ∃ t, execCatalogueProgramEnd r s = .next t ∧ Keeps o s t := by
  refine ⟨_, rfl, ?_⟩
  split
  · refine keeps_endEvent (quiet_programEnded _ r) quiet_unchanged (fun t => ?_) s
    split
    · rename_i w h
      exact keeps_catalogueProgrammed (by rw [h]; exact Option.some_ne_none _)
    · exact .refl t
  · exact .refl s

theorem keeps_ledgerProgramEnd (r : ProgramResult) (s : State) :
    ∃ t, execLedgerProgramEnd r s = .next t ∧ Keeps o s t := by
  refine ⟨_, rfl, ?_⟩
  split
  · exact keeps_endEvent (quiet_programEnded _ r) quiet_unchanged (keeps_ledgerProgrammed r.failed) s
  · exact .refl s

theorem keeps_arrayReadEnd (noise : ReadNoise) (s : State) :
    ∃ t, execArrayReadEnd noise s = .next t ∧ Keeps o s t := by
  refine ⟨_, rfl, ?_⟩
  split
  · exact keeps_endEvent quiet_engineIdle quiet_unchanged (keeps_sequencerRead _ _ _ _ noise) s
  · exact .refl s

theorem keeps_mountReadEnd (noise : ReadNoise) (s : State) :
    ∃ t, execMountReadEnd noise s = .next t ∧ Keeps o s t := by
  refine ⟨_, rfl, ?_⟩
  split
  · exact keeps_endEvent quiet_engineIdle quiet_unchanged (fun t => (quiet_mountStep _ t).toKeeps) s
  · exact .refl s

theorem keeps_holdupProgramEnd (r : ProgramResult) (s : State) :
    ∃ t, execHoldupProgramEnd r s = .next t ∧ Keeps o s t := by
  refine ⟨_, rfl, ?_⟩
  split
  · exact (Quiet.comp (quiet_enterDead _) (quiet_programEnded _ r s)).toKeeps
  · exact .refl s

/-! ### The other rows of the Sequencer, of power and of resets -/

theorem keeps_badFrameRow (s : State) : ∃ t, execBadFrame s = .next t ∧ Keeps o s t := by
  refine ⟨_, rfl, ?_⟩
  split
  · exact .refl s
  · exact .ite (keeps_close (keeps_dispatchFrames s)) (.refl s)

theorem keeps_responseBufferWaitEnd (s : State) :
    ∃ t, execResponseBufferWaitEnd s = .next t ∧ Keeps o s t := by
  refine ⟨_, rfl, ?_⟩
  split
  · exact .refl s
  · rename_i h
    exact .ite (keeps_close (keeps_runResponding (waiting_dispatched h))) (.refl s)

theorem keeps_roomWaitEnd (s : State) : ∃ t, execProgramQueueRoomWaitEnd s = .next t ∧ Keeps o s t := by
  refine ⟨_, rfl, ?_⟩
  split
  · exact .refl s
  · rename_i h
    split
    · exact .ite (keeps_close (keeps_ifDeferred (keeps_afterRoom (waiting_dispatched h)))) (.refl s)
    · exact .refl s

theorem keeps_barrierEnd (s : State) : ∃ t, execBarrierEnd s = .next t ∧ Keeps o s t := by
  refine ⟨_, rfl, ?_⟩
  split
  · exact .refl s
  · rename_i h
    exact .ite (keeps_close (keeps_afterBarrier (waiting_dispatched h))) (.refl s)

theorem keeps_softResetEnd (p : Option Pulse) (s : State) :
    ∃ t, execSoftResetEnd p s = .next t ∧ Keeps o s t :=
  ⟨_, rfl, .ite (keeps_close (.comp (quiet_withPulseEvents ..)
    ((quiet_withPulse p s).toKeeps.trans (keeps_endSoftReset _)))) (.refl s)⟩

theorem keeps_haltEntry (p : Option Pulse) (s : State) : ∃ t, execHaltEntry p s = .next t ∧ Keeps o s t :=
  ⟨_, rfl, .ite (keeps_close (.comp (quiet_withPulseEvents ..)
    ((quiet_withPulse p s).toKeeps.trans (keeps_due _)))) (.refl s)⟩

theorem keeps_powerFailSequence (s : State) : ∃ t, execPowerFailSequence s = .next t ∧ Keeps o s t := by
  have low : Keeps o s { s with pins := { s.pins with pfailN := false } } := .of_parts rfl
  exact ⟨_, rfl, .ite (.ite low (low.trans (keeps_pfailFall _))) (.refl s)⟩

theorem keeps_powerOnReset (locken rstN pfailN guardN : Bool) (cut : Cut) (s : State) :
    ∃ t, execPowerOnReset locken rstN pfailN guardN cut s = .next t ∧ Keeps o s t := by
  have h : Keeps o s { startReset .por locken cut s with
      pins := { rstN := rstN, pfailN := pfailN, supply := true } } :=
    (keeps_startReset .por locken cut s).trans (.of_parts rfl)
  exact ⟨_, rfl, .ite (.comp (quiet_endReset ..) h) h⟩

theorem keeps_supplyLoss (cut : Cut) (s : State) : ∃ t, execSupplyLoss cut s = .next t ∧ Keeps o s t :=
  ⟨_, rfl, .ite ((quiet_cutOperation cut s).toKeeps.trans (.of_parts rfl)) (.refl s)⟩

theorem keeps_pinReset (cut : Cut) (s : State) : ∃ t, execPinReset cut s = .next t ∧ Keeps o s t :=
  ⟨_, rfl, .ite ((keeps_startReset .pin false cut s).trans (.of_parts rfl)) (.refl s)⟩

theorem keeps_pinResetEnd (pfailN guardN : Bool) (s : State) :
    ∃ t, execPinResetEnd pfailN guardN s = .next t ∧ Keeps o s t := by
  have high : Keeps o s { s with pins := { s.pins with rstN := true } } := .of_parts rfl
  exact ⟨_, rfl, .ite (.comp (quiet_endReset ..) high) (.refl s)⟩

theorem keeps_pfailRecoveryReset (s : State) : ∃ t, execPfailRecoveryReset s = .next t ∧ Keeps o s t :=
  ⟨_, rfl, .ite ((keeps_startReset .pfail false .nothingVisible s).trans (.of_parts rfl)) (.refl s)⟩

theorem keeps_pfailRecoveryResetEnd (pfailN guardN : Bool) (s : State) :
    ∃ t, execPfailRecoveryResetEnd pfailN guardN s = .next t ∧ Keeps o s t :=
  ⟨_, rfl, .ite (quiet_endReset ..).toKeeps (.refl s)⟩

theorem keeps_guardRise (s : State) :
    Keeps o s { s with guard := { s.guard with level := true, episode := false } } := .of_parts rfl

/-- An internal event with no body of its own. -/
theorem keeps_eventRow {p : Prop} [Decidable p] : Keeps o s (if p then internalEvent id s else s) :=
  .ite (keeps_internalEvent .refl s) (.refl s)

/-- Every row keeps every condition. -/
theorem keeps_exec (i : Instr) (s : State) : ∃ t, exec i s = .next t ∧ Keeps o s t := by
  cases i with
  | offsetLatch => exact ⟨_, rfl, .ite (.of_parts rfl) (.refl s)⟩
  | cmdinWrite b => exact ⟨_, rfl, keeps_writeAccess (quiet_takeByte b) s⟩
  | cmdinRead => exact ⟨_, rfl, keeps_readAccess (quiet_hostError 5) s⟩
  | rspoutRead => exact ⟨_, rfl, keeps_readAccess quiet_takeResponseByte s⟩
  | cploutRead => exact ⟨_, rfl, keeps_readAccess quiet_takeCompletionByte s⟩
  | rsplenLowRead => exact ⟨_, rfl, keeps_readAccess (effect := captureLength) (fun _ => .of_parts rfl) s⟩
  | herrRead => exact ⟨_, rfl, keeps_readAccess (effect := clearHerr) (fun _ => .of_parts rfl) s⟩
  | flushcntRead => exact ⟨_, rfl, keeps_readAccess (effect := clearFlushCnt) (fun _ => .of_parts rfl) s⟩
  | evpendWrite b => exact ⟨_, rfl, keeps_writeAccess (effect := clearEvents b) (fun _ => .of_parts rfl) s⟩
  | evmaskWrite b => exact ⟨_, rfl, keeps_writeAccess (effect := setMask b) (fun _ => .of_parts rfl) s⟩
  | ignoredWrite b => exact ⟨_, rfl, keeps_writeAccess (quiet_hostError 4) s⟩
  | abort b | softReset b | rspDiscard b | cplRewind b => exact ⟨_, rfl, .ite (keeps_hctlAccess b s) (.refl s)⟩
  | abortSequencerSteps | softResetAbortSteps | softResetTailSync | dozeEntry => exact ⟨_, rfl, keeps_eventRow⟩
  | softResetEnd p => exact keeps_softResetEnd p s
  | badFrame => exact keeps_badFrameRow s
  | commit => exact ⟨_, rfl, .ite (keeps_internalEvent .refl s) (keeps_dispatch _ s)⟩
  | defineStream | deleteStream | queryStream | trimStream | append | cancel | sync | readRecord | seek | readNext
  | lockAll | unlockRange | freezeLocks | segmentStatus | arm | sealStream | format | vaultWrite | vaultRead
  | vaultClose | getOption | setOption | describe | identify | readNotices | setTime | getTime | setAlarm | doze
  | halt => exact ⟨_, rfl, keeps_dispatch _ s⟩
  | responseBufferWaitEnd => exact keeps_responseBufferWaitEnd s
  | programQueueRoomWaitEnd => exact keeps_roomWaitEnd s
  | barrierEnd => exact keeps_barrierEnd s
  | dozeWake source => exact keeps_dozeWake source s
  | haltEntry p => exact keeps_haltEntry p s
  | haltWake => exact ⟨_, rfl, .ite (keeps_internalEvent keeps_haltWake s) (.refl s)⟩
  | guardNFall => exact ⟨_, rfl, .ite (keeps_internalEvent (fun t => (quiet_guardFall t).toKeeps) s) (.refl s)⟩
  | guardNRise => exact ⟨_, rfl, .ite (keeps_internalEvent keeps_guardRise s) (.refl s)⟩
  | programJobEnd r => exact keeps_programJobEnd r s
  | relocationEraseEnd r => exact keeps_relocationEraseEnd r s
  | relocationReadEnd noise => exact keeps_relocationReadEnd noise s
  | relocationCopyEnd r => exact keeps_relocationCopyEnd r s
  | allocationEraseEnd r => exact keeps_allocationEraseEnd r s
  | backgroundEraseEnd r => exact keeps_backgroundEraseEnd r s
  | catalogueEraseEnd r => exact keeps_catalogueEraseEnd r s
  | catalogueProgramEnd r => exact keeps_catalogueProgramEnd r s
  | ledgerProgramEnd r => exact keeps_ledgerProgramEnd r s
  | arrayReadEnd noise => exact keeps_arrayReadEnd noise s
  | sourcePulse p | tickIncrement p | counterWrap p | alarmMatch p =>
    exact ⟨_, rfl, .ite (keeps_sourcePulse p s) (.refl s)⟩
  | powerFailSequence => exact keeps_powerFailSequence s
  | holdupProgramEnd r => exact keeps_holdupProgramEnd r s
  | powerOnReset l r p g c => exact keeps_powerOnReset l r p g c s
  | supplyLoss cut => exact keeps_supplyLoss cut s
  | pinReset cut => exact keeps_pinReset cut s
  | pinResetEnd p g => exact keeps_pinResetEnd p g s
  | pfailRecoveryReset => exact keeps_pfailRecoveryReset s
  | pfailRecoveryResetEnd p g => exact keeps_pfailRecoveryResetEnd p g s
  | mountReadEnd noise => exact keeps_mountReadEnd noise s

/-- Every step keeps every condition. -/
theorem keeps_step {s t : State} (h : step s = .next t) : Keeps false s t := by
  unfold step at h
  split at h
  · cases h
    exact .refl s
  · rename_i c rest _
    obtain ⟨u, hu, hk⟩ := keeps_exec (o := false) c { s with pending := rest }
    cases hu.symm.trans h
    exact (Keeps.of_parts rfl : Keeps false s { s with pending := rest }).trans hk

/-! ### The invariants of a step -/

/-- Settles O57: every row keeps each condition of the array, the Segment Map, the ledger and the writers
(`keeps_exec`). -/
theorem everyStepKeepsTheMediumSound : Obligations.EveryStepKeepsTheMediumSound := by
  refine ⟨fun s t h e => ?_, fun s t h e => (keeps_step e).request h, fun s t h e => ?_, fun s t h e => ?_⟩
  · rw [mediumSound_iff] at *
    exact ⟨(keeps_step e).medium h.1, (keeps_step e).map h.2⟩
  · rw [ledgerSound_iff] at *
    exact ⟨(keeps_step e).count h.1, (keeps_step e).ledger h.2⟩
  · rw [writerSound_iff] at *
    exact ⟨(keeps_step e).built h.1, (keeps_step e).handed rfl h.2⟩

/-- Settles O58: every row keeps the bounds of the queues, the byte index and the Notice List (`keeps_exec`). -/
theorem everyStepKeepsThePortSound : Obligations.EveryStepKeepsThePortSound := by
  intro s t hp he e
  rw [portSound_iff] at *
  rw [eventsSound_iff] at *
  exact ⟨⟨(keeps_step e).slots hp.1, (keeps_step e).frames hp.2.1, (keeps_step e).index hp.2.2⟩,
    (keeps_step e).notices he⟩

/-- Settles O59: every row keeps the options, the prescaler and the lock state legal (`keeps_exec`). -/
theorem everyStepKeepsTimeAndLocksSound : Obligations.EveryStepKeepsTimeAndLocksSound := by
  intro s t ht hl e
  rw [timeSound_iff] at *
  rw [locksSound_iff] at *
  exact ⟨(keeps_step e).time ht, (keeps_step e).locks hl⟩

end Sys2Proof.Machine

/-!
PROOFS. The step, the latch and the state after reset, and the plain writes of the register window.
-/

namespace Sys2Proof.Machine

open Sys2Proof

/-- Settles O1: it is how `step` is defined. -/
theorem stepRunsTheFrontCommand : Obligations.StepRunsTheFrontCommand := by
  refine ⟨fun c s rest => rfl, fun s h => ?_⟩
  unfold step
  rw [h]

/-- Settles O2, by `keeps_exec`, which gives every row its next state. -/
theorem noCommandStopsTheMachine : Obligations.NoCommandStopsTheMachine := fun c s =>
  (keeps_exec (o := false) c s).imp fun _ h => h.1

/-- Settles O60, invariant by invariant: nothing is queued, requested, locked or counted right after reset. -/
theorem resetStateIsSafe : Obligations.ResetStateIsSafe where
  medium := ⟨reset_medium_wf, rfl⟩
  engine _ := of_none_eq_some
  ledger :=
    { used := Nat.zero_le _
      scanned := fun m h => by cases h; exact scanOk_first
      frames := fun r h hw => by
        obtain h | h := h
        · exact of_none_eq_some h
        · cases h
          cases hw }
  writer := ⟨fun _ => rfl, fun _ => rfl⟩
  port := ⟨Nat.zero_le _, Nat.zero_le _, Nat.zero_le _, fun _ => rfl⟩
  time := (timeSound_iff _).mpr ⟨optionsOk_defaults, Nat.two_pow_pos _⟩
  events := ⟨Nat.zero_le _, Nat.zero_le _⟩
  locks := ⟨fun _ => ⟨rfl, rfl, fun _ => of_none_eq_some⟩, fun _ => of_none_eq_some, fun _ => of_none_eq_some⟩

/-! ### Latch and register writes -/

/-- A host error in the words of the statements (R4). -/
theorem hostError_eq (code : Byte) (s : State) : hostError code s = withHostError code s := by
  unfold hostError raise withHostError
  dsimp only
  split <;> rfl

theorem exec_offsetLatch_dark {s : State} {hsel : Bool} (h : hsel = true ∨ windowLive s = false) (ad : Byte) :
    exec (.offsetLatch hsel ad) s = .next s := by
  show execOffsetLatch hsel ad s = _
  unfold execOffsetLatch
  rw [if_neg]
  obtain rfl | h := h
  · simp
  · simp [h]

theorem takesWrite_iff (o : BitVec 4) : takesWrite o = true ↔ o = 0x0 ∨ o = 0x4 ∨ o = 0x5 ∨ o = 0x6 := by
  simp [takesWrite, or_assoc]

/-- Settles O5: each write is its row's effect on the register latched (`writeAccess_of_accessible`). -/
theorem latchAndRegisterWrites : Obligations.LatchAndRegisterWrites := by
  refine ⟨fun s ad => ⟨fun h => exec_offsetLatch_live h ad, exec_offsetLatch_dark (.inl rfl) ad,
    fun h => exec_offsetLatch_dark (.inr h) ad⟩, fun s b => ⟨fun h => ?_, fun h => ?_, fun o h0 h4 h5 h6 h => ?_⟩⟩
  · exact congrArg Host.Outcome.next (writeAccess_of_accessible h (by decide) (clearEvents b))
  · exact congrArg Host.Outcome.next (writeAccess_of_accessible h (by decide) (setMask b))
  · have hm : (!takesWrite o) = true := by
      rw [Bool.not_eq_true', Bool.eq_false_iff, Ne, takesWrite_iff]
      tauto
    refine congrArg Host.Outcome.next ?_
    rw [writeAccess_of_accessible h hm, hostError_eq]

end Sys2Proof.Machine

/-!
PROOFS. CPLOUT: a read by the state of the queue, and twelve of them over one record (R12).
-/

namespace Sys2Proof.Machine

open Sys2Proof

variable {s : State} {c : Completion} {rest : List Completion}

theorem exec_cploutRead_empty (h : Accessible s 0x2) (hr : s.cpl.records = []) :
    exec .cploutRead s = .next (withHostError 3 { s with host := { s.host with dataOut := 0x00 } }) := by
  have hb : hostRead s 0x2 = 0 := by
    unfold hostRead
    rw [if_pos h.live, hr]
    rfl
  rw [exec_cploutRead h, hb]
  unfold takeCompletionByte
  rw [show (drive 0 s).cpl.records = [] from hr, hostError_eq]
  rfl

theorem exec_cploutRead_within (h : Accessible s 0x2) (hr : s.cpl.records = c :: rest) (hi : s.cpl.index < 11) :
    exec .cploutRead s = .next { s with
      host := { s.host with dataOut := (completionBytes c).getD s.cpl.index 0 }
      cpl := { s.cpl with index := s.cpl.index + 1 } } := by
  rw [exec_cploutRead h, hostRead_cplout h.live hr, takeCompletionByte_within (s :=
    drive ((completionBytes c).getD s.cpl.index 0) s) hr hi]
  rfl

theorem exec_cploutRead_pops (h : Accessible s 0x2) (hr : s.cpl.records = c :: rest) (hi : s.cpl.index = 11) :
    exec .cploutRead s = .next { s with
      host := { s.host with dataOut := (completionBytes c).getD 11 0 }
      cpl := { s.cpl with records := rest, index := 0 } } := by
  rw [exec_cploutRead h, hostRead_cplout h.live hr, hi]
  unfold takeCompletionByte
  rw [show (drive ((completionBytes c).getD 11 0) s).cpl.records = c :: rest from hr]
  exact congrArg Host.Outcome.next (if_neg (show ¬ s.cpl.index < 11 by omega))

/-- The state after the first `k + 1` reads of one record. -/
def afterReads (s : State) (c : Completion) (rest : List Completion) (k : Nat) : State :=
  { s with
    host := { s.host with dataOut := (completionBytes c).getD k 0 }
    cpl := if k < 11 then { s.cpl with index := k + 1 } else { s.cpl with records := rest, index := 0 } }

theorem execAll_cploutReads_afterReads (h : Accessible s 0x2) (hr : s.cpl.records = c :: rest) (hi : s.cpl.index = 0)
    {k : Nat} (hk : k < 12) :
    execAll (List.replicate (k + 1) .cploutRead) s = some (afterReads s c rest k) := by
  induction k with
  | zero =>
    refine (execAll_cons (exec_cploutRead_within h hr (by omega))).trans (congrArg some ?_)
    rw [hi]
    rfl
  | succ k ih =>
    rw [List.replicate_succ', execAll_append, ih (by omega)]
    have hk11 : k < 11 := by omega
    have hread : exec .cploutRead (afterReads s c rest k) = .next (afterReads s c rest (k + 1)) := by
      have hcpl : (afterReads s c rest k).cpl = { s.cpl with index := k + 1 } := if_pos hk11
      have ha : Accessible (afterReads s c rest k) 0x2 := h.of_same h.latched rfl rfl
      have hrec : (afterReads s c rest k).cpl.records = c :: rest := by rw [hcpl]; exact hr
      have hidx : (afterReads s c rest k).cpl.index = k + 1 := by rw [hcpl]
      by_cases hk10 : k + 1 < 11
      · rw [exec_cploutRead_within ha hrec (by omega), hidx, hcpl]
        simp only [afterReads, hk10, if_true]
      · obtain rfl : k = 10 := by omega
        rw [exec_cploutRead_pops ha hrec hidx, hcpl]
        rfl
    exact execAll_cons hread

/-- Settles O8: one read by the state of the queue, and reads over a record by induction on their number. -/
theorem cploutReadsAndPopsTheHead : Obligations.CploutReadsAndPopsTheHead :=
  ⟨fun _ h => ⟨exec_cploutRead_empty h, fun _ _ => exec_cploutRead_within h, fun _ _ => exec_cploutRead_pops h⟩,
    fun _ _ _ h hr hi _ hk => execAll_cploutReads_afterReads h hr hi hk⟩

end Sys2Proof.Machine

/-!
PROOFS. Frames: a payload spells a command exactly where the command is well formed and its encoding is that payload
(Table 2-1, R21), shape by shape.
-/

namespace Sys2Proof.Machine

open Sys2Proof

/-! ### Numbers and their bytes -/

theorem leBytes_byte (a : Byte) : leBytes 1 a.toNat = [a] := by
  simp [leBytes]

theorem toNat_ofNat_byte {n : Nat} (h : n < 256) : (BitVec.ofNat 8 n).toNat = n := by
  rw [BitVec.toNat_ofNat]
  exact Nat.mod_eq_of_lt h

theorem leNat_two_lt (a b : Byte) : leNat [a, b] < 65536 := (leNat_lt [a, b]).trans_eq (by norm_num)

theorem leNat_four_lt (a b c d : Byte) : leNat [a, b, c, d] < 4294967296 :=
  (leNat_lt [a, b, c, d]).trans_eq (by norm_num)

theorem leBytes_leNat_two (a b : Byte) : leBytes 2 (leNat [a, b]) = [a, b] := leBytes_leNat [a, b]

theorem leBytes_leNat_four (a b c d : Byte) : leBytes 4 (leNat [a, b, c, d]) = [a, b, c, d] :=
  leBytes_leNat [a, b, c, d]

theorem leNat_leBytes_two {v : Nat} (h : v < 65536) : leNat (leBytes 2 v) = v :=
  leNat_leBytes 2 v (h.trans_eq (by norm_num))

theorem leNat_leBytes_four {v : Nat} (h : v < 4294967296) : leNat (leBytes 4 v) = v :=
  leNat_leBytes 4 v (h.trans_eq (by norm_num))

/-! ### The shapes of a payload -/

variable {c : Cmd} {p : List Byte} {n m w : Nat}

theorem payload0_iff : payload0 c p = some c ↔ [] = p := by
  unfold payload0
  cases p <;> simp

theorem payload1_iff {f : Nat → Cmd} (hf : ∀ a, f a = c ↔ a = n) :
    payload1 f p = some c ↔ n < 256 ∧ leBytes 1 n = p := by
  constructor
  · intro h
    unfold payload1 at h
    split at h
    · obtain rfl := (hf _).mp (Option.some.inj h)
      exact ⟨BitVec.isLt _, leBytes_byte _⟩
    · cases h
  · rintro ⟨hn, rfl⟩
    exact congrArg some ((hf _).mpr (toNat_ofNat_byte hn))

theorem payload2_iff {f : Byte → Byte → Cmd} (hf : ∀ a b, f a b = c ↔ a.toNat = n ∧ b.toNat = m) :
    payload2 f p = some c ↔ (n < 256 ∧ m < 256) ∧ leBytes 1 n ++ leBytes 1 m = p := by
  constructor
  · intro h
    unfold payload2 at h
    split at h
    · obtain ⟨rfl, rfl⟩ := (hf _ _).mp (Option.some.inj h)
      refine ⟨⟨BitVec.isLt _, BitVec.isLt _⟩, ?_⟩
      rw [leBytes_byte, leBytes_byte]
      rfl
    · cases h
  · rintro ⟨⟨hn, hm⟩, rfl⟩
    exact congrArg some ((hf _ _).mpr ⟨toNat_ofNat_byte hn, toNat_ofNat_byte hm⟩)

theorem payload5_iff {f : Byte → Nat → Cmd} (hf : ∀ a v, v < 4294967296 → (f a v = c ↔ a.toNat = n ∧ v = w)) :
    payload5 f p = some c ↔ (n < 256 ∧ w < 4294967296) ∧ leBytes 1 n ++ leBytes 4 w = p := by
  constructor
  · intro h
    unfold payload5 at h
    split at h
    · rename_i a b₀ b₁ b₂ b₃
      have hlt := leNat_four_lt b₀ b₁ b₂ b₃
      obtain ⟨rfl, rfl⟩ := (hf _ _ hlt).mp (Option.some.inj h)
      refine ⟨⟨BitVec.isLt _, hlt⟩, ?_⟩
      rw [leBytes_byte, leBytes_leNat_four]
      rfl
    · cases h
  · rintro ⟨⟨hn, hw⟩, rfl⟩
    have hv := leNat_leBytes_four hw
    exact congrArg some ((hf _ (leNat (leBytes 4 w)) (by rwa [hv])).mpr ⟨toNat_ofNat_byte hn, hv⟩)

theorem payloadData_iff {f : Nat → List Byte → Cmd} {d : List Byte} (hf : ∀ a e, f a e = c ↔ a = n ∧ e = d) :
    payloadData f p = some c ↔ (n < 256 ∧ 1 ≤ d.length ∧ d.length ≤ 512) ∧ leBytes 1 n ++ d = p := by
  constructor
  · intro h
    unfold payloadData at h
    split at h
    · split at h
      · obtain ⟨rfl, rfl⟩ := (hf _ _).mp (Option.some.inj h)
        refine ⟨⟨BitVec.isLt _, Nat.succ_le_succ (Nat.zero_le _), by simp only [List.length_cons]; omega⟩, ?_⟩
        rw [leBytes_byte]
        rfl
      · cases h
    · cases h
  · rintro ⟨⟨hn, h1, h512⟩, rfl⟩
    cases d with
    | nil => simp at h1
    | cons x d =>
      have hd : d.length < 512 := by simp only [List.length_cons] at h512; omega
      exact (if_pos hd).trans (congrArg some ((hf _ _).mpr ⟨toNat_ofNat_byte hn, rfl⟩))

theorem payloadDefine_iff {st mode quota : Nat} {name : List Byte} :
    payloadDefine p = some (.defineStream st mode quota name) ↔
      (st < 256 ∧ mode < 256 ∧ quota < 65536 ∧ name.length ≤ 12) ∧
        leBytes 1 st ++ leBytes 1 mode ++ leBytes 2 quota ++ name = p := by
  constructor
  · intro h
    unfold payloadDefine at h
    split at h
    · split at h
      · rename_i a b q₀ q₁ l hl
        cases h
        refine ⟨⟨BitVec.isLt _, BitVec.isLt _, leNat_two_lt q₀ q₁, hl⟩, ?_⟩
        rw [leBytes_byte, leBytes_byte, leBytes_leNat_two]
        rfl
      · cases h
    · cases h
  · rintro ⟨⟨hs, hm, hq, hl⟩, rfl⟩
    have hv := leNat_leBytes_two hq
    refine (if_pos hl).trans (congrArg some ?_)
    rw [toNat_ofNat_byte hs, toNat_ofNat_byte hm]
    exact congrArg (Cmd.defineStream st mode · name) hv

theorem payloadSeek_iff {st origin seq : Nat} :
    payloadSeek p = some (.seek st origin seq) ↔
      (st < 256 ∧ origin < 256 ∧ seq < 4294967296) ∧ leBytes 1 st ++ leBytes 1 origin ++ leBytes 4 seq = p := by
  constructor
  · intro h
    unfold payloadSeek at h
    split at h
    · rename_i a b b₀ b₁ b₂ b₃
      cases h
      refine ⟨⟨BitVec.isLt _, BitVec.isLt _, leNat_four_lt b₀ b₁ b₂ b₃⟩, ?_⟩
      rw [leBytes_byte, leBytes_byte, leBytes_leNat_four]
      rfl
    · cases h
  · rintro ⟨⟨hs, ho, hq⟩, rfl⟩
    refine congrArg some ?_
    rw [toNat_ofNat_byte hs, toNat_ofNat_byte ho]
    exact congrArg (Cmd.seek st origin) (leNat_leBytes_four hq)

theorem payloadUnlock_iff {low high invert : Nat} :
    payloadUnlock p = some (.unlockRange low high invert) ↔
      (low < 65536 ∧ high < 65536 ∧ invert < 256) ∧ leBytes 2 low ++ leBytes 2 high ++ leBytes 1 invert = p := by
  constructor
  · intro h
    unfold payloadUnlock at h
    split at h
    · rename_i l₀ l₁ u₀ u₁ i
      cases h
      refine ⟨⟨leNat_two_lt l₀ l₁, leNat_two_lt u₀ u₁, BitVec.isLt _⟩, ?_⟩
      rw [leBytes_byte, leBytes_leNat_two,
        leBytes_leNat_two]
      rfl
    · cases h
  · rintro ⟨⟨hl, hu, hi⟩, rfl⟩
    refine congrArg some ?_
    rw [toNat_ofNat_byte hi]
    exact congrArg₂ (Cmd.unlockRange · · invert) (leNat_leBytes_two hl) (leNat_leBytes_two hu)

theorem payloadSegment_iff {g : Nat} :
    payloadSegment p = some (.segmentStatus g) ↔ g < 65536 ∧ leBytes 2 g = p := by
  constructor
  · intro h
    unfold payloadSegment at h
    split at h
    · rename_i b₀ b₁
      cases h
      exact ⟨leNat_two_lt b₀ b₁, leBytes_leNat [b₀, b₁]⟩
    · cases h
  · rintro ⟨hg, rfl⟩
    exact congrArg (some ∘ Cmd.segmentStatus) (leNat_leBytes_two hg)

/-! ### Every command -/

theorem ofNat32_eq_iff {v : Nat} {t : BitVec 32} (hv : v < 4294967296) : BitVec.ofNat 32 v = t ↔ v = t.toNat := by
  rw [← BitVec.toNat_inj, BitVec.toNat_ofNat, Nat.mod_eq_of_lt hv]

/-- A payload spells a command where the command is well formed and encoded so (R21). -/
theorem decodeCmd_iff (c : Cmd) (p : List Byte) :
    decodeCmd c.code p = some c ↔ c.wellFormed = true ∧ encodePayload c = p := by
  cases c with
  | sync | lockAll | freezeLocks | format | vaultClose | describe | identify | readNotices | getTime | doze | halt =>
    exact payload0_iff.trans (by simp only [Cmd.wellFormed, encodePayload, true_and])
  | deleteStream n | queryStream n | cancel n | readNext n | vaultRead n | getOption n =>
    refine (payload1_iff (n := n) (fun a => by simp)).trans ?_
    simp only [Cmd.wellFormed, decide_eq_true_eq, encodePayload]
  | trimStream n v | readRecord n v | sealStream n v =>
    refine (payload5_iff (n := n) (w := v) (fun a x _ => by simp)).trans ?_
    simp only [Cmd.wellFormed, decide_eq_true_eq, encodePayload, Bool.and_eq_true]
  | append n d | vaultWrite n d =>
    refine (payloadData_iff (n := n) (d := d) (fun a x => by simp)).trans ?_
    simp only [Cmd.wellFormed, decide_eq_true_eq, encodePayload, Bool.and_eq_true, and_assoc]
  | commit n attr =>
    refine (payload2_iff (n := n) (m := attr.toNat) (fun a b => by simp [BitVec.toNat_inj])).trans ?_
    simp only [Cmd.wellFormed, decide_eq_true_eq, encodePayload, leBytes_byte, attr.isLt, and_true]
  | arm target check =>
    refine (payload2_iff (n := target.toNat) (m := check.toNat) (fun a b => by simp [BitVec.toNat_inj])).trans ?_
    simp only [Cmd.wellFormed, encodePayload, leBytes_byte, target.isLt, check.isLt, true_and, List.cons_append,
      List.nil_append]
  | setOption id v =>
    refine (payload2_iff (n := id) (m := v) (fun a b => by simp)).trans ?_
    simp only [Cmd.wellFormed, decide_eq_true_eq, encodePayload, Bool.and_eq_true]
  | setTime epoch ticks =>
    refine (payload5_iff (f := fun e v => .setTime e (BitVec.ofNat 32 v)) (n := epoch.toNat) (w := ticks.toNat)
      (fun a v hv => by simp [BitVec.toNat_inj, ofNat32_eq_iff hv])).trans ?_
    simp only [Cmd.wellFormed, encodePayload, leBytes_byte, epoch.isLt, ticks.isLt, true_and, List.cons_append,
      List.nil_append]
  | setAlarm action ticks =>
    refine (payload5_iff (f := fun a v => .setAlarm a.toNat (BitVec.ofNat 32 v)) (n := action) (w := ticks.toNat)
      (fun a v hv => by simp [ofNat32_eq_iff hv])).trans ?_
    simp only [Cmd.wellFormed, decide_eq_true_eq, encodePayload, ticks.isLt, and_true]
  | defineStream st mode quota name =>
    refine payloadDefine_iff.trans ?_
    simp only [Cmd.wellFormed, decide_eq_true_eq, encodePayload, Bool.and_eq_true, and_assoc]
  | seek st origin seq =>
    refine payloadSeek_iff.trans ?_
    simp only [Cmd.wellFormed, decide_eq_true_eq, encodePayload, Bool.and_eq_true, and_assoc]
  | unlockRange low high invert =>
    refine payloadUnlock_iff.trans ?_
    simp only [Cmd.wellFormed, decide_eq_true_eq, encodePayload, Bool.and_eq_true, and_assoc]
  | segmentStatus g =>
    refine payloadSegment_iff.trans ?_
    simp only [Cmd.wellFormed, decide_eq_true_eq, encodePayload]

/-- Settles O3: both directions are those of `decodeCmd_iff`. -/
theorem framesReadBackAsWritten : Obligations.FramesReadBackAsWritten := by
  refine ⟨fun c hc => (decodeCmd_iff c _).mpr ⟨hc, rfl⟩, fun op p c h => ?_⟩
  obtain rfl := decodeCmd_code h
  obtain ⟨hw, hp⟩ := (decodeCmd_iff c p).mp h
  exact ⟨hw, rfl, hp⟩

end Sys2Proof.Machine

/-!
PROOFS. CMDIN: a byte by the state of the Command Assembler (R8 to R11), and a whole frame.
-/

namespace Sys2Proof.Machine

open Sys2Proof

variable {s : State} {b : Byte}

theorem exec_cmdinWrite (h : Accessible s 0x0) (b : Byte) : exec (.cmdinWrite b) s = .next (takeByte b s) :=
  congrArg Host.Outcome.next (writeAccess_of_accessible h (by decide) (takeByte b))

/-! ### A byte by the assembler's state -/

theorem takeByte_first (ha : s.host.assembler = .idle) (hr : cmdRoom s = true) :
    takeByte b s = setAssembler (.header [b]) s := by
  unfold takeByte
  rw [ha]
  exact if_pos hr

theorem takeByte_first_full (ha : s.host.assembler = .idle) (hr : cmdRoom s = false) :
    takeByte b s = withHostError 1 s := by
  unfold takeByte
  rw [ha, ← hostError_eq]
  exact if_neg (by simp [hr])

theorem takeByte_header {l : List Byte} (ha : s.host.assembler = .header l) (hl : l.length < 3) :
    takeByte b s = setAssembler (.header (l ++ [b])) s := by
  unfold takeByte
  rw [ha]
  match l, hl with
  | [], _ => rfl
  | [_], _ => rfl
  | [_, _], _ => rfl

theorem takeByte_header_complete {op tag low : Byte} (ha : s.host.assembler = .header [op, tag, low]) :
    takeByte b s = headerComplete op tag (low.toNat + 256 * b.toNat) s := by
  unfold takeByte
  rw [ha]

theorem takeByte_payload {op tag : Byte} {n : Nat} {l : List Byte} (ha : s.host.assembler = .payload op tag n l) :
    takeByte b s = if l.length + 1 < n then setAssembler (.payload op tag n (l ++ [b])) s
      else enqueueFrame { opcode := op, tag := tag, payload := l ++ [b], oversize := false } s := by
  unfold takeByte
  rw [ha]

theorem takeByte_discard {op tag : Byte} {n k : Nat} (ha : s.host.assembler = .discard op tag n k) :
    takeByte b s = if k + 1 < n then setAssembler (.discard op tag n (k + 1)) s
      else enqueueFrame { opcode := op, tag := tag, payload := [], oversize := true } s := by
  unfold takeByte
  rw [ha]

theorem cmdRoom_assembler (ha : s.host.assembler ≠ .idle) : cmdRoom s = false := by
  unfold cmdRoom
  simp [ha]

/-- A frame that joins the queue frees CMD_ROOM where fewer than 8 frames wait, and ROOM is signalled (R11). -/
theorem enqueueFrame_signals {f : CmdFrame} (ha : s.host.assembler ≠ .idle) (hb : s.host.aborting = false)
    (hs : s.power.soft = none) (hc : s.events.holdClear = false) : enqueueFrame f s =
      { s with
        host := { s.host with assembler := .idle }
        sequencer := { s.sequencer with queue := s.sequencer.queue ++ [f] }
        events := { s.events with latched :=
          if s.sequencer.queue.length < 7 then s.events.latched ||| 0x02 else s.events.latched } } := by
  unfold enqueueFrame
  rw [signalRoom_eq, cmdRoom_assembler ha]
  by_cases hq : s.sequencer.queue.length < 7
  · have h8 : s.sequencer.queue.length + 1 < 8 := by omega
    simp [cmdRoom, hb, hs, hc, hq, h8]
  · have h8 : ¬ s.sequencer.queue.length + 1 < 8 := by omega
    simp [cmdRoom, hq, h8]

/-- Settles O6: `takeByte`, state by state of the assembler. -/
theorem cmdinByteByAssemblerState : Obligations.CmdinByteByAssemblerState := by
  refine ⟨fun s b h => ?_, fun s b f h hb hs hc hf => ?_⟩
  · simp only [exec_cmdinWrite h]
    refine ⟨fun ha hr => ?_, fun ha hr => ?_, fun l ha hl => ?_, fun op tag low ha hn => ?_,
      fun op tag low ha h1 hn => ?_, fun op tag n l ha hn => ?_, fun op tag n k ha hn => ?_⟩
    · rw [takeByte_first ha hr]; rfl
    · rw [takeByte_first_full ha hr]
    · rw [takeByte_header ha hl]; rfl
    · rw [takeByte_header_complete ha, headerComplete, if_neg (by omega), if_neg (by omega)]; rfl
    · rw [takeByte_header_complete ha, headerComplete, if_neg (by omega), if_pos hn]; rfl
    · rw [takeByte_payload ha, if_pos hn]; rfl
    · rw [takeByte_discard ha, if_pos hn]; rfl
  · have hna : s.host.assembler ≠ .idle := by
      obtain ⟨ha, -⟩ | ⟨_, _, ha, -⟩ | ⟨_, _, ha, -⟩ := hf <;> simp [ha]
    have hframe : takeByte b s = enqueueFrame f s := by
      obtain ⟨op, tag, payload, oversize⟩ := f
      obtain ⟨ha, rfl, hp, ho⟩ | ⟨n, l, ha, hn, hp, ho⟩ | ⟨n, k, ha, hn, hp, ho⟩ := hf
      · rw [takeByte_header_complete ha, headerComplete, if_pos (by rfl), ← hp, ← ho]
      · rw [takeByte_payload ha, if_neg (by omega), ← hp, ← ho]
      · rw [takeByte_discard ha, if_neg (by omega), ← hp, ← ho]
    rw [exec_cmdinWrite h, hframe, enqueueFrame_signals hna hb hs hc]

/-! ### A whole frame -/

/-- What a frame that joins the queue leaves of the machine. -/
theorem enqueueFrame_spec (f : CmdFrame) (s : State) :
    (enqueueFrame f s).sequencer.queue = s.sequencer.queue ++ [f] ∧
    (enqueueFrame f s).host = { s.host with assembler := .idle } ∧
    (enqueueFrame f s).cpl = s.cpl ∧ (enqueueFrame f s).medium = s.medium := by
  unfold enqueueFrame
  rw [signalRoom_eq]
  exact ⟨rfl, rfl, rfl, rfl⟩

theorem execAll_cmdinWrite (h : Accessible s 0x0) (bs : List Byte) :
    execAll ((b :: bs).map .cmdinWrite) s = execAll (bs.map .cmdinWrite) (takeByte b s) :=
  execAll_cons (exec_cmdinWrite h b)

theorem Accessible.setAssembler {o : BitVec 4} (h : Accessible s o) (a : Assembler) :
    Accessible (setAssembler a s) o := h.of_same h.latched rfl rfl

/-- The last bytes of a payload complete its frame. -/
theorem execAll_payload {op tag : Byte} {n : Nat} (h : Accessible s 0x0) (bs l : List Byte) (hb : bs ≠ [])
    (hn : l.length + bs.length = n) :
    ∃ t, execAll (bs.map .cmdinWrite) (setAssembler (.payload op tag n l) s) =
        some (enqueueFrame { opcode := op, tag := tag, payload := l ++ bs, oversize := false }
          (setAssembler t s)) := by
  induction bs generalizing l with
  | nil => exact absurd rfl hb
  | cons b bs ih =>
    rw [execAll_cmdinWrite (h.setAssembler _), takeByte_payload (op := op) (tag := tag) (n := n) (l := l) rfl]
    rw [List.length_cons] at hn
    cases bs with
    | nil => exact ⟨_, congrArg some (if_neg (by simp only [List.length_nil] at hn; omega))⟩
    | cons b' bs =>
      rw [if_pos (by simp only [List.length_cons] at hn; omega)]
      obtain ⟨t, ht⟩ := ih (l ++ [b]) (List.cons_ne_nil _ _)
        (by rw [List.length_append, List.length_singleton]; omega)
      refine ⟨t, ?_⟩
      rw [List.append_assoc] at ht
      exact ht

theorem encodePayload_length {c : Cmd} (h : c.wellFormed = true) : (encodePayload c).length ≤ 513 := by
  cases c <;>
    simp only [Cmd.wellFormed, Bool.and_eq_true, decide_eq_true_eq] at h <;>
    simp only [encodePayload, List.length_append, leBytes_length, List.length_cons, List.length_nil] <;> omega

theorem idle_of_cmdRoom (h : cmdRoom s = true) : s.host.assembler = .idle := by
  unfold cmdRoom at h
  simp only [Bool.and_eq_true, decide_eq_true_eq] at h
  obtain ⟨⟨⟨ha, -⟩, -⟩, -⟩ := h
  exact ha

theorem execAll_headerByte {l : List Byte} (h : Accessible s 0x0) (hl : l.length < 3) (bs : List Byte) :
    execAll ((b :: bs).map .cmdinWrite) (setAssembler (.header l) s) =
      execAll (bs.map .cmdinWrite) (setAssembler (.header (l ++ [b])) s) := by
  rw [execAll_cmdinWrite (h.setAssembler _), takeByte_header rfl hl]
  rfl

/-- The four bytes of the header. -/
theorem execAll_header {op tag b₀ b₁ : Byte} (h : Accessible s 0x0) (hr : cmdRoom s = true) (bs : List Byte) :
    execAll ((op :: tag :: b₀ :: b₁ :: bs).map .cmdinWrite) s =
      execAll (bs.map .cmdinWrite) (headerComplete op tag (b₀.toNat + 256 * b₁.toNat)
        (setAssembler (.header [op, tag, b₀]) s)) := by
  rw [execAll_cmdinWrite h, takeByte_first (idle_of_cmdRoom hr) hr, execAll_headerByte h (by simp),
    execAll_headerByte h (by simp), execAll_cmdinWrite (h.setAssembler _)]
  exact congrArg _ (takeByte_header_complete rfl)

/-- A frame whose payload length is that of its header joins the queue, whatever its bytes. -/
theorem execAll_frame {op tag : Byte} {p : List Byte} (h : Accessible s 0x0) (hr : cmdRoom s = true)
    (hp : p.length ≤ 513) :
    ∃ a, execAll ((op :: tag :: leBytes 2 p.length ++ p).map .cmdinWrite) s =
      some (enqueueFrame { opcode := op, tag := tag, payload := p, oversize := false } (setAssembler a s)) := by
  have hn : (BitVec.ofNat 8 p.length).toNat + 256 * (BitVec.ofNat 8 (p.length / 256)).toNat = p.length :=
    leNat_leBytes_two (v := p.length) (by omega)
  have header := execAll_header (op := op) (tag := tag) (b₀ := BitVec.ofNat 8 p.length)
    (b₁ := BitVec.ofNat 8 (p.length / 256)) h hr p
  rw [hn, headerComplete] at header
  cases p with
  | nil => exact ⟨_, header⟩
  | cons b bs =>
    rw [if_neg (by simp), if_pos hp] at header
    obtain ⟨a, ha⟩ := execAll_payload (op := op) (tag := tag) h (b :: bs) [] (List.cons_ne_nil _ _) (Nat.zero_add _)
    exact ⟨a, header.trans ha⟩

/-- Settles O4: the header, then the payload by induction on its bytes. -/
theorem frameWrittenToCmdinIsQueued : Obligations.FrameWrittenToCmdinIsQueued := by
  intro s c tag h hr hc
  obtain ⟨a, ha⟩ := execAll_frame (op := c.code) (tag := tag) h hr (encodePayload_length hc)
  obtain ⟨hq, hh, hcpl, hm⟩ := enqueueFrame_spec
    { opcode := c.code, tag := tag, payload := encodePayload c, oversize := false } (setAssembler a s)
  refine ⟨_, ha, hq, hh.trans ?_, hcpl, hm⟩
  show { s.host with assembler := .idle } = s.host
  rw [← idle_of_cmdRoom hr]

end Sys2Proof.Machine

/-!
PROOFS. The registers of the window, bit by bit, and the reads with a side effect.
-/

namespace Sys2Proof.Machine

open Sys2Proof

variable {s : State}

/-! ### Bytes of bits -/

theorem getLsbD_sevenBits (b0 b1 b2 b3 b4 b5 b6 : Bool) (x : Byte)
    (h : x = BitVec.ofNat 8 (bitOf b0 + 2 * bitOf b1 + 4 * bitOf b2 + 8 * bitOf b3 + 16 * bitOf b4 + 32 * bitOf b5 +
      64 * bitOf b6)) :
    x.getLsbD 0 = b0 ∧ x.getLsbD 1 = b1 ∧ x.getLsbD 2 = b2 ∧ x.getLsbD 3 = b3 ∧ x.getLsbD 4 = b4 ∧
      x.getLsbD 5 = b5 ∧ x.getLsbD 6 = b6 ∧ x.getLsbD 7 = false := by
  subst h
  revert b0 b1 b2 b3 b4 b5 b6
  decide

theorem getLsbD_twoBits (a b : Bool) (x : Byte) (h : x = BitVec.ofNat 8 (bitOf a + 2 * bitOf b)) :
    x.getLsbD 0 = a ∧ x.getLsbD 1 = b ∧ x &&& 0xFC = 0 := by
  subst h
  revert a b
  decide

theorem testBit_bitsNat (bs : List Bool) (n : Nat) : (bitsNat bs).testBit n = bs.getD n false := by
  induction bs generalizing n with
  | nil => simp [bitsNat]
  | cons b bs ih =>
    cases n with
    | zero => cases b <;> simp [bitsNat, bitOf, Nat.testBit_zero]
    | succ n =>
      have hdiv : bitsNat (b :: bs) / 2 = bitsNat bs := by
        cases b <;> simp [bitsNat, bitOf] <;> omega
      rw [Nat.testBit_succ, hdiv, ih]
      rfl

/-- A byte is not 0 where one of its bits is 1. -/
theorem ne_zero_iff_getLsbD (x : Byte) : x ≠ 0 ↔ ∃ k, x.getLsbD k = true := by
  rw [Ne, ← not_iff_not, not_not, not_exists]
  constructor
  · rintro rfl k
    simp
  · intro h
    exact BitVec.eq_of_getLsbD_eq fun i _ => by simpa using h i

/-! ### The registers -/

theorem hstat_bits (s : State) {b : Byte} (h : b = hstat s) :
    (b.getLsbD 0 = true ↔
      s.host.assembler = .idle ∧ s.sequencer.queue.length < 8 ∧ s.host.aborting = false ∧ s.power.soft = none) ∧
    (b.getLsbD 1 = true ↔ s.cpl.records ≠ []) ∧ (b.getLsbD 2 = true ↔ s.rsp.index < s.rsp.bytes.length) ∧
    (b.getLsbD 3 = true ↔ s.write.staging = none) ∧
    (b.getLsbD 4 = true ↔ s.write.jobs = [] ∧ s.engine.op = none ∧ s.engine.reloc = none) ∧
    b.getLsbD 5 = s.engine.lastFail ∧ b.getLsbD 6 = s.engine.prevFail ∧ b.getLsbD 7 = false := by
  obtain ⟨h0, h1, h2, h3, h4, h5, h6, h7⟩ := getLsbD_sevenBits _ _ _ _ _ _ _ b h
  refine ⟨?_, ?_, ?_, ?_, ?_, h5, h6, h7⟩
  · rw [h0]; simp [cmdRoom, and_assoc]
  · rw [h1]; simp
  · rw [h2]; simp [rspLeft, Nat.sub_ne_zero_iff_lt]
  · rw [h3]; simp
  · rw [h4]; simp [and_assoc]

theorem evpend_cpl (s : State) : (evpend s).getLsbD 0 = true ↔ s.cpl.records ≠ [] := by
  unfold evpend
  cases s.cpl.records <;> simp

theorem evpend_latched (s : State) {k : Nat} (h : 1 ≤ k) : (evpend s).getLsbD k = s.events.latched.getLsbD k := by
  unfold evpend
  by_cases h8 : k < 8
  · interval_cases k <;> split <;> simp
  · rw [BitVec.getLsbD_of_ge _ _ (by omega), BitVec.getLsbD_of_ge _ _ (by omega)]

/-- EVCAUSE's code where a bit is 1 and those above it in Table 10-1 are 0. -/
theorem causeOf_of_highest {a : Byte} {bit code : Nat} {above : List Nat}
    (hm : (bit, code, above) ∈
      [(7, 8, []), (6, 7, [7]), (5, 6, [7, 6]), (4, 5, [7, 6, 5]), (2, 3, [7, 6, 5, 4]), (3, 4, [7, 6, 5, 4, 2]),
        (1, 2, [7, 6, 5, 4, 3, 2]), (0, 1, [7, 6, 5, 4, 3, 2, 1])])
    (hb : a.getLsbD bit = true) (ha : ∀ k ∈ above, a.getLsbD k = false) : causeOf a = code := by
  simp only [List.mem_cons, Prod.mk.injEq, List.not_mem_nil, or_false] at hm
  unfold causeOf
  obtain ⟨rfl, rfl, rfl⟩ | ⟨rfl, rfl, rfl⟩ | ⟨rfl, rfl, rfl⟩ | ⟨rfl, rfl, rfl⟩ | ⟨rfl, rfl, rfl⟩ | ⟨rfl, rfl, rfl⟩ |
    ⟨rfl, rfl, rfl⟩ | ⟨rfl, rfl, rfl⟩ := hm <;>
    simp only [List.mem_cons, List.not_mem_nil, or_false, forall_eq_or_imp, forall_eq] at ha <;>
    simp only [hb, ha, Bool.false_eq_true, if_true, if_false]

theorem causeOf_zero : causeOf 0 = 0 := by decide

theorem spacemap_bit (h : s.streams.length = 8) {n : Nat} (hn : n < 8) :
    (spacemap s).getLsbD n = true ↔ ∃ r, (streamOf s n).state = .full r := by
  have hlen : n < s.streams.length := by omega
  unfold spacemap streamOf
  rw [BitVec.getLsbD_ofNat, testBit_bitsNat]
  simp only [hn, decide_true, Bool.true_and, List.getD_eq_getElem?_getD, List.getElem?_map,
    List.getElem?_eq_getElem hlen, Option.map_some, Option.getD_some]
  cases (s.streams[n]).state <;> simp [isFull]

theorem irqAsserted_iff (s : State) : irqAsserted s = true ↔
    windowLive s = true ∧ ∃ k, (hostRead s 0x5).getLsbD k = true ∧ s.events.mask.getLsbD k = true := by
  unfold irqAsserted
  rw [Bool.and_eq_true, decide_eq_true_eq, ne_zero_iff_getLsbD]
  refine and_congr_right fun h => ?_
  have hr : hostRead s 0x5 = evpend s := by unfold hostRead; rw [if_pos h]; rfl
  simp only [hr, BitVec.getLsbD_and, Bool.and_eq_true]

/-! ### Reads with a side effect -/

theorem hostRead_cmdin (h : windowLive s = true) : hostRead s 0x0 = 0 := if_pos h

theorem hostRead_rspout (h : windowLive s = true) : hostRead s 0x1 = s.rsp.bytes.getD s.rsp.index 0x00 := if_pos h

theorem exec_rspoutRead (h : Accessible s 0x1) :
    exec .rspoutRead s = .next (takeResponseByte (drive (s.rsp.bytes.getD s.rsp.index 0x00) s)) := by
  rw [← hostRead_rspout h.live]
  exact congrArg Host.Outcome.next (readAccess_of_accessible h _)

/-- A byte within the buffer is driven, and the buffer is not empty. -/
theorem rspByte {b : Byte} (hb : s.rsp.bytes[s.rsp.index]? = some b) :
    s.rsp.bytes.getD s.rsp.index 0x00 = b ∧ s.rsp.bytes.isEmpty = false := by
  refine ⟨by rw [List.getD_eq_getElem?_getD, hb]; rfl, ?_⟩
  cases hl : s.rsp.bytes with
  | nil => rw [hl] at hb; cases hb
  | cons _ _ => rfl

theorem readsWithSideEffects (s : State) :
    (Accessible s 0x0 →
      exec .cmdinRead s = .next (withHostError 5 { s with host := { s.host with dataOut := 0x00 } })) ∧
    (Accessible s 0xA →
      exec .rsplenLowRead s = .next { s with host := { s.host with
        dataOut := BitVec.ofNat 8 (rspLeft s), rspHold := BitVec.ofNat 16 (rspLeft s) } }) ∧
    (Accessible s 0xC →
      exec .herrRead s = .next { s with host := { s.host with dataOut := s.host.herr, herr := 0 } }) ∧
    (Accessible s 0xD →
      exec .flushcntRead s = .next { s with host := { s.host with dataOut := s.host.flushCnt, flushCnt := 0 } }) := by
  refine ⟨fun h => ?_, fun h => ?_, fun h => ?_, fun h => ?_⟩
  · have hr := (readAccess_of_accessible h (hostError 5)).trans (hostError_eq 5 _)
    rw [hostRead_cmdin h.live] at hr
    exact congrArg Host.Outcome.next hr
  · have hr := readAccess_of_accessible h captureLength
    rw [show hostRead s 0xA = BitVec.ofNat 8 (rspLeft s) from if_pos h.live] at hr
    exact congrArg Host.Outcome.next hr
  · have hr := readAccess_of_accessible h clearHerr
    rw [show hostRead s 0xC = s.host.herr from if_pos h.live] at hr
    exact congrArg Host.Outcome.next hr
  · have hr := readAccess_of_accessible h clearFlushCnt
    rw [show hostRead s 0xD = s.host.flushCnt from if_pos h.live] at hr
    exact congrArg Host.Outcome.next hr

theorem rspoutReads (s : State) (h : Accessible s 0x1) :
    (s.rsp.bytes = [] →
      exec .rspoutRead s = .next (withHostError 2 { s with host := { s.host with dataOut := 0x00 } })) ∧
    (∀ b : Byte, s.rsp.bytes[s.rsp.index]? = some b → s.rsp.index + 1 < s.rsp.bytes.length →
      exec .rspoutRead s = .next { s with
        host := { s.host with dataOut := b }
        rsp := { s.rsp with index := s.rsp.index + 1 } }) ∧
    (∀ b : Byte, s.rsp.bytes[s.rsp.index]? = some b → s.rsp.index + 1 = s.rsp.bytes.length →
      exec .rspoutRead s = .next { s with
        host := { s.host with dataOut := b }
        rsp := { bytes := [], index := 0 } }) := by
  rw [exec_rspoutRead h]
  refine ⟨fun he => ?_, fun b hb hi => ?_, fun b hb hi => ?_⟩
  · have hd : s.rsp.bytes.getD s.rsp.index 0x00 = 0x00 := by rw [he]; rfl
    rw [hd, ← hostError_eq]
    exact congrArg Host.Outcome.next (if_pos (by rw [show (drive 0 s).rsp = s.rsp from rfl, he]; rfl))
  · obtain ⟨hd, hne⟩ := rspByte hb
    rw [hd]
    refine congrArg Host.Outcome.next ((if_neg ?_).trans (if_pos hi))
    exact Bool.eq_false_iff.mp hne
  · obtain ⟨hd, hne⟩ := rspByte hb
    rw [hd]
    refine congrArg Host.Outcome.next ((if_neg ?_).trans (if_neg ?_))
    · exact Bool.eq_false_iff.mp hne
    · exact (Nat.lt_irrefl _ <| hi ▸ ·)

/-- DEVSTATE and the fields that are registers as they stand. -/
theorem devstate_of_state (s : State) :
    (s.power.state = .mounting → devstate s = 0) ∧ (s.power.state = .awake .ready → devstate s = 1) ∧
    (s.power.state = .awake (.restricted .catalogueLost) → devstate s = 2) ∧
    (s.power.state = .awake (.restricted .wornOut) → devstate s = 3) := by
  unfold devstate
  refine ⟨fun h => ?_, fun h => ?_, fun h => ?_, fun h => ?_⟩ <;> rw [h] <;> rfl

theorem rsplenHigh (x : BitVec 16) : ((x >>> 8).setWidth 8).toNat = x.toNat / 256 := by
  have := x.isLt
  rw [BitVec.toNat_setWidth, BitVec.toNat_ushiftRight, Nat.shiftRight_eq_div_pow]
  omega

/-- Settles O7: every register by its own lemma above. -/
theorem readsAndTheirSideEffects : Obligations.ReadsAndTheirSideEffects := by
  refine ⟨⟨readsWithSideEffects, rspoutReads⟩, fun s h => ?_, fun s => ⟨irqAsserted_iff s, fun h o => ?_⟩⟩
  · have hr : ∀ {o : BitVec 4} {x : Byte}, (hostRead s o = if windowLive s then x else 0xFF) → hostRead s o = x :=
      fun e => e.trans (if_pos h)
    refine ⟨fun b e => hstat_bits s (e.trans (hr rfl)), fun b e => ?_, fun b e => ?_, hr rfl, fun a e => ⟨?_, ?_⟩,
      hr rfl, hr rfl, hr rfl, ?_, hr rfl, hr rfl, ?_⟩
    · obtain ⟨h0, h1, h2⟩ := getLsbD_twoBits s.host.aborting s.power.soft.isSome b (e.trans (hr rfl))
      exact ⟨h0, by rw [h1, Option.isSome_iff_ne_none], h2⟩
    · rw [e, show hostRead s 0x5 = evpend s from hr rfl]
      exact ⟨evpend_cpl s, fun k => evpend_latched s⟩
    · rintro rfl
      refine (hr (x := evcause s) rfl).trans ?_
      rw [show hostRead s 0x5 = evpend s from hr rfl] at e
      rw [evcause, ← e, causeOf_zero]
      rfl
    · intro bit code above hm hb ha
      refine (hr (x := evcause s) rfl).trans ?_
      rw [show hostRead s 0x5 = evpend s from hr rfl] at e
      rw [evcause, ← e, causeOf_of_highest hm hb ha]
    · rw [show hostRead s 0xB = _ from hr rfl]
      exact rsplenHigh _
    · rw [show hostRead s 0xE = devstate s from hr rfl, show hostRead s 0xF = spacemap s from hr rfl]
      obtain ⟨d0, d1, d2, d3⟩ := devstate_of_state s
      exact ⟨d0, d1, d2, d3, fun hl n hn => spacemap_bit hl hn⟩
  · unfold hostRead
    rw [if_neg (Bool.eq_false_iff.mp h)]

end Sys2Proof.Machine

/-!
PROOFS. HCTL by the bits written, and any access in the dark, in DOZE and before a DOZE entry (R16 to R19).
-/

namespace Sys2Proof.Machine

open Sys2Proof

variable {s : State} {b : Byte} {i : Instr}

/-! ### HCTL -/

/-- A row of HCTL that writes its own bit. -/
def HctlRow (i : Instr) (b : Byte) : Prop :=
  i = .abort b ∧ b.getLsbD 0 = true ∨ i = .softReset b ∧ b.getLsbD 1 = true ∨ i = .rspDiscard b ∧ b.getLsbD 2 = true ∨
    i = .cplRewind b ∧ b.getLsbD 3 = true

theorem exec_hctlRow (h : HctlRow i b) (s : State) : exec i s = .next (hctlAccess b s) := by
  obtain ⟨rfl, hb⟩ | ⟨rfl, hb⟩ | ⟨rfl, hb⟩ | ⟨rfl, hb⟩ := h <;> exact congrArg Host.Outcome.next (if_pos hb)

theorem saturate_eq_min (n : Nat) : saturate n = min 255 n := by
  unfold saturate
  split <;> omega

/-- ABORT discards the frames and is in progress, or is absorbed by an abort or a soft reset (R16, R17). -/
theorem beginAbort_eq (s : State) : beginAbort s =
    { s with
      host :=
        if s.host.aborting = false ∧ s.power.soft = none then
          { s.host with assembler := .idle, aborting := true,
                        flushCnt := BitVec.ofNat 8 (min 255 (s.host.flushCnt.toNat + cmdFill s)) }
        else s.host
      sequencer :=
        if s.host.aborting = false ∧ s.power.soft = none then { s.sequencer with queue := [] } else s.sequencer } := by
  unfold beginAbort flushFrames
  rw [saturate_eq_min]
  cases s.host.aborting <;> cases s.power.soft <;> rfl

theorem hctlWrite_srst (hb : b.getLsbD 1 = true) (ignored : Bool) :
    hctlWrite b ignored s = if ignored then s else beginSoftReset s := if_pos hb

/-- Without SRST each of the other bits does its own part, whatever was judged of SRST. -/
theorem hctlWrite_parts (hb : b.getLsbD 1 = false) (ignored : Bool) : hctlWrite b ignored s =
    { s with
      host := if b.getLsbD 0 then (beginAbort s).host else s.host
      sequencer := if b.getLsbD 0 then (beginAbort s).sequencer else s.sequencer
      rsp := if b.getLsbD 2 then { bytes := [], index := 0 } else s.rsp
      cpl := if b.getLsbD 3 then { s.cpl with index := 0 } else s.cpl } := by
  unfold hctlWrite
  rw [hb, beginAbort_eq]
  cases b.getLsbD 0 <;> cases b.getLsbD 2 <;> cases b.getLsbD 3 <;> rfl

/-- Settles O10, by `hctlWrite_parts` and `beginAbort_eq`. -/
theorem hctlActsOnTheBitsWrittenOne : Obligations.HctlActsOnTheBitsWrittenOne := by
  intro s b i h hb hi
  have hrow : HctlRow i b := hi.imp id .inr
  rw [exec_hctlRow hrow, hctlAccess_of_accessible h, hctlWrite_parts hb, beginAbort_eq]
  cases b.getLsbD 0 <;> simp

/-- Settles O13: SRST alone decides, and `ignoresSrst` says whether it is ignored. -/
theorem srstBeginsASoftResetOrIsIgnored : Obligations.SrstBeginsASoftResetOrIsIgnored := by
  intro s b i h hb hi
  have hrow : HctlRow i b := by
    obtain hi | hi | hi | hi := hi
    · exact .inr (.inl ⟨hi, hb⟩)
    · exact .inl hi
    · exact .inr (.inr (.inl hi))
    · exact .inr (.inr (.inr hi))
  rw [exec_hctlRow hrow, hctlAccess_of_accessible h, hctlWrite_srst hb]
  refine ⟨fun ha he hs => ?_, fun hign => congrArg Host.Outcome.next (if_pos ?_)⟩
  · have hm : s.power.state ≠ .mounting := fun e => by simp [isAwake, e] at ha
    have hn : ignoresSrst s = false := by simp [ignoresSrst, hm, he, hs]
    rw [hn, ← saturate_eq_min]
    rfl
  · obtain e | e | e := hign
    · simp [ignoresSrst, e]
    · simp [ignoresSrst, e]
    · simp [ignoresSrst, Option.isSome_iff_ne_none.mpr e]

/-! ### Any access -/

/-- What a read, or a write of a byte, does at an offset once it has begun. -/
def performed (w : Option Byte) (o : BitVec 4) (ignored : Bool) (s : State) : State :=
  match w with
  | none => readEffect o (drive (hostRead s o) s)
  | some b => writeEffect o b ignored s

theorem anyAccess_live (h : windowLive s = true) (w : Option Byte) :
    anyAccess w s = performed w s.host.latch (ignoresSrst s) (beginAccess s) := by
  cases w with
  | none => exact (if_pos rfl).trans (if_pos h)
  | some b => exact if_pos h

theorem anyAccess_dark (h : windowLive s = false) (w : Option Byte) :
    anyAccess w s = if w = none then drive 0xFF s else s := by
  have hn : ¬ windowLive s = true := Bool.eq_false_iff.mp h
  cases w with
  | none => exact (if_pos rfl).trans (if_neg hn)
  | some b => exact if_neg hn

/-- An access row is the access at its offset (R3). -/
theorem exec_access (h : accesses i s.host.latch = true) : exec i s = .next (anyAccess (writes i) s) := by
  have read : ∀ {o : BitVec 4} {effect : State → State}, s.host.latch = o → readEffect o = effect →
      readAccess o effect s = anyAccess none s := by
    rintro o effect rfl rfl
    rfl
  have write : ∀ {o : BitVec 4} {b : Byte} {mine : BitVec 4 → Bool} {effect : State → State}, s.host.latch = o →
      mine o = true → writeEffect o b (ignoresSrst s) = effect → writeAccess mine effect s = anyAccess (some b) s := by
    rintro o b mine effect rfl hm rfl
    unfold anyAccess writeAccess
    rw [hm]
  cases i with
  | cmdinRead | rspoutRead | cploutRead | rsplenLowRead | herrRead | flushcntRead =>
    exact congrArg Host.Outcome.next (read (of_decide_eq_true h) rfl)
  | cmdinWrite b | evpendWrite b | evmaskWrite b =>
    exact congrArg Host.Outcome.next (write (of_decide_eq_true h) (by decide) rfl)
  | ignoredWrite b =>
    refine congrArg Host.Outcome.next (write rfl h ?_)
    have hn : ¬ takesWrite s.host.latch = true := by simpa [accesses] using h
    rw [takesWrite_iff] at hn
    unfold writeEffect
    rw [if_neg (by tauto), if_neg (by tauto), if_neg (by tauto), if_neg (by tauto)]
  | abort b | softReset b | rspDiscard b | cplRewind b =>
    obtain ⟨ho, hb⟩ : s.host.latch = 0x4 ∧ _ := by simpa [accesses] using h
    refine congrArg Host.Outcome.next ((if_pos hb).trans ?_)
    exact write ho (by decide) rfl
  | _ => cases h

theorem isRead_iff_writes {o : BitVec 4} (h : accesses i o = true) : isRead i = (writes i).isNone := by
  cases i <;> first | rfl | cases h

/-- The DOZE_WAKE row with an access is the access. -/
theorem exec_dozeWake_access (h : windowLive s = true) (hd : s.power.state = .doze ∨ s.power.entryDue = some .doze)
    (w : Option Byte) : exec (.dozeWake (.access w)) s = .next (anyAccess w s) :=
  congrArg Host.Outcome.next (if_pos ⟨h, hd⟩)

/-- A read with no side effect. -/
theorem performed_plain {o : BitVec 4} (h : plainOffset o = true) (ignored : Bool) (s : State) :
    performed none o ignored s = { s with host := { s.host with dataOut := hostRead s o } } := by
  unfold plainOffset at h
  simp only [ne_eq, Bool.and_eq_true, decide_eq_true_eq] at h
  obtain ⟨⟨⟨⟨⟨h0, h1⟩, h2⟩, ha⟩, hc⟩, hd⟩ := h
  unfold performed readEffect
  rw [if_neg h0, if_neg h1, if_neg h2, if_neg ha, if_neg hc, if_neg hd]
  rfl

/-- The low bits of a byte whose low half is 0. -/
theorem getLsbD_of_low_zero (h : b &&& 0x0F = 0) {k : Nat} (hk : k < 4) : b.getLsbD k = false := by
  have e : (b &&& 0x0F).getLsbD k = false := by rw [h]; exact BitVec.getLsbD_zero
  interval_cases k <;> simpa using e

/-- A write of HCTL that writes no 1 to its four bits does nothing. -/
theorem performed_hctl_none (h : b &&& 0x0F = 0) (ignored : Bool) (s : State) :
    performed (some b) 0x4 ignored s = s := by
  have e : performed (some b) 0x4 ignored s = hctlWrite b ignored s := rfl
  rw [e, hctlWrite_parts (getLsbD_of_low_zero h (by decide)), getLsbD_of_low_zero h (k := 0) (by decide),
    getLsbD_of_low_zero h (k := 2) (by decide), getLsbD_of_low_zero h (k := 3) (by decide)]
  rfl

end Sys2Proof.Machine

namespace Sys2Proof.Machine

open Sys2Proof

variable {s : State} {b : Byte} {i : Instr}

/-! ### Where an access begins -/

theorem nothingDue_parts (h : nothingDue s = true) : s.host.aborting = false ∧ s.power.soft ≠ some .abortSteps ∧
    tailsDue s = none ∧ placingDue s = none ∧ s.power.entryDue = none := by
  unfold nothingDue at h
  simpa [and_assoc] using h

theorem windowLive_of_held {s t : State} (h : t.held = s.held) : windowLive t = windowLive s := by
  have hp : t.power = s.power := congrArg Held.power h
  have hq : t.pins = s.pins := congrArg Held.pins h
  unfold windowLive operating
  rw [hp, hq]

theorem operating_of_windowLive (h : windowLive s = true) : operating s = true := by
  unfold windowLive at h
  exact (Bool.and_eq_true_iff.mp h).1

/-- The wake that an access to a DOZE begins with is an event of its own; of what is held it changes the state alone. -/
theorem beginAccess_doze (hd : s.power.state = .doze) (hn : nothingDue s = true) :
    (beginAccess s).held = { s.held with
      power := { s.power with state := .awake (s.power.remembered.getD .ready) } } := by
  have e : beginAccess s = settle (choose (wake s)) :=
    (if_pos hd).trans (internalEvent_of hn (body := wake) le_rfl)
  rw [e, settle_held, choose_held]
  rfl

/-- Once begun, an access finds nothing more to wake or abandon. -/
theorem anyAccess_begun {u : State} (hl : windowLive u = true) (hd : u.power.state ≠ .doze)
    (he : u.power.entryDue ≠ some .doze) (w : Option Byte) :
    anyAccess w u = performed w u.host.latch (ignoresSrst u) u := by
  rw [anyAccess_live hl, beginAccess_of_accessible ⟨hl, rfl, hd, he⟩]

/-- Whether SRST is ignored matters to no access but a write of SRST. -/
theorem performed_ignored {w : Option Byte} {o : BitVec 4} (h : ∀ b, w = some b → o = 0x4 → b.getLsbD 1 = false)
    (x y : Bool) (s : State) : performed w o x s = performed w o y s := by
  cases w with
  | none => rfl
  | some b =>
    by_cases ho : o = 0x4
    · subst ho
      have hb := h b rfl rfl
      exact (hctlWrite_parts hb x).trans (hctlWrite_parts hb y).symm
    · show writeEffect o b x s = writeEffect o b y s
      unfold writeEffect
      rw [if_neg ho, if_neg ho]

/-- An access to a DOZE is the access to the machine woken (R19, R158). -/
theorem anyAccess_woken (hl : windowLive s = true) (hd : s.power.state = .doze) (hn : nothingDue s = true)
    (w : Option Byte) : windowLive (beginAccess s) = true ∧ (beginAccess s).host = s.host ∧
      anyAccess w (beginAccess s) = anyAccess w s ∧
      anyAccess w s = performed w s.host.latch (ignoresSrst (beginAccess s)) (beginAccess s) := by
  have hheld := beginAccess_doze hd hn
  obtain ⟨-, -, -, -, hent⟩ := nothingDue_parts hn
  have hp : (beginAccess s).power = { s.power with state := .awake (s.power.remembered.getD .ready) } :=
    congrArg Held.power hheld
  have hh : (beginAccess s).host = s.host := congrArg Held.host hheld
  have hlive : windowLive (beginAccess s) = true := by
    have ho := operating_of_windowLive hl
    have hpins : (beginAccess s).pins = s.pins := congrArg Held.pins hheld
    unfold windowLive operating at *
    rw [hp, hpins]
    simpa using ho
  have hign : ignoresSrst (beginAccess s) = ignoresSrst s := by
    unfold ignoresSrst
    rw [hp, hd]
    rfl
  have hs := anyAccess_live hl w
  have hu := anyAccess_begun hlive (by rw [hp]; nofun) (by rw [hp, hent]; nofun) w
  rw [hh, hign] at hu
  exact ⟨hlive, hh, hu.trans hs.symm, hign ▸ hs⟩

/-- Settles O9. Each row is the access at its offset (`exec_access`), which in the dark reads 0xFF,
  in DOZE is the access
to the machine woken, and before an entry is the access to the machine without it. -/
theorem accessesInTheDarkAndInDoze : Obligations.AccessesInTheDarkAndInDoze := by
  refine ⟨fun i s h ha => ?_, fun i s hl hd hn => ?_, fun i s u hl hd he hu => ?_⟩
  · rw [exec_access ha, anyAccess_dark h, isRead_iff_writes ha]
    cases writes i <;> rfl
  · have woken := anyAccess_woken hl hd hn
    have hlatch : (beginAccess s).host.latch = s.host.latch := by rw [(woken none).2.1]
    refine ⟨beginAccess s, beginAccess_doze hd hn, fun ha => ?_, fun hp => ?_, fun b ho hb => ?_⟩
    · obtain ⟨-, -, hu, -⟩ := woken (writes i)
      rw [exec_access ha, exec_dozeWake_access hl (.inl hd), exec_access (s := beginAccess s) (by rwa [hlatch]), hu]
      exact ⟨rfl, rfl⟩
    · obtain ⟨-, -, -, hs⟩ := woken none
      rw [exec_dozeWake_access hl (.inl hd), hs, performed_plain hp, hlatch]
    · obtain ⟨-, -, -, hs⟩ := woken (some b)
      rw [exec_dozeWake_access hl (.inl hd), hs, ho, performed_hctl_none hb]
  · have hb : beginAccess s = u := by
      rw [hu]
      exact (if_neg hd).trans (if_pos he)
    have hlu : windowLive u = true := by rw [hu]; exact hl
    have hlatch : u.host.latch = s.host.latch := by rw [hu]
    have begun := anyAccess_begun hlu (by rw [hu]; exact hd) (by rw [hu]; nofun)
    have live : ∀ w, anyAccess w s = performed w s.host.latch (ignoresSrst s) u := fun w => hb ▸ anyAccess_live hl w
    refine ⟨fun ha hw => ?_, fun hp => ?_, fun b ho => ⟨fun h1 => ?_, fun h0 => ?_⟩⟩
    · have e : anyAccess (writes i) s = anyAccess (writes i) u := by
        rw [live, begun, hlatch]
        exact performed_ignored hw _ _ _
      rw [exec_access ha, exec_dozeWake_access hl (.inr he), exec_access (s := u) (by rwa [hlatch]), e]
      exact ⟨rfl, rfl⟩
    · rw [exec_dozeWake_access hl (.inr he), live, performed_plain hp, hlatch]
    · have hign : ignoresSrst s = true := by simp [ignoresSrst, he]
      have e : anyAccess (some b) s = u := by
        rw [live, ho, hign]
        exact hctlWrite_srst h1 true
      have ha : accesses (.softReset b) s.host.latch = true := by simp [accesses, ho, h1]
      rw [exec_access ha, exec_dozeWake_access hl (.inr he)]
      exact ⟨congrArg Host.Outcome.next e, congrArg Host.Outcome.next e⟩
    · rw [exec_dozeWake_access hl (.inr he), live, ho, performed_hctl_none h0]

end Sys2Proof.Machine

/-!
PROOFS. The Sequencer's part of an abort and of the abort within a soft reset (R39, R170).
-/

namespace Sys2Proof.Machine

open Sys2Proof

variable {s : State}

theorem tailsDue_of_soft (h : s.power.soft = none ∨ s.power.soft = some .abortSteps) : tailsDue s = none := by
  refine tailsDue_none ?_ ?_ <;> obtain h | h := h <;> rw [h] <;> nofun

/-- The abort steps leave no COMMIT between two jobs where there was none. -/
theorem placingDue_aborted {t : State} (h : placingDue s = none)
    (hd : t.sequencer.dispatched = abortedDispatch s.sequencer.dispatched) : placingDue t = none := by
  unfold placingDue at h ⊢
  rw [hd]
  cases hs : s.sequencer.dispatched with
  | none => rfl
  | some d =>
    rw [hs] at h
    obtain ⟨id, tag, opcode, cmd, eager, late, phase⟩ := d
    cases phase with
    | placing q r => cases cmd with
      | commit n a => cases h
      | _ => rfl
    | _ => rfl

theorem abortSteps_power (s : State) : (abortSteps s).power = s.power := congrArg Held.power (abortSteps_spec s).1

theorem endAbort_held (s : State) : (endAbort s).held = { (abortSteps s).held with
    host := { (abortSteps s).host with aborting := false } } := by
  unfold endAbort
  exact signalRoom_held ..

theorem internalEvent_id {v : State} (hd : due s = v)
    (hl : v.sequencer.deferred.length ≤ s.sequencer.deferred.length) :
    internalEvent id s = settle (choose v) := by
  unfold internalEvent hasDeferred
  simp [hd, Nat.not_lt.mpr hl]

theorem due_abort (hl : windowLive s = true) (h : soleDuty s true none none) : due s = endAbort s := by
  obtain ⟨ha, hs, he, hp⟩ := h
  have hpower : (endAbort s).power = s.power := (congrArg Held.power (endAbort_held s)).trans (abortSteps_power s)
  have hplace : placingDue (endAbort s) = none := placingDue_aborted hp (by
    have hd := congrArg Held.dispatched (endAbort_held s)
    exact hd.trans (congrArg Held.dispatched (abortSteps_spec s).1))
  unfold due
  rw [if_pos hl, softTails_none (tailsDue_of_soft (.inl hs))]
  simp only [ha, if_true, hpower, hs, reduceCtorEq, if_false]
  rw [goOnPlacing_none hplace, takeEntry_none (by rw [hpower, he])]

theorem due_softAbort (hl : windowLive s = true) (h : soleDuty s false (some .abortSteps) none) :
    due s = softAbort s := by
  obtain ⟨ha, hs, he, hp⟩ := h
  have hplace : placingDue (softAbort s) = none :=
    placingDue_aborted hp (congrArg Held.dispatched (abortSteps_spec s).1)
  have hent : (softAbort s).power.entryDue = none := by
    show (abortSteps s).power.entryDue = none
    rw [abortSteps_power, he]
  unfold due
  rw [if_pos hl, softTails_none (tailsDue_of_soft (.inr hs))]
  simp only [ha, Bool.false_eq_true, if_false, hs, if_true]
  rw [goOnPlacing_none hplace, takeEntry_none hent]

/-- The end of an event whose last body `v` posts a completion on the records of `s`. -/
theorem posts_of_fresh {v : State} {k : Nat} {c : Completion} (hr : v.cpl.records = s.cpl.records)
    (hf : (k, c) ∈ v.cpl.fresh) : Posts s (settle (choose v)) c := by
  obtain ⟨a, b, h⟩ := (close_spec v).posted k c hf
  exact ⟨a, b, by rw [h, hr]⟩

theorem or_and_self_byte (a b : Byte) : (a ||| b) &&& b = b := by
  ext k hk
  simp +contextual

/-- An abort ends with ROOM pending where a frame finds room (R11, R39). -/
theorem endAbort_room (ha : s.host.aborting = true) (hs : s.power.soft = none) (hi : s.host.assembler = .idle)
    (hq : s.sequencer.queue.length < 8) (hc : s.events.holdClear = false) : Raised (endAbort s) .room := by
  obtain ⟨hheld, -, hev, -⟩ := abortSteps_spec s
  have hhost : (abortSteps s).host = s.host := congrArg Held.host hheld
  have hqueue : (abortSteps s).sequencer.queue = s.sequencer.queue := congrArg Held.queue hheld
  have hr : cmdRoom s = false := by simp [cmdRoom, ha]
  have hr' : cmdRoom { abortSteps s with host := { (abortSteps s).host with aborting := false } } = true := by
    simp [cmdRoom, hhost, hqueue, abortSteps_power, hs, hi, hq]
  unfold endAbort
  dsimp only
  rw [signalRoom_eq, hr, hr', hev, hc]
  exact or_and_self_byte s.events.latched 0x02

theorem locked_of_guard {t : State} (h : t.guard = s.guard) (g : Nat) : locked t g = locked s g := by
  unfold locked
  rw [h]

theorem NoLockedHead.of_guard {t : State} (h : NoLockedHead s) (hg : t.guard = s.guard)
    (hj : t.write.jobs = s.write.jobs) : NoLockedHead t := by
  intro j hm
  rw [locked_of_guard hg]
  exact h j (hj ▸ hm)

theorem endAbort_guard (s : State) : (endAbort s).guard = s.guard := by
  obtain ⟨-, -, -, hg, -⟩ := abortSteps_spec s
  unfold endAbort
  dsimp only
  rw [signalRoom_eq]
  exact hg

theorem endAbort_cpl (s : State) : (endAbort s).cpl = (abortSteps s).cpl := by
  unfold endAbort
  dsimp only
  rw [signalRoom_eq]

theorem endAbort_work (s : State) : SameWork s (endAbort s) := by
  refine (abortSteps_spec s).2.1.trans ?_
  unfold endAbort
  dsimp only
  rw [signalRoom_eq]
  exact ⟨rfl, rfl, rfl⟩

/-- Settles O14: both events are the abort steps (`abortSteps_spec`), closed by `close_spec`. -/
theorem abortEndsInTheNextEvent : Obligations.AbortEndsInTheNextEvent := by
  refine ⟨fun s hl h => ?_, fun s hl h => ?_⟩
  · obtain ⟨hheld, hwork, -, -, -, -, hrec, hposts⟩ := abortSteps_spec s
    have hv := endAbort_work s
    have he : exec .abortSequencerSteps s = .next (settle (choose (endAbort s))) :=
      congrArg Host.Outcome.next ((if_pos ⟨hl, h.1⟩).trans (internalEvent_id (due_abort hl h) (by rw [hv.2.2])))
    refine ⟨_, he, ?_, fun d hd hw => ?_, fun hi hq hc => ?_, fun hj => ?_⟩
    · rw [settle_held, choose_held, endAbort_held, hheld,
        show (abortSteps s).host = s.host from congrArg Held.host hheld]
    · exact posts_of_fresh (by rw [endAbort_cpl, hrec]) (by rw [endAbort_cpl]; exact hposts d hd hw)
    · exact (close_spec _).bits _ (endAbort_room h.1 h.2.1 hi hq hc)
    · exact hv.trans ((close_spec _).work (hj.of_guard (endAbort_guard s) hv.2.1))
  · obtain ⟨hheld, hwork, -, hguard, -, -, hrec, hposts⟩ := abortSteps_spec s
    have he : exec .softResetAbortSteps s = .next (settle (choose (softAbort s))) :=
      congrArg Host.Outcome.next
        ((if_pos ⟨hl, h.2.1⟩).trans (internalEvent_id (due_softAbort hl h) (by rw [← hwork.2.2]; rfl)))
    refine ⟨_, he, ?_, fun d hd hw => posts_of_fresh (v := softAbort s) hrec (hposts d hd hw), fun hj => ?_⟩
    · rw [settle_held, choose_held]
      show { (abortSteps s).held with power := { (abortSteps s).power with soft := some .judgeTails } } = _
      rw [hheld, abortSteps_power]
    · exact SameWork.trans (b := softAbort s) hwork
        ((close_spec (softAbort s)).work (hj.of_guard (t := softAbort s) hguard hwork.2.1))

end Sys2Proof.Machine

/-!
PROOFS. The soft reset's judgement of tails (R171). The statement leaves out what is pending at the Array Engine and a
relocation in progress: a request that claims to be the job's makes the engine's choice of the same event look at the
  head
job's segment, and that segment may be locked though the one its tail stands for is not.
-/

namespace Sys2Proof.Machine

open Sys2Proof

/-- A stream whose tail holds one byte in segment 5. -/
def tailInFive : Stream :=
  { Stream.blank with
    tail := .pos { segment := 5, frame := 0, offset := 1, portions := 0, unprog := 0, image := [0], header := none,
                   ends := [] } }

/-- Segment 5, which is locked, is being replaced by segment 6, which is not; the tail of stream 0 stands in it, and the
pending request is one of the Write Path's. -/
def strayRequest : State :=
  { State.reset with
    power := { State.reset.power with state := .awake .ready, mount := none, soft := some .judgeTails }
    guard := { mode := .active, range := some { low := 5, high := 5, invert := true }, frozen := false, level := true,
               episode := false }
    streams := tailInFive :: List.replicate 7 Stream.blank
    engine := { Engine.fresh with
      request := some { who := .job, op := .erase 7 }
      reloc := some { segment := 5, frame := 0, portion := 0, stream := 0, target := 6, tried := 1, stage := .retiring,
                      damagedFrames := 0 } } }

/-- The tail's job is made and, in the same event, failed by its lock. -/
theorem strayRequest_noJob {t : State} (h : exec .softResetTailSync strayRequest = .next t) : t.write.jobs = [] := by
  cases h
  rfl

/-- Refutes O15, by `strayRequest`: the first clause promises the job that the choice of work has failed. -/
theorem not_softResetProgramsOrDiscardsTails : ¬ Obligations.SoftResetProgramsOrDiscardsTails := by
  rintro ⟨h, -⟩
  obtain ⟨t, ht, -, -, -, hroom, -⟩ := h strayRequest rfl ⟨rfl, rfl, rfl, rfl⟩ rfl rfl (fun j hj => by cases hj) [0] []
    (by decide) (by decide)
  obtain ⟨-, hjobs, -⟩ := hroom (by decide)
  rw [strayRequest_noJob ht] at hjobs
  exact absurd (congrArg List.length hjobs) (by decide)

end Sys2Proof.Machine

/-!
PROOFS. The last event of a soft reset (R172).
-/

namespace Sys2Proof.Machine

open Sys2Proof

variable {s : State}

theorem raise_cpl (e : Event) (s : State) : (raise e s).cpl = s.cpl := congrArg Parts.cpl (raise_parts e s)

theorem addNotice_cpl (n : Notice) (s : State) : (addNotice n s).cpl = s.cpl :=
  congrArg Parts.cpl (addNoticeAt_parts _ n s)

theorem holdWrite_cpl (h : Nat × Nat × Nat) (s : State) : (holdWrite h s).cpl = s.cpl := by
  unfold holdWrite
  split
  · rfl
  · rw [raise_cpl, addNotice_cpl]

theorem startBackgroundErase_cpl (s : State) : (startBackgroundErase s).cpl = s.cpl := by
  unfold startBackgroundErase
  split
  · split <;> rfl
  · rfl

theorem tryCandidates_cpl (again : State → State) (cs : List WorkItem) (s : State) (h : NoLockedHead s) :
    (tryCandidates again cs s).cpl = s.cpl := by
  induction cs generalizing s with
  | nil => exact startBackgroundErase_cpl s
  | cons c cs ih =>
    unfold tryCandidates
    split
    · rename_i x _
      split
      · rw [ih _ (h.later (holdWrite_posting x s).1.held (holdWrite_work x s)), holdWrite_cpl]
      · rw [if_neg (by simp [lockedOut_of_free h])]
        rfl
    · rfl

/-- The choice of work posts nothing where the head job's segment is not locked. -/
theorem choose_cpl (h : NoLockedHead s) : (choose s).cpl = s.cpl := by
  unfold choose chooseWork
  split
  · exact tryCandidates_cpl _ _ s h
  · rfl

theorem withPulse_held (p : Option Pulse) (s : State) :
    (withPulse p s).held = { s.held with time := p.elim s.time (fun x => pulseTime x s) } := by
  cases p with
  | none => rfl
  | some p => exact pulseBody_held p s

theorem withPulse_work (p : Option Pulse) (s : State) : SameWork s (withPulse p s) := by
  cases p with
  | none => exact .refl s
  | some p => exact SameWork.trans (b := { s with time := pulseTime p s }) ⟨rfl, rfl, rfl⟩ (pulseEvents_work p s _)

theorem withPulseEvents_work (p : Option Pulse) (s₀ s : State) : SameWork s (withPulseEvents p s₀ s) := by
  cases p with
  | none => exact .refl s
  | some p => exact pulseEvents_work p s₀ s

theorem withPulseEvents_cpl (p : Option Pulse) (s₀ s : State) : (withPulseEvents p s₀ s).cpl = s.cpl := by
  cases p with
  | none => rfl
  | some p =>
    show (pulseEvents p s₀ s).cpl = s.cpl
    unfold pulseEvents
    dsimp only
    split <;> split <;> simp only [raise_cpl]

/-- What the final event changes of what is held. -/
theorem endSoftReset_held (s : State) : (endSoftReset s).held =
    { s.held with
      host := { s.host with assembler := .idle, herr := 0, flushCnt := 0 }
      queue := [], arm := none, index := 0, rsp := { bytes := [], index := 0 }, staging := none
      power := { s.power with soft := none } } := rfl

/-- The body of the final event, before the engine chooses. -/
def softEnd (p : Option Pulse) (s : State) : State := withPulseEvents p s (endSoftReset (withPulse p s))

theorem softEnd_held (p : Option Pulse) (s : State) : (softEnd p s).held =
    { s.held with
      host := { s.host with assembler := .idle, herr := 0, flushCnt := 0 }
      queue := [], arm := none, index := 0, rsp := { bytes := [], index := 0 }, staging := none
      time := p.elim s.time (fun x => pulseTime x s), power := { s.power with soft := none } } := by
  have hw := withPulse_held p s
  unfold softEnd
  rw [withPulseEvents_held, endSoftReset_held, hw, show (withPulse p s).host = s.host from congrArg Held.host hw,
    show (withPulse p s).power = s.power from congrArg Held.power hw]

/-- Nothing is queued or deferred once the final event has cleared the Sequencer. -/
theorem softEnd_work (p : Option Pulse) {s : State} (hj : s.write.jobs = []) :
    (softEnd p s).write.jobs = [] ∧ (softEnd p s).sequencer.deferred = [] ∧ (softEnd p s).streams = s.streams ∧
      (softEnd p s).cpl = CompletionQueue.empty := by
  obtain ⟨hs, hjobs, hd⟩ := withPulseEvents_work p s (endSoftReset (withPulse p s))
  obtain ⟨hs', hjobs', -⟩ := withPulse_work p s
  exact ⟨hjobs.trans (hjobs'.trans hj), hd, hs.trans hs', withPulseEvents_cpl ..⟩

theorem raised_raise {e : Event} (h : s.events.holdClear = false) : Raised (raise e s) e := by
  unfold raise
  rw [h]
  exact or_and_self_byte ..

theorem raised_mono {t : State} {e : Event} (h : Posting s t) (hr : Raised s e) : Raised t e := h.1.bits _ hr

theorem pulseEvents_raised {p : Pulse} {s₀ : State} (h : s.events.holdClear = false) :
    (wraps p s₀ = true → Raised (pulseEvents p s₀ s) .wrap) ∧
      (matchesAlarm p s₀ = true → Raised (pulseEvents p s₀ s) .alarm) := by
  have hclear : (raise .wrap s).events.holdClear = false := (congrArg Held.holdClear (raise_held .wrap s)).trans h
  unfold pulseEvents
  dsimp only
  refine ⟨fun hw => ?_, fun ha => ?_⟩
  · rw [if_pos hw]
    split
    · exact raised_mono (raise_posting ..) (raised_raise h)
    · exact raised_raise h
  · rw [if_pos ha]
    split
    · exact raised_raise hclear
    · exact raised_raise h

/-- Settles O16: the body is `softEnd`, and with an empty queue the choice of work adds nothing to it. -/
theorem softResetEndsWithEverythingEmpty : Obligations.SoftResetEndsWithEverythingEmpty := by
  intro s p ha hs hd
  have hj : s.write.jobs = [] := by
    unfold drained at hd
    simp only [Bool.and_eq_true, List.isEmpty_iff] at hd
    exact hd.1.1.1
  obtain ⟨hjobs, hdef, hstreams, hcpl⟩ := softEnd_work p hj
  have hfree : NoLockedHead (softEnd p s) := fun j hm => by rw [hjobs] at hm; cases hm
  have hex : exec (.softResetEnd p) s = .next (settle (choose (softEnd p s))) :=
    congrArg Host.Outcome.next (if_pos (by simp [ha, hs, hd]))
  obtain ⟨hwork, -, hwdef⟩ := (close_spec (softEnd p s)).work hfree
  refine ⟨_, hex, ?_, ?_, hwdef.trans hdef, hwork.trans hstreams, fun hg hp => ?_, fun hc x hx => ?_⟩
  · rw [settle_held, choose_held, softEnd_held]
  · rw [settle_records, choose_cpl hfree, hcpl]
    rfl
  · subst hp
    have hcalm := choose_calm hfree (show guarded (softEnd none s) = false from hg)
    rw [(settle_spec _).2.2.2.2.2.1, hcalm.2]
    rfl
  · subst hx
    have hclear : (endSoftReset (withPulse (some x) s)).events.holdClear = false :=
      (congrArg Held.holdClear (withPulse_held (some x) s)).trans hc
    obtain ⟨hw, hal⟩ := pulseEvents_raised (p := x) (s₀ := s) hclear
    exact ⟨fun h => (close_spec _).bits _ (hw h), fun h => (close_spec _).bits _ (hal h)⟩

end Sys2Proof.Machine

/-!
PROOFS. Dispatch's refusals (R21, R25): a malformed frame, and the first fault of the state, the arm and the parameters.
-/

namespace Sys2Proof.Machine

open Sys2Proof

/-! ### The frame that is malformed (R21) -/

theorem badHead_of_queue {s : State} {f : CmdFrame} {rest : List CmdFrame} (hq : s.sequencer.queue = f :: rest)
    (hb : f.oversize = true ∨ decodeCmd f.opcode f.payload = none) : badHead s = some f := by
  unfold badHead
  rw [hq]
  exact if_pos (by simpa [Bool.or_eq_true] using hb)

/-- A malformed frame is taken as a command with no stream parameter would be. -/
theorem postRecord_badFrame (s : State) (f : CmdFrame) :
    postRecord (s.sequencer.nextId + 1) (badCompletion f) (takeHead none s) =
      complete (newDispatched s f .sync) { result := .badFrame } (takenState s f .sync) :=
  congrArg (postRecord (s.sequencer.nextId + 1) (badCompletion f)) (takeHead_eq (u := s) rfl rfl rfl rfl)

theorem badFrame_posts {s : State} {f : CmdFrame} (h : badHead s = some f) (hr : dispatchReady s = true) :
    ∃ t, exec .badFrame s = .next t ∧
      Taken s s t none (some (completionOf f.tag f.opcode 0 false { result := .badFrame })) := by
  refine ⟨_, exec_badFrame h hr, ?_⟩
  rw [postRecord_badFrame]
  exact taken_complete hr rfl rfl rfl rfl rfl rfl rfl rfl rfl

/-! ### The first fault of Figure 2-1 (R25) -/

section

variable {s : State} {c : Cmd}

theorem dispatchFault_refusedState (h : ∃ x, s.power.state = .awake (.restricted x) ∧ refusedIn x c = true) :
    dispatchFault s c = some .refusedState := by
  obtain ⟨x, hx, hr⟩ := h
  unfold dispatchFault
  simp only [hx, hr, if_true]

/-- Where the device's state refuses nothing, the arm and the parameters are judged. -/
theorem dispatchFault_accepted (h : ∀ x, s.power.state = .awake (.restricted x) → refusedIn x c = false) :
    dispatchFault s c =
      if needsArm c = true ∧ s.sequencer.arm ≠ some c.code then some .notArmed
      else if paramsInRange c = false then some .badParam
      else none := by
  unfold dispatchFault
  cases hp : s.power.state with
  | awake a =>
    cases a with
    | ready => simp
    | restricted x => simp [h x hp]
  | _ => simp

/-- A refused command completes with its fault and does nothing else. -/
theorem refused_posts {f : CmdFrame} {r : Result} (h : goodHead s = some (f, c)) (hr : dispatchReady s = true)
    (hf : dispatchFault s c = some r) :
    ∃ t, exec (rowOf c) s = .next t ∧ Taken s s t none (some (reply f c { result := r })) := by
  refine ⟨_, exec_rowOf c hr, ?_⟩
  rw [dispatch_refused h hr hf, afterTake_eq]
  exact taken_complete hr rfl rfl rfl rfl rfl rfl rfl rfl rfl

end

/-- Settles O17: a malformed frame, and each of the three faults, complete in the state they found. -/
theorem dispatchPostsItsFirstFault : Obligations.DispatchPostsItsFirstFault := by
  refine ⟨fun s f rest hq hb hr => badFrame_posts (badHead_of_queue hq hb) hr, fun s f c h hr => ⟨?state, ?others⟩⟩
  case state => exact fun hx => refused_posts h hr (dispatchFault_refusedState hx)
  case others =>
    intro hx
    have hfault := dispatchFault_accepted hx
    refine ⟨fun hn ha => refused_posts h hr ?_, fun ha hp => refused_posts h hr ?_⟩
    · rw [hfault, if_pos ⟨hn, ha⟩]
    · rw [hfault, if_neg (fun k => k.2 (ha k.1)), if_pos hp]

end Sys2Proof.Machine

/-!
PROOFS. The barrier's row (R27, R82), and DEFINE STREAM, DELETE STREAM and FORMAT up to the version they request (R67,
R68, R134).
-/

namespace Sys2Proof.Machine

open Sys2Proof

/-! ### Dispatch rows by their command's own execution -/

section

variable {i : Instr} {s u w : State} {f : CmdFrame} {c : Cmd}

/-- A command whose own execution only completes leaves everything as it found it. -/
theorem completes_unchanged {o : Outcome} (run : Dispatched → State → State) (h : Dispatches s f c) (hi : rowOf c = i)
    (hr : runOf c = run)
    (hw : run (newDispatched s f c) (takenState s f c) = complete (newDispatched s f c) o (takenState s f c)) :
    Completes i s f c o s :=
  completes (w := takenState s f c) h hi (by rw [hr]; exact hw) rfl rfl rfl rfl rfl rfl rfl rfl rfl rfl

/-- A command whose own execution only waits. -/
theorem goesOn_unchanged {p : Phase} (run : Dispatched → State → State) (h : Dispatches s f c) (hi : rowOf c = i)
    (hr : runOf c = run)
    (hw : run (newDispatched s f c) (takenState s f c) = setPhase (newDispatched s f c) p (takenState s f c)) :
    GoesOn i s f c p s :=
  goesOn (w := setPhase (newDispatched s f c) p (takenState s f c)) h hi (by rw [hr]; exact hw)
    rfl rfl rfl rfl rfl rfl rfl rfl rfl rfl

/-- A command whose own execution requests a catalogue version. -/
theorem goesOn_version {v : VersionFor} (run : Dispatched → State → State) (h : Dispatches s f c) (hi : rowOf c = i)
    (hr : runOf c = run)
    (hw : run (newDispatched s f c) (takenState s f c) =
      (setPhase (newDispatched s f c) .version (takenState s f c)).withVersion v) :
    GoesOn i s f c .version (s.withVersion v) :=
  goesOn (w := (setPhase (newDispatched s f c) .version (takenState s f c)).withVersion v) h hi (by rw [hr]; exact hw)
    rfl rfl rfl rfl rfl rfl rfl rfl rfl rfl

end

/-! ### The row of a barrier's end -/

section

variable {s : State} {d : Dispatched} (hw : waiting s = some d) (hp : d.phase = .waitBarrier)
include hw hp

theorem exec_barrierEnd (hm : barrierMet d.cmd s = true) :
    exec .barrierEnd s = .next (settle (choose (afterBarrier d s))) := by
  show execBarrierEnd s = _
  unfold execBarrierEnd
  simp only [hw, hp, hm, and_self, if_true]

theorem exec_barrierEnd_waits (hm : barrierMet d.cmd s = false) : exec .barrierEnd s = .next s := by
  show execBarrierEnd s = _
  unfold execBarrierEnd
  simp only [hw, hp, hm, Bool.false_eq_true, and_false, if_false]

end

/-- A barrier that drains, whose condition holds at the dispatch. -/
theorem drainBarrier_met {d : Dispatched} {s : State} (h : barrierMet d.cmd s = true) :
    drainBarrier d s = afterBarrier d s := if_pos h

theorem drainBarrier_waits {d : Dispatched} {s : State} (h : barrierMet d.cmd s = false) :
    drainBarrier d s = setPhase d .waitBarrier s := if_neg (by simp [h])

/-! ### A version requested (R46) -/

theorem requestVersion_eq (v : VersionFor) (s : State) : requestVersion v s = s.withVersion v := by
  unfold requestVersion handVersion State.withVersion
  cases h : s.catalogue.queue <;> rfl

/-! ### The commands' own executions -/

section

variable {d : Dispatched} {s : State} {n : Nat}

theorem runDefine_exists {mode quota : Nat} {name : List Byte} (hc : d.cmd = .defineStream n mode quota name)
    (h : (streamOf s n).defn ≠ none) : runDefine d s = complete d { result := .streamExists } s := by
  unfold runDefine
  simp [hc, Option.isSome_iff_ne_none, h]

theorem runDefine_guarded {mode quota : Nat} {name : List Byte} (hc : d.cmd = .defineStream n mode quota name)
    (h : (streamOf s n).defn = none) (hg : guarded s = true) :
    runDefine d s = complete d { result := .writeProtected } s := by
  unfold runDefine
  simp [hc, h, hg]

theorem runDefine_asks {mode quota : Nat} {name : List Byte} (hc : d.cmd = .defineStream n mode quota name)
    (h : (streamOf s n).defn = none) (hg : guarded s = false) :
    runDefine d s =
      (setPhase d .version s).withVersion (.define n (if mode = 0 then .linear else .ring) quota name) := by
  unfold runDefine
  simp [hc, h, hg, requestVersion_eq]

theorem runDelete_undefined (hc : d.cmd = .deleteStream n) (h : (streamOf s n).defn = none) :
    runDelete d s = complete d { result := .noStream } s := by
  unfold runDelete
  simp [hc, h]

theorem runDelete_archived (hc : d.cmd = .deleteStream n) (h : (streamOf s n).defn ≠ none)
    (ha : (streamOf s n).state = .archived) : runDelete d s = complete d { result := .refusedState } s := by
  unfold runDelete
  simp [hc, h, ha]

/-- A DELETE STREAM waits for the jobs of its stream (Table 4-5). -/
theorem barrierMet_delete (hc : d.cmd = .deleteStream n) : barrierMet d.cmd s = !hasJobOf s n := by rw [hc]; rfl

theorem afterBarrier_delete (hc : d.cmd = .deleteStream n) :
    afterBarrier d s = if guarded s then complete d { result := .writeProtected } s
      else (setPhase d .version s).withVersion (.delete n) := by
  unfold afterBarrier
  simp only [hc, requestVersion_eq]

theorem drainBarrier_delete (hc : d.cmd = .deleteStream n) (hj : hasJobOf s n = false) :
    drainBarrier d s = if guarded s then complete d { result := .writeProtected } s
      else (setPhase d .version s).withVersion (.delete n) :=
  (drainBarrier_met ((barrierMet_delete hc).trans (by simp [hj]))).trans (afterBarrier_delete hc)

section

variable (hc : d.cmd = .deleteStream n) (h : (streamOf s n).defn ≠ none) (ha : (streamOf s n).state ≠ .archived)
include hc h ha

theorem runDelete_drains : runDelete d s = drainBarrier d s := by
  unfold runDelete
  simp [hc, h, ha]

theorem runDelete_waits (hj : hasJobOf s n = true) : runDelete d s = setPhase d .waitBarrier s :=
  (runDelete_drains hc h ha).trans (drainBarrier_waits ((barrierMet_delete hc).trans (by simp [hj])))

theorem runDelete_guarded (hj : hasJobOf s n = false) (hg : guarded s = true) :
    runDelete d s = complete d { result := .writeProtected } s :=
  ((runDelete_drains hc h ha).trans (drainBarrier_delete hc hj)).trans (if_pos hg)

theorem runDelete_asks (hj : hasJobOf s n = false) (hg : guarded s = false) :
    runDelete d s = (setPhase d .version s).withVersion (.delete n) :=
  ((runDelete_drains hc h ha).trans (drainBarrier_delete hc hj)).trans (if_neg (ne_true_of_eq_false hg))

end

/-- A FORMAT waits for every job (Table 4-5). -/
theorem barrierMet_format (hc : d.cmd = .format) : barrierMet d.cmd s = s.write.jobs.isEmpty := by rw [hc]; rfl

theorem afterBarrier_format (hc : d.cmd = .format) :
    afterBarrier d s = if guarded s then complete d { result := .writeProtected } s
      else (setPhase d .version s).withVersion .format := by
  unfold afterBarrier
  simp only [hc, requestVersion_eq]

theorem runFormat_guarded (h : guarded s = true) : runFormat d s = complete d { result := .writeProtected } s :=
  if_pos h

theorem runFormat_waits (hc : d.cmd = .format) (h : guarded s = false) (hj : s.write.jobs ≠ []) :
    runFormat d s = setPhase d .waitBarrier s := by
  unfold runFormat
  rw [if_neg (ne_true_of_eq_false h), drainBarrier_waits ((barrierMet_format hc).trans (by simpa using hj))]

theorem runFormat_asks (hc : d.cmd = .format) (h : guarded s = false) (hj : s.write.jobs = []) :
    runFormat d s = (setPhase d .version s).withVersion .format := by
  unfold runFormat
  rw [if_neg (ne_true_of_eq_false h), drainBarrier_met ((barrierMet_format hc).trans (by simp [hj])),
    afterBarrier_format hc, if_neg (ne_true_of_eq_false h)]

end

/-! ### The three statements -/

theorem defineStream_asks {s : State} {f : CmdFrame} {n mode quota : Nat} {name : List Byte}
    (h : Dispatches s f (.defineStream n mode quota name)) :
    ((streamOf s n).defn ≠ none →
      Completes .defineStream s f (.defineStream n mode quota name) { result := .streamExists } s) ∧
    ((streamOf s n).defn = none → guarded s = true →
      Completes .defineStream s f (.defineStream n mode quota name) { result := .writeProtected } s) ∧
    ((streamOf s n).defn = none → guarded s = false →
      GoesOn .defineStream s f (.defineStream n mode quota name) .version
        (s.withVersion (.define n (if mode = 0 then .linear else .ring) quota name))) := by
  refine ⟨fun hd => ?_, fun hd hg => ?_, fun hd hg => ?_⟩
  · exact completes_unchanged runDefine h rfl rfl (runDefine_exists rfl hd)
  · exact completes_unchanged runDefine h rfl rfl (runDefine_guarded rfl hd hg)
  · exact goesOn_version runDefine h rfl rfl (runDefine_asks rfl hd hg)

theorem deleteStream_asks {s : State} {f : CmdFrame} {n : Nat} (h : Dispatches s f (.deleteStream n)) :
    ((streamOf s n).defn = none → Completes .deleteStream s f (.deleteStream n) { result := .noStream } s) ∧
    ((streamOf s n).defn ≠ none → (streamOf s n).state = .archived →
      Completes .deleteStream s f (.deleteStream n) { result := .refusedState } s) ∧
    ((streamOf s n).defn ≠ none → (streamOf s n).state ≠ .archived → hasJobOf s n = true →
      GoesOn .deleteStream s f (.deleteStream n) .waitBarrier s) ∧
    ((streamOf s n).defn ≠ none → (streamOf s n).state ≠ .archived → hasJobOf s n = false → guarded s = true →
      Completes .deleteStream s f (.deleteStream n) { result := .writeProtected } s) ∧
    ((streamOf s n).defn ≠ none → (streamOf s n).state ≠ .archived → hasJobOf s n = false → guarded s = false →
      GoesOn .deleteStream s f (.deleteStream n) .version (s.withVersion (.delete n))) := by
  refine ⟨fun hd => ?_, fun hd ha => ?_, fun hd ha hj => ?_, fun hd ha hj hg => ?_, fun hd ha hj hg => ?_⟩
  · exact completes_unchanged runDelete h rfl rfl (runDelete_undefined rfl hd)
  · exact completes_unchanged runDelete h rfl rfl (runDelete_archived rfl hd ha)
  · exact goesOn_unchanged runDelete h rfl rfl (runDelete_waits rfl hd ha hj)
  · exact completes_unchanged runDelete h rfl rfl (runDelete_guarded rfl hd ha hj hg)
  · exact goesOn_version runDelete h rfl rfl (runDelete_asks rfl hd ha hj hg)

theorem deleteStream_barrier_ends {s : State} {d : Dispatched} {n : Nat} (hw : waiting s = some d)
    (hp : d.phase = .waitBarrier) (hc : d.cmd = .deleteStream n) :
    (hasJobOf s n = true → exec .barrierEnd s = .next s) ∧
    (hasJobOf s n = false → guarded s = true → Ends .barrierEnd s d { result := .writeProtected } s) ∧
    (hasJobOf s n = false → guarded s = false → Continues .barrierEnd s d .version (s.withVersion (.delete n))) := by
  have met : hasJobOf s n = false → exec .barrierEnd s = .next (settle (choose (afterBarrier d s))) :=
    fun hj => exec_barrierEnd hw hp ((barrierMet_delete hc).trans (by simp [hj]))
  rw [afterBarrier_delete hc] at met
  refine ⟨fun hj => ?_, fun hj hg => ?_, fun hj hg => ?_⟩
  · exact exec_barrierEnd_waits hw hp ((barrierMet_delete hc).trans (by simp [hj]))
  · rw [if_pos hg] at met
    exact ends (met hj) rfl rfl rfl rfl rfl rfl rfl rfl
  · rw [if_neg (ne_true_of_eq_false hg)] at met
    exact continues (met hj) rfl rfl rfl rfl rfl rfl rfl rfl

theorem format_asks {s : State} {f : CmdFrame} (h : Dispatches s f .format) :
    (guarded s = true → Completes .format s f .format { result := .writeProtected } s) ∧
    (guarded s = false → s.write.jobs ≠ [] → GoesOn .format s f .format .waitBarrier s) ∧
    (guarded s = false → s.write.jobs = [] → GoesOn .format s f .format .version (s.withVersion .format)) := by
  refine ⟨fun hg => ?_, fun hg hj => ?_, fun hg hj => ?_⟩
  · exact completes_unchanged runFormat h rfl rfl (runFormat_guarded hg)
  · exact goesOn_unchanged runFormat h rfl rfl (runFormat_waits rfl hg hj)
  · exact goesOn_version runFormat h rfl rfl (runFormat_asks rfl hg hj)

theorem format_barrier_ends {s : State} {d : Dispatched} (hw : waiting s = some d) (hp : d.phase = .waitBarrier)
    (hc : d.cmd = .format) :
    (s.write.jobs ≠ [] → exec .barrierEnd s = .next s) ∧
    (s.write.jobs = [] → guarded s = true → Ends .barrierEnd s d { result := .writeProtected } s) ∧
    (s.write.jobs = [] → guarded s = false → Continues .barrierEnd s d .version (s.withVersion .format)) := by
  have met : s.write.jobs = [] → exec .barrierEnd s = .next (settle (choose (afterBarrier d s))) :=
    fun hj => exec_barrierEnd hw hp ((barrierMet_format hc).trans (by simpa using hj))
  rw [afterBarrier_format hc] at met
  refine ⟨fun hj => ?_, fun hj hg => ?_, fun hj hg => ?_⟩
  · exact exec_barrierEnd_waits hw hp ((barrierMet_format hc).trans (by simpa using hj))
  · rw [if_pos hg] at met
    exact ends (met hj) rfl rfl rfl rfl rfl rfl rfl rfl
  · rw [if_neg (ne_true_of_eq_false hg)] at met
    exact continues (met hj) rfl rfl rfl rfl rfl rfl rfl rfl

/-- Settles O19, one command after another, at its dispatch and at its barrier's end. -/
theorem catalogueCommandsAskForTheirVersion : Obligations.CatalogueCommandsAskForTheirVersion :=
  ⟨fun _ _ _ _ _ _ h => defineStream_asks h,
    ⟨fun _ _ _ h => deleteStream_asks h, fun _ _ _ hw hp hc => deleteStream_barrier_ends hw hp hc⟩,
    fun _ _ h => format_asks h, fun _ _ hw hp hc => format_barrier_ends hw hp hc⟩

end Sys2Proof.Machine

/-!
PROOFS. ARM (R130), APPEND and CANCEL (R71, R72), and TRIM STREAM (R69).
-/

namespace Sys2Proof.Machine

open Sys2Proof

/-! ### ARM (R130) -/

theorem dispatchFault_arm (s : State) (target check : Byte) :
    dispatchFault s (.arm target check) = if paramsInRange (.arm target check) = true then none else some .badParam :=
  dispatchFault_params_only (c := .arm target check) (fun _ => rfl) rfl s

theorem paramsInRange_arm {target check : Byte} :
    paramsInRange (.arm target check) = true ↔
      (target = 0x49 ∨ target = 0x4A ∨ target = 0x52) ∧ check = ~~~ target := by
  simp [paramsInRange, or_assoc]

theorem runArm_eq {d : Dispatched} {target check : Byte} (hc : d.cmd = .arm target check) (s : State) :
    runArm d s = complete d { result := .done, value := target.toNat }
      { s with sequencer := { s.sequencer with arm := some target } } := by
  unfold runArm
  rw [hc]

/-- The state in which an ARM's record is posted. -/
def armedState (s : State) (f : CmdFrame) (target check : Byte) : State :=
  { takenState s f (.arm target check) with
    sequencer := { takenSequencer s f (.arm target check) with arm := some target } }

theorem arm_arms {s : State} {f : CmdFrame} {target check : Byte} (h : Dispatches s f (.arm target check)) :
    ∃ t, exec .arm s = .next t ∧
      Settled s t { s.held.taken with arm := some target }
        (some (reply f (.arm target check) { result := .done, value := target.toNat })) := by
  have hrun : runOf (.arm target check) (newDispatched s f (.arm target check)) (afterTake s f (.arm target check)) =
      complete (newDispatched s f (.arm target check)) { result := .done, value := target.toNat }
        (armedState s f target check) := by
    rw [afterTake_eq]
    exact runArm_eq (d := newDispatched s f (.arm target check)) rfl _
  have hnear : Near s (armedState s f target check) none := near_taken rfl rfl rfl rfl rfl rfl rfl rfl
  refine ⟨_, exec_rowOf (.arm target check) h.ready, ?_⟩
  rw [dispatch_of h (by rw [hrun, (complete_work ..).2.2]; exact Nat.le_refl _), hrun]
  have hs := (hnear.complete (newDispatched s f (.arm target check)) { result := .done, value := target.toNat }).settled
  rwa [(complete_spec ..).1] at hs

/-- Settles O35: step 5 of Figure 2-1 alone can refuse an ARM, and its own execution sets the arm. -/
theorem armSetsItsTarget : Obligations.ArmSetsItsTarget := by
  intro s f target check hg hr
  refine ⟨fun ht hk => arm_arms ⟨hg, hr, ?_⟩, fun hn => refused_posts hg hr ?_⟩
  · rw [dispatchFault_arm, if_pos (paramsInRange_arm.mpr ⟨ht, hk⟩)]
  · rw [dispatchFault_arm, if_neg (fun hp => hn (paramsInRange_arm.mp hp))]

/-! ### A stream that takes records -/

theorem takesRecords_iff {t : Stream} :
    takesRecords t = true ↔ t.defn ≠ none ∧ (t.state = .opened ∨ ∃ r, t.state = .full r) := by
  unfold takesRecords
  rw [Bool.and_eq_true, Option.isSome_iff_ne_none]
  refine and_congr_right (fun _ => ?_)
  cases t.state <;> simp

theorem takesRecords_accepts {t : Stream} (h : takesRecords t = true) :
    t.defn ≠ none ∧ ¬ (t.state = .archived ∨ t.state = .faulted) := by
  obtain ⟨hd, ho | ⟨r, hf⟩⟩ := takesRecords_iff.mp h
  · exact ⟨hd, by simp [ho]⟩
  · exact ⟨hd, by simp [hf]⟩

/-! ### APPEND and CANCEL (R71, R72) -/

section

variable {d : Dispatched} {s : State} {n : Nat} {data : List Byte}

theorem runAppend_undefined (hc : d.cmd = .append n data) (h : (streamOf s n).defn = none) :
    runAppend d s = complete d { result := .noStream } s := by
  simp [runAppend, hc, h]

theorem runAppend_refused (hc : d.cmd = .append n data) (h : (streamOf s n).defn ≠ none)
    (hs : (streamOf s n).state = .archived ∨ (streamOf s n).state = .faulted) :
    runAppend d s = complete d { result := .refusedState } s := by
  simp [runAppend, hc, h, hs]

/-- APPEND to a stream that takes records, by the Staging Buffer. -/
theorem runAppend_takes (hc : d.cmd = .append n data) (h : takesRecords (streamOf s n) = true) :
    runAppend d s =
      if stagedElsewhere s n = true then complete d { result := .stageBusy } s
      else if 1536 < (stagedPayload s ++ data).length then complete d { result := .tooLong } (s.withStaging none)
      else complete d { result := .done, value := (stagedPayload s ++ data).length }
        (s.withStaging (some { stream := n, bytes := stagedPayload s ++ data, owned := false })) := by
  obtain ⟨hd, hs⟩ := takesRecords_accepts h
  simp only [runAppend, hc, Option.isNone_iff_eq_none, hd, hs, if_false]
  rfl

theorem runCancel_staged {g : Staging} (hc : d.cmd = .cancel n) (h : s.write.staging = some g) (hn : g.stream = n) :
    runCancel d s = complete d { result := .done, value := g.bytes.length } (s.withStaging none) := by
  simp only [runCancel, hc, h, hn, if_true]
  rfl

theorem runCancel_nothing (hc : d.cmd = .cancel n) (h : s.write.staging = none ∨ stagedElsewhere s n = true) :
    runCancel d s = complete d { result := .nothingStaged } s := by
  unfold runCancel
  rw [hc]
  cases hg : s.write.staging with
  | none => rfl
  | some g =>
    have hne : ¬ g.stream = n := by simpa [hg, stagedElsewhere] using h
    simp only [hne, if_false]

end

/-- A command whose own execution replaces the Staging Buffer and completes. -/
theorem completes_withStaging {i : Instr} {s : State} {f : CmdFrame} {c : Cmd} {o : Outcome} {g : Option Staging}
    (run : Dispatched → State → State) (h : Dispatches s f c) (hi : rowOf c = i) (hr : runOf c = run)
    (hw : run (newDispatched s f c) (takenState s f c) =
      complete (newDispatched s f c) o ((takenState s f c).withStaging g)) :
    Completes i s f c o (s.withStaging g) :=
  completes (w := (takenState s f c).withStaging g) h hi (by rw [hr]; exact hw) rfl rfl rfl rfl rfl rfl rfl rfl rfl rfl

/-- Settles O22: each case of `runAppend` and `runCancel` is one clause. -/
theorem appendAndCancelKeepTheStagingBuffer : Obligations.AppendAndCancelKeepTheStagingBuffer := by
  refine ⟨fun s f n data h => ?append, fun s f n h => ?cancel⟩
  case append =>
    refine ⟨fun hd => ?_, fun hd hs => ?_, fun ht hb => ?_, fun ht hb hl => ?_, fun ht hb hl => ?_⟩
    · exact completes_unchanged runAppend h rfl rfl (runAppend_undefined rfl hd)
    · exact completes_unchanged runAppend h rfl rfl (runAppend_refused rfl hd hs)
    · refine completes_unchanged runAppend h rfl rfl ((runAppend_takes rfl ?_).trans (if_pos ?_))
      exacts [ht, hb]
    · refine completes_withStaging runAppend h rfl rfl
        ((runAppend_takes rfl ?_).trans ((if_neg ?_).trans (if_pos ?_)))
      exacts [ht, ne_true_of_eq_false hb, hl]
    · refine completes_withStaging runAppend h rfl rfl
        ((runAppend_takes rfl ?_).trans ((if_neg ?_).trans (if_neg ?_)))
      exacts [ht, ne_true_of_eq_false hb, Nat.not_lt.mpr hl]
  case cancel =>
    refine ⟨fun g hg hn => ?_, fun hs => ?_⟩
    · exact completes_withStaging runCancel h rfl rfl (runCancel_staged rfl hg hn)
    · exact completes_unchanged runCancel h rfl rfl (runCancel_nothing rfl hs)

/-! ### Segments released one after another (R103, R104) -/

/-- The Segment Map entry of a released segment. -/
def releasedEntry (e : SegEntry) : SegEntry := { SegEntry.free with state := .freeStale, weak := e.weak }

/-- The Segment Map and the Free Pool once the segments of these entries were released. -/
def releasedSegments : List ChainEntry → Segments → Segments
  | [], g => g
  | e :: es, g => releasedSegments es
      { map := storePut (fun _ => SegEntry.free) e.segment
          (releasedEntry (storeGet (fun _ => SegEntry.free) g.map e.segment)) g.map
        pool := g.pool ++ [e.segment] }

theorem releaseAll_eq (es : List ChainEntry) (s : State) :
    releaseAll es s = { s with segments := releasedSegments es s.segments } := by
  induction es generalizing s with
  | nil => rfl
  | cons e es ih => exact ih _

theorem releasedSegments_pool (es : List ChainEntry) (g : Segments) :
    (releasedSegments es g).pool = g.pool ++ es.map (fun x => x.segment) := by
  induction es generalizing g with
  | nil => simp [releasedSegments]
  | cons e es ih => rw [releasedSegments, ih]; simp

theorem releasedEntry_ne_free (e : SegEntry) : releasedEntry e ≠ SegEntry.free := by
  simp [releasedEntry, SegEntry.free]

/-- A segment that was not released keeps its entry. -/
theorem releasedSegments_other {es : List ChainEntry} {k : Nat} (h : k ∉ es.map (fun x => x.segment)) (g : Segments) :
    storeGet (fun _ => SegEntry.free) (releasedSegments es g).map k = storeGet (fun _ => SegEntry.free) g.map k := by
  induction es generalizing g with
  | nil => rfl
  | cons e es ih =>
    obtain ⟨hk, hes⟩ := not_or.mp (List.mem_cons.not.mp h)
    rw [releasedSegments, ih hes, storeGet_storePut_other hk]

/-- A released segment is FREE_STALE and has no owner. -/
theorem releasedSegments_stale {es : List ChainEntry} {k : Nat} (h : k ∈ es.map (fun x => x.segment)) (g : Segments) :
    (storeGet (fun _ => SegEntry.free) (releasedSegments es g).map k).state = .freeStale ∧
    (storeGet (fun _ => SegEntry.free) (releasedSegments es g).map k).owner = none := by
  induction es generalizing g with
  | nil => cases h
  | cons e es ih =>
    rw [releasedSegments]
    by_cases hes : k ∈ es.map (fun x => x.segment)
    · exact ih hes _
    · obtain rfl : k = e.segment := (List.mem_cons.mp h).resolve_right hes
      rw [releasedSegments_other hes, storeGet_storePut_listed (releasedEntry_ne_free _)]
      exact ⟨rfl, rfl⟩

/-! ### TRIM STREAM (R69) -/

/-- TRIM STREAM passes over an entry: its records all lie below the sequence, it is not the write segment, and no queued
job targets it. -/
structure Trimmable (s : State) (w : Option ChainEntry) (seq : Nat) (e : ChainEntry) : Prop where
  below : e.last < seq
  notWritten : w ≠ some e
  noJob : hasJobInto s e.segment = false

/-- An entry at which the walk stops without a seal. -/
def Kept (s : State) (w : Option ChainEntry) (seq : Nat) (e : ChainEntry) : Prop :=
  seq ≤ e.last ∨ w = some e ∨ hasJobInto s e.segment = true

section

variable {s : State} {w : Option ChainEntry} {seq : Nat} {e : ChainEntry} {es : List ChainEntry}

theorem trimWalk_kept (h : seq ≤ 1 ∨ Kept s w seq e) : trimWalk s w seq (e :: es) = (0, false) := by
  rw [trimWalk, if_pos]
  obtain h | h | h | h := h
  exacts [.inl h, .inr (.inr (.inr h)), .inr (.inl h), .inr (.inr (.inl h))]

theorem trimWalk_trimmable (hq : 1 < seq) (h : Trimmable s w seq e) :
    trimWalk s w seq (e :: es) =
      if e.isSealed then (0, true) else ((trimWalk s w seq es).1 + 1, (trimWalk s w seq es).2) := by
  rw [trimWalk, if_neg]
  obtain ⟨hb, hw, hj⟩ := h
  rintro (k | k | k | k)
  exacts [Nat.not_lt.mpr k hq, hw k, ne_true_of_eq_false hj k, Nat.not_lt.mpr k hb]

/-- The walk passes over every unsealed entry that it may release. -/
theorem trimWalk_append (hq : 1 < seq) {gone : List ChainEntry}
    (h : ∀ x ∈ gone, x.isSealed = false ∧ Trimmable s w seq x) :
    (trimWalk s w seq (gone ++ es)).1 = gone.length + (trimWalk s w seq es).1 := by
  induction gone with
  | nil => simp
  | cons x gone ih =>
    obtain ⟨hx, hgone⟩ := List.forall_mem_cons.mp h
    rw [List.cons_append, trimWalk_trimmable hq hx.2, hx.1, if_neg Bool.false_ne_true, List.length_cons]
    dsimp only
    rw [ih hgone]
    omega

/-- The walk stops at an entry that is SEALED or that it may not release. -/
theorem trimWalk_stops (hq : 1 < seq) (h : e.isSealed = true ∨ Kept s w seq e) :
    (trimWalk s w seq (e :: es)).1 = 0 := by
  by_cases hk : Kept s w seq e
  · rw [trimWalk_kept (.inr hk)]
  · have hs : e.isSealed = true := h.resolve_right hk
    obtain ⟨hb, hw, hj⟩ : ¬ seq ≤ e.last ∧ ¬ w = some e ∧ ¬ hasJobInto s e.segment = true := by
      simpa only [Kept, not_or] using hk
    rw [trimWalk_trimmable hq ⟨Nat.not_le.mp hb, hw, eq_false_of_ne_true hj⟩, if_pos hs]

end

theorem oldestHeld_eq (t : Stream) : oldestHeld t = if 1 ≤ t.oldest ∧ t.oldest ≤ t.newest then t.oldest else 0 := by
  simp [oldestHeld, holdsRecord]

/-- The machine after TRIM STREAM released the `k` oldest entries of a stream. -/
def State.withTrimmed (s : State) (n k : Nat) : State :=
  { s with
    streams := s.streams.set n (trimmedStream k (streamOf s n))
    segments := releasedSegments ((streamOf s n).chain.take k) s.segments }

section

variable {d : Dispatched} {s : State} {n seq : Nat}

theorem runTrim_undefined (hc : d.cmd = .trimStream n seq) (h : (streamOf s n).defn = none) :
    runTrim d s = complete d { result := .noStream } s := by
  simp [runTrim, hc, h]

theorem runTrim_refused (hc : d.cmd = .trimStream n seq) (h : (streamOf s n).defn ≠ none)
    (hs : (streamOf s n).state = .archived ∨ (streamOf s n).state = .faulted) :
    runTrim d s = complete d { result := .refusedState } s := by
  simp [runTrim, hc, h, hs]

/-- TRIM STREAM of a stream that takes records, by its walk. -/
theorem runTrim_walks (hc : d.cmd = .trimStream n seq) (h : takesRecords (streamOf s n) = true)
    {r : Nat × Bool} (hr : trimWalk s (writeEntry s (streamOf s n)) seq (streamOf s n).chain = r) :
    runTrim d s =
      if r.1 = 0 ∧ r.2 = true then
        complete d { result := .headSealed, value := 0, aux := oldestHeld (streamOf s n) } s
      else complete d { result := .done, value := r.1, aux := oldestHeld (trimmedStream r.1 (streamOf s n)) }
        (s.withTrimmed n r.1) := by
  obtain ⟨hd, hs⟩ := takesRecords_accepts h
  simp only [runTrim, hc, Option.isNone_iff_eq_none, hd, hs, if_false, hr, releaseAll_eq]
  rfl

end

/-- A walk that releases nothing leaves the machine. -/
theorem withTrimmed_zero (s : State) (n : Nat) : s.withTrimmed n 0 = s := by
  have h : trimmedStream 0 (streamOf s n) = streamOf s n := if_pos rfl
  have hset := setStream_self n s
  unfold State.withTrimmed
  rw [h, List.take_zero]
  exact hset

section

variable {s : State} {f : CmdFrame} {n seq : Nat} (h : Dispatches s f (.trimStream n seq))
include h

omit h in
/-- The walk looks at no part of the state that the taking of the frame changed. -/
theorem trimWalk_taken (c : Cmd) (w : Option ChainEntry) (es : List ChainEntry) :
    trimWalk (takenState s f c) w seq es = trimWalk s w seq es := by
  induction es with
  | nil => rfl
  | cons e es ih => rw [trimWalk, ih]; rfl

/-- TRIM STREAM's row where its walk does not stop at a seal at once. -/
theorem completes_trim (ht : takesRecords (streamOf s n) = true) {r : Nat × Bool}
    (hr : trimWalk s (writeEntry s (streamOf s n)) seq (streamOf s n).chain = r) (hn : ¬ (r.1 = 0 ∧ r.2 = true)) :
    Completes .trimStream s f (.trimStream n seq)
      { result := .done, value := r.1, aux := oldestHeld (trimmedStream r.1 (streamOf s n)) }
      (s.withTrimmed n r.1) := by
  have hw : runTrim (newDispatched s f (.trimStream n seq)) (takenState s f (.trimStream n seq)) =
      complete (newDispatched s f (.trimStream n seq)) _ ((takenState s f (.trimStream n seq)).withTrimmed n r.1) :=
    (runTrim_walks (d := newDispatched s f (.trimStream n seq)) (s := takenState s f (.trimStream n seq)) rfl ht
      ((trimWalk_taken ..).trans hr)).trans (if_neg hn)
  exact completes h rfl hw rfl rfl rfl rfl rfl rfl rfl rfl rfl rfl

theorem completes_trim_sealed (ht : takesRecords (streamOf s n) = true)
    (hr : trimWalk s (writeEntry s (streamOf s n)) seq (streamOf s n).chain = (0, true)) :
    Completes .trimStream s f (.trimStream n seq)
      { result := .headSealed, value := 0, aux := oldestHeld (streamOf s n) } s :=
  completes_unchanged runTrim h rfl rfl
    ((runTrim_walks (d := newDispatched s f (.trimStream n seq)) (s := takenState s f (.trimStream n seq)) rfl ht
      ((trimWalk_taken ..).trans hr)).trans (if_pos ⟨rfl, rfl⟩))

/-- TRIM STREAM that releases nothing. -/
theorem completes_trim_nothing (ht : takesRecords (streamOf s n) = true)
    (hr : trimWalk s (writeEntry s (streamOf s n)) seq (streamOf s n).chain = (0, false)) :
    Completes .trimStream s f (.trimStream n seq)
      { result := .done, value := 0, aux := oldestHeld (streamOf s n) } s := by
  have k := completes_trim h ht hr (by simp)
  rwa [withTrimmed_zero, show trimmedStream (0, false).1 (streamOf s n) = streamOf s n from if_pos rfl] at k

end

/-- A stream's entry after a release of at least one segment. -/
theorem trimmedStream_pos {k : Nat} (h : k ≠ 0) (t : Stream) :
    trimmedStream k t =
      { t with chain := t.chain.drop k, oldest := ((t.chain.drop k).head?.map (fun e => e.first)).getD 0,
               state := if t.state = .full .quota then .opened else t.state, tail := tailOf (t.chain.drop k) t.tail } :=
  if_neg h

/-- TRIM STREAM releases the entries before the first that stays, or the whole chain. -/
theorem trim_releases {s : State} {f : CmdFrame} {n seq : Nat} (h : Dispatches s f (.trimStream n seq))
    (ht : takesRecords (streamOf s n) = true) (hq : 1 < seq) {gone rest : List ChainEntry}
    (hchain : (streamOf s n).chain = gone ++ rest) (hne : gone ≠ [])
    (hgone : ∀ x ∈ gone, x.isSealed = false ∧ x.last < seq ∧ writeEntry s (streamOf s n) ≠ some x ∧
      hasJobInto s x.segment = false)
    (hrest : (trimWalk s (writeEntry s (streamOf s n)) seq rest).1 = 0) :
    Completes .trimStream s f (.trimStream n seq)
      { result := .done, value := gone.length, aux := oldestHeld (trimmedStream gone.length (streamOf s n)) }
      (s.withTrimmed n gone.length) := by
  have hlen : (trimWalk s (writeEntry s (streamOf s n)) seq (streamOf s n).chain).1 = gone.length := by
    rw [hchain, trimWalk_append hq fun x hx => ?_, hrest, Nat.add_zero]
    obtain ⟨hs, hb, hw, hj⟩ := hgone x hx
    exact ⟨hs, hb, hw, hj⟩
  have hpos : gone.length ≠ 0 := by simpa using hne
  have k := completes_trim h ht rfl (fun hz => hpos (hlen.symm.trans hz.1))
  rwa [hlen] at k

/-- Settles O21: the walk of `trimWalk` decides the case, and `releasedSegments` says what became of the segments. -/
theorem trimStreamReleasesFromTheOldest : Obligations.TrimStreamReleasesFromTheOldest := by
  intro s f n seq h
  refine ⟨fun hd => ?undefined, fun hd hs => ?refused, fun ht hq e es hc hs hb hw hj => ?head, fun ht hk => ?nothing,
    fun ht hq gone e es hc hne hgone he => ?part, fun ht hq hne hall => ?whole⟩
  case undefined => exact completes_unchanged runTrim h rfl rfl (runTrim_undefined rfl hd)
  case refused => exact completes_unchanged runTrim h rfl rfl (runTrim_refused rfl hd hs)
  case head =>
    refine completes_trim_sealed h ht ?_
    rw [hc, trimWalk_trimmable hq ⟨hb, hw, hj⟩, if_pos hs]
  case nothing =>
    refine completes_trim_nothing h ht ?_
    cases hc : (streamOf s n).chain with
    | nil => rfl
    | cons e es => exact trimWalk_kept (hk.imp_right fun hall => hall e (by rw [hc]; rfl))
  case part =>
    have hpos : gone.length ≠ 0 := by simpa using hne
    have htrim := trimmedStream_pos hpos (streamOf s n)
    rw [hc, List.drop_left] at htrim
    have htake : (streamOf s n).chain.take gone.length = gone := by rw [hc, List.take_left]
    refine ⟨s.withTrimmed n gone.length, ?_, ?_, ?_, fun x hx => ?_, fun g hg => ?_, rfl, rfl⟩
    · have k := trim_releases h ht hq hc hne hgone (trimWalk_stops hq he)
      rwa [htrim, oldestHeld_eq] at k
    · rw [State.withTrimmed, htrim]
      rfl
    · show (releasedSegments _ s.segments).pool = _
      rw [htake]
      exact releasedSegments_pool ..
    · have k := releasedSegments_stale (List.mem_map_of_mem hx) s.segments
      rwa [← htake] at k
    · have k := releasedSegments_other hg s.segments
      rwa [← htake] at k
  case whole =>
    have hpos : (streamOf s n).chain.length ≠ 0 := by simpa using hne
    have htrim := trimmedStream_pos hpos (streamOf s n)
    rw [List.drop_length] at htrim
    have htake : (streamOf s n).chain.take (streamOf s n).chain.length = (streamOf s n).chain := List.take_length
    refine ⟨s.withTrimmed n (streamOf s n).chain.length, ?_, ?_, ?_, fun x hx => ?_, rfl, rfl⟩
    · have k := trim_releases h ht hq (List.append_nil _).symm hne hall rfl
      rwa [htrim, oldestHeld_eq] at k
    · rw [State.withTrimmed, htrim]
      rfl
    · show (releasedSegments _ s.segments).pool = _
      rw [htake]
      exact releasedSegments_pool ..
    · have k := (releasedSegments_stale (List.mem_map_of_mem hx) s.segments).1
      rwa [← htake] at k

end Sys2Proof.Machine

/-!
PROOFS. A record header and the walk's step over it (R89, R115): what a header's fields read back as, and a record found
where its header and payload lie whole in one frame's view.
-/

namespace Sys2Proof.Machine

open Sys2Proof

/-! ### The fields of a record header (Table 4-2) -/

section

variable (length : Nat) (attr epoch : Byte) (seq : Nat) (ticks : Word32) (untimed resumed : Bool) (stream : Nat)

theorem headerBody_length : (headerBody length attr epoch seq ticks untimed resumed stream).length = 14 := rfl

theorem recordHeader_length : (recordHeader length attr epoch seq ticks untimed resumed stream).length = 16 := rfl

theorem recordHeader_body : (recordHeader length attr epoch seq ticks untimed resumed stream).take 14 =
    headerBody length attr epoch seq ticks untimed resumed stream := rfl

theorem recordHeader_check : ((recordHeader length attr epoch seq ticks untimed resumed stream).drop 14).take 2 =
    leBytes 2 (headerCheck (headerBody length attr epoch seq ticks untimed resumed stream)).toNat := rfl

theorem headerLength_recordHeader (h : length ≤ 1536) :
    headerLength (recordHeader length attr epoch seq ticks untimed resumed stream) = length :=
  leNat_leBytes 2 length (by omega)

theorem headerSeq_recordHeader (h : seq < 4294967296) :
    headerSeq (recordHeader length attr epoch seq ticks untimed resumed stream) = seq :=
  leNat_leBytes 4 seq h

theorem headerStream_recordHeader (h : stream < 8) :
    headerStream (recordHeader length attr epoch seq ticks untimed resumed stream) = stream := by
  show (BitVec.ofNat 8 stream).toNat = stream
  rw [BitVec.toNat_ofNat, Nat.mod_eq_of_lt (by omega)]

/-- A header is valid for the walk that expects its sequence in its stream. -/
theorem headerValid_recordHeader (hl : length ≤ 1536) (hq : seq < 4294967296) (hn : stream < 8) :
    headerValid stream seq (recordHeader length attr epoch seq ticks untimed resumed stream) = true := by
  have hcheck : leNat (((recordHeader length attr epoch seq ticks untimed resumed stream).drop 14).take 2) =
      (headerCheck ((recordHeader length attr epoch seq ticks untimed resumed stream).take 14)).toNat := by
    rw [recordHeader_check, recordHeader_body]
    exact leNat_leBytes 2 _ (headerCheck _).isLt
  simp only [headerValid, recordHeader_length, hcheck, headerStream_recordHeader _ _ _ _ _ _ _ _ hn,
    headerSeq_recordHeader _ _ _ _ _ _ _ _ hq, headerLength_recordHeader _ _ _ _ _ _ _ _ hl, decide_true,
    Bool.and_self, Bool.true_and, decide_eq_true_eq]
  exact hl

end

/-! ### Bytes gathered within one frame (R89) -/

/-- Bytes that lie in one frame's view are gathered from it alone. -/
theorem gather_within {vs : List (Nat × View)} {frame offset n : Nat} {v : View} (fuel : Nat)
    (hv : viewOf vs frame = some v) (hn : n ≤ v.bytes.length - offset) :
    gather vs (fuel + 1) frame offset n =
      some { bytes := (v.bytes.drop offset).take n,
             pieces := if n = 0 then [] else [{ frame := frame, lo := offset, hi := offset + n }],
             frame := frame, offset := offset + n } := by
  simp only [gather, hv, if_pos hn]

/-- A whole record whose header and payload lie in one view, as a walk gathers it. -/
def gatheredAt (frame offset : Nat) (record : List Byte) : Gathered :=
  { bytes := record, pieces := [{ frame := frame, lo := offset, hi := offset + record.length }], frame := frame,
    offset := offset + record.length }

/-- A record lies in these bytes between what precedes and what follows it. -/
structure RecordIn (bytes before : List Byte) (header payload after : List Byte) (stream seq : Nat) : Prop where
  image : bytes = before ++ header ++ payload ++ after
  header_length : header.length = 16
  valid : headerValid stream seq header = true
  length : headerLength header = payload.length

theorem RecordIn.bytes_length {bytes before header payload after : List Byte} {stream seq : Nat}
    (h : RecordIn bytes before header payload after stream seq) :
    bytes.length = before.length + 16 + payload.length + after.length := by
  rw [h.image]
  simp only [List.length_append, h.header_length]

section

variable {vs : List (Nat × View)} {frame stream seq : Nat} {v : View} {before header payload after : List Byte}
  (hv : viewOf vs frame = some v) (hr : RecordIn v.bytes before header payload after stream seq)
include hv hr

theorem gather_header (fuel : Nat) :
    ∃ g, gather vs (fuel + 1) frame before.length 16 = some g ∧ g.bytes = header := by
  have hl := hr.bytes_length
  refine ⟨_, gather_within fuel hv (by omega), ?_⟩
  show (v.bytes.drop before.length).take 16 = header
  rw [hr.image, List.append_assoc, List.append_assoc, List.drop_left, ← hr.header_length, List.take_left]

theorem gather_record (fuel : Nat) :
    gather vs (fuel + 1) frame before.length (16 + headerLength header) =
      some (gatheredAt frame before.length (header ++ payload)) := by
  have hl := hr.bytes_length
  have hlen : (header ++ payload).length = 16 + payload.length := by simp [hr.header_length]
  have hbytes : (v.bytes.drop before.length).take (16 + payload.length) = header ++ payload := by
    rw [hr.image, List.append_assoc, List.append_assoc, List.drop_left, ← hlen, ← List.append_assoc, List.take_left]
  rw [hr.length, gather_within fuel hv (by omega), hbytes, if_neg (by omega), gatheredAt, hlen]

/-- The walk's first hit is the record that begins where it starts. -/
theorem walk_first (fuel : Nat) (hp : v.lastPad = false) :
    ∃ hits, (walk vs stream (fuel + 1) frame before.length seq).1 =
      { frame := frame, offset := before.length, seq := seq,
        record := some (gatheredAt frame before.length (header ++ payload)) } :: hits := by
  have hl := hr.bytes_length
  obtain ⟨g, hg, hgb⟩ := gather_header hv hr 33
  have hne : v.bytes.isEmpty = false := by
    rw [List.isEmpty_eq_false_iff]
    exact List.ne_nil_of_length_pos (by omega)
  have hend : recordsEnd v before.length = false := by
    simp only [recordsEnd, hp, Bool.false_and, Bool.or_false, decide_eq_false_iff_not]
    omega
  have hvalid : headerValid stream seq g.bytes = true := by rw [hgb]; exact hr.valid
  have hrec : gather vs 34 frame before.length (16 + headerLength g.bytes) =
      some (gatheredAt frame before.length (header ++ payload)) := by rw [hgb]; exact gather_record hv hr 33
  rw [walk]
  simp only [hv, hne, hend, hg, hvalid, hrec, if_true, Bool.false_eq_true, if_false]
  exact ⟨_, rfl⟩

/-- The record that begins at the start point is the one found. -/
theorem findRecord_first (fuel : Nat) (hp : v.lastPad = false) :
    findRecord vs stream seq (fuel + 1) frame before.length seq =
      some (gatheredAt frame before.length (header ++ payload)) := by
  obtain ⟨hits, hw⟩ := walk_first hv hr 1099 hp
  have hw' : (walk vs stream walkFuel frame before.length seq).1 = _ := hw
  unfold findRecord
  simp only [hw', List.find?_cons, Option.isSome_some, decide_true, Bool.and_self]

omit hr in
/-- A view without medium portions leaves its records CLEAN. -/
theorem recordGrade_clean (offset : Nat) (record : List Byte) (hs : v.stretches = []) :
    recordGrade vs (gatheredAt frame offset record) = .clean := by
  simp only [recordGrade, gatheredAt, List.foldl_cons, List.foldl_nil, pieceGrade, hv, hs, worse]
  rfl

end

end Sys2Proof.Machine

/-!
PROOFS. READ RECORD and READ NEXT past their wait (R87 to R96), up to the first READ of a lookup, the delivery from the
tail, or the completion.
-/

namespace Sys2Proof.Machine

open Sys2Proof

/-! ### A lookup's frames (R89) -/

/-- The lookup with one more view gathered. -/
def Lookup.withView (l : Lookup) (frame : Nat) (v : View) : Lookup := { l with views := (frame, v) :: l.views }

section

variable {d : Dispatched} {l : Lookup} {s : State}

/-- A frame that needs no READ, and whose start point serves, ends the search. -/
theorem searchFrames_here {k o q : Nat} {v : View} (hn : needsNoRead l k = true) (hv : composeView l k emptyRead = v)
    (hs : v.start = some (o, q)) (hq : q ≤ l.seq) :
    searchFrames d l (k + 1) s = concludeLookup d (l.withView k v) (some (k, o, q)) s := by
  rw [searchFrames]
  simp only [hn, if_true, hv, hs, if_pos hq]
  rfl

/-- A frame that needs a READ requests it. -/
theorem searchFrames_reads {k : Nat} (hn : needsNoRead l k = false) :
    searchFrames d l (k + 1) s =
      setPhase d (.lookup { l with frame := k }) (s.withRequest .sequencer (.read l.segment k 0 512)) := by
  rw [searchFrames, hn]
  rfl

theorem concludeLookup_found {f o q : Nat} {g : Gathered} (h : findRecord l.views l.stream l.seq 33 f o q = some g) :
    concludeLookup d l (some (f, o, q)) s = deliver d l g (recordGrade l.views g) s := by
  simp only [concludeLookup, Option.bind_some, h]

theorem concludeLookup_lost {f o q : Nat} (h : findRecord l.views l.stream l.seq 33 f o q = none) :
    concludeLookup d l (some (f, o, q)) s = complete d { result := .lost, value := l.seq } s := by
  simp only [concludeLookup, Option.bind_some, h]

/-! ### Delivery (R91, R92) -/

/-- AUX of a delivery: READ RECORD tells the class (Table 2-6). -/
def deliveryAux (c : Cmd) (grade : Grade) : Nat :=
  match c with | .readRecord _ _ => gradeCode grade | _ => 0

/-- A record that is not BROKEN, where no new weak mark is set. -/
theorem deliver_unmarked {g : Gathered} {grade : Grade} (hb : grade ≠ .broken)
    (hm : grade = .major → (segOf s l.segment).weak = true) :
    deliver d l g grade s =
      if l.skip = 0 then
        complete d { result := .done, response := true, value := l.seq, aux := deliveryAux d.cmd grade }
          (s.withResponse g.bytes)
      else
        complete d { result := .skipped, response := true, value := l.seq, aux := l.skip }
          (s.withResponse g.bytes) := by
  cases grade with
  | broken => exact absurd rfl hb
  | major =>
    simp only [deliver, true_and, hm rfl, Bool.true_eq_false, if_false]
    rfl
  | clean => rfl
  | minor => rfl

end

/-! ### The beginning of a lookup (R88, R89) -/

/-- The lookup of a record in a chain entry away from the tail and the queue, at its first READ. -/
def freshLookup (n seq skip segment : Nat) : Lookup :=
  { stream := n, seq := seq, skip := skip, segment := segment, tail := none, jobs := [], frame := 31, views := [] }

section

variable {d : Dispatched} {n seq skip : Nat} {s : State}

/-- A sequence that no chain entry holds is LOST. -/
theorem startLookup_lost (h : ∀ e ∈ (streamOf s n).chain, seq < e.first ∨ e.last < seq) :
    startLookup d n seq skip s = complete d { result := .lost, value := seq } s := by
  have hnone : (streamOf s n).chain.find? (fun e => e.first ≤ seq && seq ≤ e.last) = none := by
    rw [List.find?_eq_none]
    intro e he
    have := h e he
    simp only [Bool.and_eq_true, decide_eq_true_eq]
    omega
  unfold startLookup
  simp only [hnone]

/-- The tail that a lookup in this segment captures (R88). -/
def capturedTail (s : State) (n g : Nat) : Option TailPos :=
  match (streamOf s n).tail with
  | .pos p => if aliasSegment s p.segment = g then some p else none
  | _ => none

theorem capturedTail_none {g : Nat} (h : ∀ p, (streamOf s n).tail = .pos p → aliasSegment s p.segment ≠ g) :
    capturedTail s n g = none := by
  unfold capturedTail
  split
  · rename_i p hp; exact if_neg (h p hp)
  · rfl

theorem capturedTail_pos {g : Nat} {p : TailPos} (h : (streamOf s n).tail = .pos p)
    (ha : aliasSegment s p.segment = g) : capturedTail s n g = some p := by
  simp only [capturedTail, h, if_pos ha]

/-- The queued jobs that a lookup in this segment captures (R88). -/
def capturedJobs (s : State) (n g : Nat) : List Job :=
  s.write.jobs.filter (fun j => j.stream = some n && aliasSegment s j.segment = g)

theorem capturedJobs_nil {g : Nat} (h : hasJobInto s g = false) : capturedJobs s n g = [] := by
  unfold capturedJobs
  rw [List.filter_eq_nil_iff]
  intro j hj
  have hnot := List.any_eq_false.mp h j hj
  simp only [decide_eq_true_eq] at hnot
  simp [hnot]

/-- What a lookup captures as it begins (R88). -/
def begunLookup (s : State) (n seq skip g : Nat) : Lookup :=
  { stream := n, seq := seq, skip := skip, segment := g, tail := capturedTail s n g, jobs := capturedJobs s n g,
    frame := 0, views := [] }

variable {e : ChainEntry} (he : (streamOf s n).chain.find? (fun x => x.first ≤ seq && seq ≤ x.last) = some e)
include he

theorem startLookup_found : startLookup d n seq skip s =
    searchFrames d (begunLookup s n seq skip e.segment)
      (((capturedTail s n e.segment).map (fun p => p.frame + 1)).getD 32) s := by
  unfold startLookup
  simp only [he]
  rfl

/-- A lookup away from the tail and the queue begins with the READ of the highest frame (R89). -/
theorem startLookup_away (ht : ∀ p, (streamOf s n).tail = .pos p → aliasSegment s p.segment ≠ e.segment)
    (hj : hasJobInto s e.segment = false) :
    startLookup d n seq skip s = setPhase d (.lookup (freshLookup n seq skip e.segment))
      (s.withRequest .sequencer (.read e.segment 31 0 512)) := by
  rw [startLookup_found he, begunLookup, capturedTail_none ht, capturedJobs_nil hj]
  rfl

/-- A record still in the tail image is delivered, without a READ (R86, R92). -/
theorem startLookup_tail {p : TailPos} {before header payload after : List Byte} (ht : (streamOf s n).tail = .pos p)
    (ha : aliasSegment s p.segment = e.segment) (hh : p.header = some (before.length, seq))
    (hr : RecordIn p.image before header payload after n seq) :
    startLookup d n seq 0 s =
      complete d { result := .done, response := true, value := seq, aux := 0 }
        (s.withResponse (header ++ payload)) := by
  have hcapt := capturedTail_pos ht ha
  obtain ⟨v, hview⟩ : ∃ v, composeView (begunLookup s n seq 0 e.segment) p.frame emptyRead = v := ⟨_, rfl⟩
  obtain ⟨hbytes, hstart, hpad, hstr⟩ :
      v.bytes = p.image ∧ v.start = some (before.length, seq) ∧ v.lastPad = false ∧ v.stretches = [] := by
    rw [← hview]
    simp [composeView, begunLookup, hcapt, tailView, hh]
  have hof : viewOf [(p.frame, v)] p.frame = some v := by simp [viewOf]
  have hneeds : needsNoRead (begunLookup s n seq 0 e.segment) p.frame = true := by
    simp [needsNoRead, begunLookup, hcapt]
  rw [← hbytes] at hr
  have hfound := findRecord_first hof hr 32 hpad
  have hclean := recordGrade_clean hof before.length (header ++ payload) hstr
  calc startLookup d n seq 0 s
      = searchFrames d (begunLookup s n seq 0 e.segment) (p.frame + 1) s := by
        rw [startLookup_found he, hcapt]; rfl
    _ = concludeLookup d ((begunLookup s n seq 0 e.segment).withView p.frame v)
          (some (p.frame, before.length, seq)) s :=
        searchFrames_here hneeds hview hstart (Nat.le_refl seq)
    _ = deliver d ((begunLookup s n seq 0 e.segment).withView p.frame v)
          (gatheredAt p.frame before.length (header ++ payload)) .clean s :=
        (concludeLookup_found hfound).trans (congrArg (deliver d _ _ · s) hclean)
    _ = complete d { result := .done, response := true, value := seq, aux := deliveryAux d.cmd .clean }
          (s.withResponse (header ++ payload)) :=
        (deliver_unmarked (by simp) (by simp)).trans (if_pos rfl)
    _ = _ := by rw [show deliveryAux d.cmd .clean = 0 by cases d.cmd <;> rfl]

end

end Sys2Proof.Machine

/-!
PROOFS. The own executions of the responding commands, case by case, and the statements that follow from them: QUERY
STREAM (R70), READ RECORD and READ NEXT (R93, R96), SEGMENT STATUS (R127), VAULT READ (R137), READ NOTICES (R154), and
the wait for the Response Buffer (R37).
-/

namespace Sys2Proof.Machine

open Sys2Proof

/-! ### READ RECORD and READ NEXT before a lookup (R93, R96) -/

section

variable {d : Dispatched} {n seq : Nat} {s : State}

theorem runReadRecord_undefined (h : (streamOf s n).defn = none) :
    runReadRecord d n seq s = complete d { result := .noStream } s := by
  simp [runReadRecord, h]

section

variable (h : (streamOf s n).defn ≠ none)
include h

theorem runReadRecord_gone (hr : holdsRecord (streamOf s n) = true) (hq : seq < (streamOf s n).oldest) :
    runReadRecord d n seq s = complete d { result := .gone } s := by
  simp [runReadRecord, h, hr, hq]

theorem runReadRecord_notYet (hq : holdsRecord (streamOf s n) = false ∨ (streamOf s n).newest < seq) :
    runReadRecord d n seq s = complete d { result := .notYet } s := by
  have hnot : ¬ (holdsRecord (streamOf s n) = true ∧ seq < (streamOf s n).oldest) := by
    rintro ⟨hr, hlt⟩
    have hle := oldest_le_newest_of_holdsRecord hr
    rcases hq with hf | hgt
    · exact ne_true_of_eq_false hf hr
    · omega
  simp only [runReadRecord, Option.isNone_iff_eq_none, h, if_false, Bool.and_eq_true, decide_eq_true_eq, if_neg hnot,
    Bool.or_eq_true, Bool.not_eq_true', if_pos hq]

theorem runReadRecord_begins (hr : holdsRecord (streamOf s n) = true) (hlo : (streamOf s n).oldest ≤ seq)
    (hhi : seq ≤ (streamOf s n).newest) : runReadRecord d n seq s = startLookup d n seq 0 s := by
  simp [runReadRecord, h, hr, Nat.not_lt.mpr hlo, Nat.not_lt.mpr hhi]

end

theorem runReadNext_undefined (h : (streamOf s n).defn = none) :
    runReadNext d n s = complete d { result := .noStream } s := by
  simp [runReadNext, h]

theorem runReadNext_notYet (h : (streamOf s n).defn ≠ none)
    (hq : (streamOf s n).cursor = 0 ∨ (streamOf s n).newest < (streamOf s n).cursor ∨
      holdsRecord (streamOf s n) = false) : runReadNext d n s = complete d { result := .notYet } s := by
  simp [runReadNext, h, or_assoc, hq]

/-- The machine once READ NEXT has moved its cursor past the sequence sought (R96). -/
def State.withCursorPast (s : State) (n q : Nat) : State :=
  s.withStream n { streamOf s n with cursor := if q = 4294967295 then 0 else q + 1 }

theorem runReadNext_begins (h : (streamOf s n).defn ≠ none) (hr : holdsRecord (streamOf s n) = true)
    (h1 : 1 ≤ (streamOf s n).cursor) (h2 : (streamOf s n).cursor ≤ (streamOf s n).newest) {q : Nat}
    (hq : q = max (streamOf s n).cursor (streamOf s n).oldest) :
    runReadNext d n s =
      startLookup d n q ((streamOf s n).oldest - (streamOf s n).cursor) (s.withCursorPast n q) := by
  have hseq : (if (streamOf s n).cursor < (streamOf s n).oldest then (streamOf s n).oldest
      else (streamOf s n).cursor) = q := by
    rw [hq]
    split <;> omega
  have hnot : ¬ ((streamOf s n).cursor = 0 ∨ (streamOf s n).newest < (streamOf s n).cursor) := by omega
  unfold runReadNext
  simp only [Option.isNone_iff_eq_none, h, if_false, Bool.or_eq_true, decide_eq_true_eq, hnot, hr, Bool.not_true,
    Bool.false_eq_true, or_self, hseq]
  rfl

/-- A stream that is defined has an entry. -/
theorem lt_length_of_defn (h : (streamOf s n).defn ≠ none) : n < s.streams.length := by
  refine Nat.lt_of_not_le fun hle => h ?_
  simp [streamOf, List.getD_eq_getElem?_getD, List.getElem?_eq_none hle, Stream.blank]

theorem streamOf_withCursorPast (hn : n < s.streams.length) (q : Nat) :
    streamOf (s.withCursorPast n q) n =
      { streamOf s n with cursor := if q = 4294967295 then 0 else q + 1 } :=
  (streamOf_setStream n n _ s).trans (if_pos ⟨rfl, hn⟩)

end

section

variable {d : Dispatched} {n q : Nat} {s : State} (h : (streamOf s n).defn ≠ none)
  (hr : holdsRecord (streamOf s n) = true) (h1 : 1 ≤ (streamOf s n).cursor)
  (h2 : (streamOf s n).cursor ≤ (streamOf s n).newest) (hq : q = max (streamOf s n).cursor (streamOf s n).oldest)
include h hr h1 h2 hq

theorem runReadNext_lost (hl : ∀ e ∈ (streamOf s n).chain, q < e.first ∨ e.last < q) :
    runReadNext d n s = complete d { result := .lost, value := q } (s.withCursorPast n q) := by
  have hof := streamOf_withCursorPast (lt_length_of_defn h) q
  rw [runReadNext_begins h hr h1 h2 hq, startLookup_lost]
  rw [hof]
  exact hl

theorem runReadNext_away {e : ChainEntry}
    (he : (streamOf s n).chain.find? (fun x => x.first ≤ q && q ≤ x.last) = some e)
    (ht : ∀ p, (streamOf s n).tail = .pos p → aliasSegment s p.segment ≠ e.segment)
    (hj : hasJobInto s e.segment = false) :
    runReadNext d n s =
      setPhase d (.lookup (freshLookup n q ((streamOf s n).oldest - (streamOf s n).cursor) e.segment))
        ((s.withCursorPast n q).withRequest .sequencer (.read e.segment 31 0 512)) := by
  have hof := streamOf_withCursorPast (lt_length_of_defn h) q
  rw [runReadNext_begins h hr h1 h2 hq]
  refine startLookup_away ?_ ?_ ?_
  · rw [hof]; exact he
  · rw [hof]; exact ht
  · exact hj

end

/-! ### The other responding commands -/

section

variable {d : Dispatched} {s : State}

/-- The response of QUERY STREAM (R70). -/
def queryBytes (s : State) (n : Nat) : List Byte :=
  streamStatus n (streamOf s n) (s.write.staging.bind (fun g => if g.stream = n then some g.bytes.length else none))

theorem runQueryStream_eq (n : Nat) :
    runQueryStream d n s =
      complete d { result := .done, response := true, value := 48 } (s.withResponse (queryBytes s n)) := rfl

/-- The response of QUERY STREAM is of the stream's entry and the Staging Buffer alone. -/
theorem queryBytes_congr {x : State} {n : Nat} (hs : streamOf x n = streamOf s n)
    (hg : x.write.staging = s.write.staging) : queryBytes x n = queryBytes s n := by
  unfold queryBytes
  rw [hs, hg]

theorem queryBytes_undefined {n : Nat} (h : (streamOf s n).defn = none) :
    queryBytes s n = BitVec.ofNat 8 n :: List.replicate 47 0 := by
  unfold queryBytes streamStatus
  rw [h]
  rfl

/-- The answer of SEGMENT STATUS with this count of programmed frames (R127). -/
theorem writeSegmentStatus_eq (g count : Nat) :
    writeSegmentStatus d g count s =
      complete d { result := .done, response := true, value := 12, aux := g }
        (s.withResponse (segmentStatusBytes g (segOf s g) (locked s g) count (poolPosition s g))) := rfl

theorem runSegmentStatus_factory {g : Nat} (hg : g = 4) :
    runSegmentStatus d g s = complete d { result := .done, response := true, value := 12, aux := g }
      (s.withResponse [4, 0, 0, 255, 0, 4, 0, 0, 0, 0, 0, 0]) := by
  subst hg
  rfl

theorem runSegmentStatus_erased {g : Nat} (hu : isUser g = true) (hf : (segOf s g).state = .freeErased) :
    runSegmentStatus d g s = complete d { result := .done, response := true, value := 12, aux := g }
      (s.withResponse (segmentStatusBytes g (segOf s g) (locked s g) 0 (poolPosition s g))) := by
  have hg : g ≠ 4 := by rintro rfl; exact Bool.false_ne_true hu
  rw [runSegmentStatus, if_neg hg, if_pos (by simp [hu, hf])]
  rfl

theorem runSegmentStatus_counts {g : Nat} (hg : g ≠ 4) (hf : isUser g = true → (segOf s g).state ≠ .freeErased) :
    runSegmentStatus d g s = setPhase d (.counting 0) (s.withRequest .sequencer (.read g 0 0 512)) := by
  rw [runSegmentStatus, if_neg hg, if_neg (by simpa using hf)]
  rfl

/-- A slot whose job alone is queued is answered from the job (R137). -/
theorem runVaultRead_queued {k : Nat} {j : Job} (hj : s.write.jobs = [j]) (hs : j.segment = 3) (hk : j.frame = k) :
    runVaultRead d k s = complete d { result := .done, response := true, value := 512, aux := k }
      (s.withResponse j.image) := by
  have hfind : s.write.jobs.find? (fun j => j.segment = 3 && j.frame = k) = some j := by simp [hj, hs, hk]
  unfold runVaultRead
  simp only [hfind]
  rfl

theorem find_slot_none {k : Nat} (hj : ∀ j ∈ s.write.jobs, j.segment ≠ 3) :
    s.write.jobs.find? (fun j => j.segment = 3 && j.frame = k) = none := by
  rw [List.find?_eq_none]
  intro j hm
  simp [hj j hm]

theorem runVaultRead_written {k : Nat} (hj : ∀ j ∈ s.write.jobs, j.segment ≠ 3) (hk : k ∈ s.vault.written) :
    runVaultRead d k s = setPhase d .slotRead (s.withRequest .sequencer (.read 3 k 0 512)) := by
  unfold runVaultRead
  simp only [find_slot_none hj, List.contains_iff_mem, hk, if_true]
  rfl

theorem runVaultRead_blank {k : Nat} (hj : ∀ j ∈ s.write.jobs, j.segment ≠ 3) (hk : k ∉ s.vault.written) :
    runVaultRead d k s = complete d { result := .blank, response := true, value := 512, aux := k }
      (s.withResponse (List.replicate 512 0xFF)) := by
  unfold runVaultRead
  simp only [find_slot_none hj, List.contains_iff_mem, hk, if_false]
  rfl

theorem noticeBytes_length (n : Notice) : (noticeBytes n).length = 12 := by
  simp [noticeBytes, leBytes_length]

theorem noticeListBytes_length (lost : Nat) (ns : List Notice) :
    (noticeListBytes lost ns).length = 4 + 12 * ns.length := by
  have hsum : (ns.flatMap noticeBytes).length = 12 * ns.length := by
    induction ns with
    | nil => rfl
    | cons n ns ih => rw [List.flatMap_cons, List.length_append, ih, noticeBytes_length, List.length_cons]; omega
  simp only [noticeListBytes, List.length_append, leBytes_length, zeros, List.length_replicate, hsum]

/-- The machine once READ NOTICES took the whole list (R154). -/
def State.withNoticesTaken (s : State) : State :=
  { s.withResponse (BitVec.ofNat 8 s.events.lost :: BitVec.ofNat 8 s.events.notices.length :: 0 :: 0 ::
      s.events.notices.flatMap noticeBytes) with
    events := { s.events with notices := [], lost := 0 } }

theorem runReadNotices_eq :
    runReadNotices d s =
      complete d { result := .done, response := true, value := 4 + 12 * s.events.notices.length }
        s.withNoticesTaken := by
  unfold runReadNotices
  simp only [noticeListBytes_length]
  rfl

end

/-! ### The wait for the Response Buffer (R37) -/

theorem runOf_responding {c : Cmd} (h : responding c = true) : runOf c = awaitBuffer := by
  cases c <;> simp [responding, runOf] at h ⊢

theorem awaitBuffer_waits {d : Dispatched} {s : State} (h : s.rsp.bytes ≠ []) :
    awaitBuffer d s = setPhase d .waitResponse s := if_neg (by simpa using h)

theorem awaitBuffer_runs {d : Dispatched} {s : State} (h : s.rsp.bytes = []) :
    awaitBuffer d s = runResponding d s := if_pos (by simp [h])

theorem exec_responseBufferWaitEnd_waits {s : State} {d : Dispatched} (hw : waiting s = some d)
    (he : s.rsp.bytes ≠ []) : exec .responseBufferWaitEnd s = .next s := by
  show execResponseBufferWaitEnd s = _
  unfold execResponseBufferWaitEnd
  have hne : ¬ (d.phase = .waitResponse ∧ s.rsp.bytes.isEmpty = true) := fun k => he (by simpa using k.2)
  rw [hw]
  simp only [if_neg hne]

end Sys2Proof.Machine

/-!
PROOFS. The responding commands at their dispatch and at the end of their wait (R37): QUERY STREAM, READ RECORD, READ
NEXT, SEGMENT STATUS, VAULT READ, DESCRIBE, IDENTIFY and READ NOTICES.
-/

namespace Sys2Proof.Machine

open Sys2Proof

/-! ### At the dispatch, where the buffer is empty -/

section

variable {i : Instr} {s : State} {f : CmdFrame} {c : Cmd} (run : State → State) (h : Dispatches s f c)
  (hi : rowOf c = i) (hr : responding c = true) (hrun : ∀ v, runResponding (newDispatched s f c) v = run v)
  (he : s.rsp.bytes = [])

include hr hrun he in
theorem runOf_responding_runs : runOf c (newDispatched s f c) (takenState s f c) = run (takenState s f c) := by
  rw [runOf_responding hr, awaitBuffer_runs (s := takenState s f c) he, hrun]

include h hi hr hrun he

theorem completes_responding_unchanged {o : Outcome}
    (hw : run (takenState s f c) = complete (newDispatched s f c) o (takenState s f c)) : Completes i s f c o s :=
  completes (w := takenState s f c) h hi ((runOf_responding_runs run hr hrun he).trans hw)
    rfl rfl rfl rfl rfl rfl rfl rfl rfl rfl

theorem completes_responding {o : Outcome} {bytes : List Byte}
    (hw : run (takenState s f c) = complete (newDispatched s f c) o ((takenState s f c).withResponse bytes)) :
    Completes i s f c o (s.withResponse bytes) :=
  completes (w := (takenState s f c).withResponse bytes) h hi ((runOf_responding_runs run hr hrun he).trans hw)
    rfl rfl rfl rfl rfl rfl rfl rfl rfl rfl

theorem goesOn_reads {p : Phase} {op : Op}
    (hw : run (takenState s f c) =
      setPhase (newDispatched s f c) p ((takenState s f c).withRequest .sequencer op)) :
    GoesOn i s f c p (s.withRequest .sequencer op) :=
  goesOn (w := setPhase (newDispatched s f c) p ((takenState s f c).withRequest .sequencer op)) h hi
    ((runOf_responding_runs run hr hrun he).trans hw) rfl rfl rfl rfl rfl rfl rfl rfl rfl rfl

end

theorem completes_queryStream {s : State} {f : CmdFrame} {n : Nat} (h : Dispatches s f (.queryStream n))
    (he : s.rsp.bytes = []) :
    Completes .queryStream s f (.queryStream n) { result := .done, response := true, value := 48 }
      (s.withResponse (queryBytes s n)) :=
  completes_responding (runQueryStream _ n) h rfl rfl (fun _ => rfl) he (runQueryStream_eq n)

/-! ### READ RECORD and READ NEXT (R93, R96) -/

section

variable {s : State} {f : CmdFrame} {n : Nat} (he : s.rsp.bytes = [])
include he

theorem completes_readRecord_unchanged {seq : Nat} {o : Outcome} (h : Dispatches s f (.readRecord n seq))
    (hw : runReadRecord (newDispatched s f (.readRecord n seq)) n seq (takenState s f (.readRecord n seq)) =
      complete (newDispatched s f (.readRecord n seq)) o (takenState s f (.readRecord n seq))) :
    Completes .readRecord s f (.readRecord n seq) o s :=
  completes_responding_unchanged (runReadRecord _ n seq) h rfl rfl (fun _ => rfl) he hw

theorem completes_readNext_unchanged {o : Outcome} (h : Dispatches s f (.readNext n))
    (hw : runReadNext (newDispatched s f (.readNext n)) n (takenState s f (.readNext n)) =
      complete (newDispatched s f (.readNext n)) o (takenState s f (.readNext n))) :
    Completes .readNext s f (.readNext n) o s :=
  completes_responding_unchanged (runReadNext _ n) h rfl rfl (fun _ => rfl) he hw

end

/-- Settles O29: the cases of `runReadRecord` and `runReadNext` before a lookup, and the lookup that finds no entry. -/
theorem readsJudgeTheSequence : Obligations.ReadsJudgeTheSequence := by
  refine ⟨fun s f n seq h he => ?record, fun s f n h he => ?next⟩
  case record =>
    refine ⟨fun hd => ?_, fun hd hr hq => ?_, fun hd hq => ?_, fun hd hr hlo hhi hl => ?_⟩
    · exact completes_readRecord_unchanged he h (runReadRecord_undefined hd)
    · exact completes_readRecord_unchanged he h (runReadRecord_gone hd hr hq)
    · exact completes_readRecord_unchanged he h (runReadRecord_notYet hd hq)
    · refine completes_readRecord_unchanged he h ((runReadRecord_begins ?_ ?_ ?_ ?_).trans (startLookup_lost ?_))
      exacts [hd, hr, hlo, hhi, hl]
  case next =>
    refine ⟨fun hd => ?_, fun hd hq => ?_, fun hd hr h1 h2 q hq hl => ?_⟩
    · exact completes_readNext_unchanged he h (runReadNext_undefined hd)
    · exact completes_readNext_unchanged he h (runReadNext_notYet hd hq)
    · refine completes (w := (takenState s f (.readNext n)).withCursorPast n q) h rfl
        ((runOf_responding_runs (runReadNext _ n) rfl (fun _ => rfl) he).trans ?_)
        rfl rfl rfl rfl rfl rfl rfl rfl rfl rfl
      exact runReadNext_lost hd hr h1 h2 hq hl

/-- The record of a stream that lies in its tail image, as the walk sees it. -/
theorem recordIn_of_image {p : TailPos} {before payload after : List Byte} {attr epoch : Byte} {ticks : Word32}
    {untimed resumed : Bool} {n seq : Nat}
    (hi : p.image = before ++ recordHeader payload.length attr epoch seq ticks untimed resumed n ++ payload ++ after)
    (hl : payload.length ≤ 1536) (hq : seq < 4294967296) (hn : n < 8) :
    RecordIn p.image before (recordHeader payload.length attr epoch seq ticks untimed resumed n) payload after n seq :=
  ⟨hi, recordHeader_length .., headerValid_recordHeader _ _ _ _ _ _ _ _ hl hq hn,
    headerLength_recordHeader _ _ _ _ _ _ _ _ hl⟩

/-- Settles O30: the lookup's one view is the tail image, in which the walk's first hit is the record. -/
theorem recordInTheTailIsDelivered : Obligations.RecordInTheTailIsDelivered := by
  intro s f n seq e p before payload after attr epoch ticks untimed resumed h he hd hr hlo hhi hf ht ha hh hi hl hq hn
  refine completes_responding (runReadRecord _ n seq) h rfl rfl (fun _ => rfl) he ?_
  refine (runReadRecord_begins ?_ ?_ ?_ ?_).trans (startLookup_tail (e := e) (p := p) ?_ ?_ ?_ hh
    (recordIn_of_image hi hl hq hn))
  exacts [hd, hr, hlo, hhi, hf, ht, ha]

/-! ### READ NOTICES (R154) -/

/-- The state in which READ NOTICES posts its record, seen from the one it leaves. -/
theorem near_noticesTaken (s : State) (f : CmdFrame) :
    Near s.withNoticesTaken (takenState s f .readNotices).withNoticesTaken none := by
  obtain ⟨-, -, -, -, -, hkeeps, hothers⟩ := roomEvents_spec s
  exact { records := rfl, fresh := ⟨0, (List.append_nil _).symm⟩, streams := rfl, jobs := rfl, deferred := rfl,
          request := rfl, guard := rfl, notices := rfl, lost := rfl, noticed := rfl, holdClear := rfl,
          bits := hkeeps, others := fun _ => hothers, guardHeld := fun x hx => (Option.some_ne_none x hx.symm).elim }

/-- Settles O41: the response is the list as the event found it, and the list is then empty. -/
theorem readNoticesTakesTheWholeList : Obligations.ReadNoticesTakesTheWholeList := by
  intro s f h he
  have hrun : runOf .readNotices (newDispatched s f .readNotices) (afterTake s f .readNotices) =
      complete (newDispatched s f .readNotices)
        { result := .done, response := true, value := 4 + 12 * s.events.notices.length }
        (takenState s f .readNotices).withNoticesTaken := by
    rw [afterTake_eq, runOf_responding_runs (runReadNotices _) rfl (fun _ => rfl) he]
    exact runReadNotices_eq
  have hs := ((near_noticesTaken s f).complete (newDispatched s f .readNotices)
    { result := .done, response := true, value := 4 + 12 * s.events.notices.length }).settled
  refine ⟨_, exec_rowOf .readNotices h.ready, ?_⟩
  rw [dispatch_of h (by rw [hrun, (complete_work ..).2.2]; exact Nat.le_refl _), hrun]
  rw [(complete_spec ..).1] at hs
  exact ⟨hs, fun hq ha hc => (close_complete _ _ _ _ rfl).2.2.2.2.2 _ (room_raised h.ready hq ha hc)⟩

/-! ### The stream status record, field by field (Table 4-3) -/

section

variable (n reason mode flags : Nat) (d : Definition) (t : Stream) (staged : Nat)

/-- The bytes of a stream status record before the name. -/
def statusHead : List Byte :=
  [BitVec.ofNat 8 n, BitVec.ofNat 8 (streamStateCode t.state), BitVec.ofNat 8 reason, BitVec.ofNat 8 mode] ++
    leBytes 2 d.quota ++ [BitVec.ofNat 8 d.name.length, BitVec.ofNat 8 flags]

/-- The bytes of a stream status record behind the name and its padding. -/
def statusRest : List Byte :=
  leBytes 4 d.incarnation ++ leBytes 2 (t.chain.countP (fun e => !e.isRetired)) ++
    leBytes 2 (t.chain.countP (fun e => e.isSealed)) ++ leBytes 4 t.oldest ++ leBytes 4 t.newest ++
    leBytes 4 t.durable ++ leBytes 4 t.cursor ++ leBytes 2 staged ++ leBytes 2 (pendingBytes t.tail)

/-- The whole record, the name padded with 0x00. -/
def statusRecord : List Byte :=
  statusHead n reason mode flags d t ++ (d.name ++ List.replicate (12 - d.name.length) 0) ++ statusRest d t staged

end

/-- What byte 2, 3 and 7 of the record say of a stream (Table 4-3). -/
structure StatusFields (t : Stream) (d : Definition) (staged : Option Nat) (reason mode flags count : Nat) : Prop where
  reason : reason = match t.state with | .full r => fullCode r | _ => 0
  mode : mode = match d.mode with | .linear => 0 | .ring => 1
  flags : flags = bitOf t.resumed + 2 * bitOf staged.isSome
  count : count = staged.getD 0

theorem fitBytes_short {fill : Byte} {k : Nat} {bytes : List Byte} (h : bytes.length ≤ k) :
    fitBytes fill k bytes = bytes ++ List.replicate (k - bytes.length) fill := by
  unfold fitBytes
  rw [List.take_of_length_le h]

theorem streamStatus_defined {n : Nat} {t : Stream} {staged : Option Nat} {d : Definition} (hd : t.defn = some d)
    (hn : d.name.length ≤ 12) {reason mode flags count : Nat} (h : StatusFields t d staged reason mode flags count) :
    streamStatus n t staged = statusRecord n reason mode flags d t count := by
  obtain ⟨rfl, rfl, rfl, rfl⟩ := h
  unfold streamStatus statusRecord statusRest
  rw [hd]
  simp only [fitBytes_short hn, List.countP_eq_length_filter, List.append_assoc]
  rfl

section

variable {n reason mode flags staged : Nat} {d : Definition} {t : Stream}

theorem statusRecord_name :
    ((statusRecord n reason mode flags d t staged).drop 8).take d.name.length = d.name ∧
    ((statusRecord n reason mode flags d t staged).drop (8 + d.name.length)).take (12 - d.name.length) =
      List.replicate (12 - d.name.length) 0 := by
  have hdrop : (statusRecord n reason mode flags d t staged).drop 8 =
      d.name ++ (List.replicate (12 - d.name.length) 0 ++ statusRest d t staged) := by
    rw [← List.append_assoc]
    rfl
  refine ⟨by rw [hdrop, List.take_left], ?_⟩
  rw [← List.drop_drop, hdrop, List.drop_left]
  exact List.take_left' (List.length_replicate ..)

/-- Behind the padded name stands the rest of the record. -/
theorem statusRecord_rest (hn : d.name.length ≤ 12) (k : Nat) :
    (statusRecord n reason mode flags d t staged).drop (20 + k) = (statusRest d t staged).drop k := by
  have h20 : (statusRecord n reason mode flags d t staged).drop 20 = statusRest d t staged :=
    List.drop_left' (by simp [statusHead, leBytes_length]; omega)
  rw [← List.drop_drop, h20]

end

theorem statusFields_of {s : State} {n reason mode flags staged : Nat} {d : Definition}
    (hr : (∀ r, (streamOf s n).state = .full r → reason = fullCode r) ∧
      ((∀ r, (streamOf s n).state ≠ .full r) → reason = 0))
    (hm : mode = if d.mode = .ring then 1 else 0)
    (hf : flags = (if (streamOf s n).resumed then 1 else 0) +
      if ∃ g, s.write.staging = some g ∧ g.stream = n then 2 else 0)
    (hs : (∀ g, s.write.staging = some g → g.stream = n → staged = g.bytes.length) ∧
      ((∀ g, s.write.staging = some g → g.stream ≠ n) → staged = 0)) :
    StatusFields (streamOf s n) d
      (s.write.staging.bind (fun g => if g.stream = n then some g.bytes.length else none)) reason mode flags
      staged := by
  constructor
  case reason =>
    cases hst : (streamOf s n).state with
    | full r => exact hr.1 r hst
    | _ => exact hr.2 (fun r => by simp [hst])
  case mode => rw [hm]; cases d.mode <;> rfl
  case flags =>
    rw [hf]
    unfold bitOf
    cases s.write.staging with
    | none => simp
    | some g => by_cases hg : g.stream = n <;> simp [hg]
  case count =>
    cases hg : s.write.staging with
    | none => exact hs.2 (fun g h => by simp [hg] at h)
    | some g =>
      by_cases hn : g.stream = n
      · simpa [hn] using hs.1 g hg hn
      · simpa [hn] using hs.2 (fun x hx => by rw [hg] at hx; cases hx; exact hn)

/-- Settles O20: the record is `statusRecord`, whose fields stand at fixed offsets around the padded name. -/
theorem queryStreamReturnsTheStatusRecord : Obligations.QueryStreamReturnsTheStatusRecord := by
  intro s f n h he
  refine ⟨queryBytes s n, completes_queryStream h he, queryBytes_undefined, ?_⟩
  intro d hd hn reason mode flags staged hr hm hf hs
  have hrec : queryBytes s n = statusRecord n reason mode flags d (streamOf s n) staged :=
    streamStatus_defined hd hn (statusFields_of hr hm hf hs)
  obtain ⟨hname, hpad⟩ := statusRecord_name (n := n) (reason := reason) (mode := mode) (flags := flags)
    (staged := staged) (d := d) (t := streamOf s n)
  have hlen : (statusRecord n reason mode flags d (streamOf s n) staged).length = 48 := by
    simp only [statusRecord, statusHead, statusRest, List.length_append, leBytes_length, List.length_replicate,
      List.length_cons, List.length_nil]
    omega
  rw [hrec]
  have hrest := statusRecord_rest (n := n) (reason := reason) (mode := mode) (flags := flags)
    (staged := staged) (t := streamOf s n) hn
  exact ⟨hlen, rfl, rfl, rfl, hname, hpad, congrArg (List.take 4) (hrest 0), congrArg (List.take 2) (hrest 4),
    congrArg (List.take 2) (hrest 6), congrArg (List.take 4) (hrest 8), congrArg (List.take 4) (hrest 12),
    congrArg (List.take 4) (hrest 16), congrArg (List.take 4) (hrest 20), congrArg (List.take 2) (hrest 24), hrest 26⟩

end Sys2Proof.Machine

/-!
PROOFS. The end of the wait for the Response Buffer (R37): every responding command goes on as at a dispatch that finds
the buffer empty.
-/

namespace Sys2Proof.Machine

open Sys2Proof

/-- A responding command waits, with its frame taken, while the buffer holds bytes. -/
theorem responding_waits {s : State} {f : CmdFrame} {c : Cmd} (h : Dispatches s f c) (hr : responding c = true)
    (he : s.rsp.bytes ≠ []) :
    ∃ t, exec (rowOf c) s = .next t ∧ Taken s s t (some (dispatchedAs s f c .waitResponse)) none :=
  goesOn (w := setPhase (newDispatched s f c) .waitResponse (takenState s f c)) h rfl
    (by rw [runOf_responding hr, awaitBuffer_waits (s := takenState s f c) he]) rfl rfl rfl rfl rfl rfl rfl rfl rfl rfl

section

variable {s : State} {d : Dispatched} (hw : waiting s = some d) (hp : d.phase = .waitResponse) (he : s.rsp.bytes = [])
include hw hp he

/-! ### The row, by what the command's own execution does -/

theorem ends_wait_unchanged {o : Outcome} (hrun : runResponding d s = complete d o s) :
    Ends .responseBufferWaitEnd s d o s :=
  ends ((exec_responseBufferWaitEnd hw hp he).trans (by rw [hrun])) rfl rfl rfl rfl rfl rfl rfl rfl

theorem ends_wait_response {o : Outcome} {bytes : List Byte}
    (hrun : runResponding d s = complete d o (s.withResponse bytes)) :
    Ends .responseBufferWaitEnd s d o (s.withResponse bytes) :=
  ends ((exec_responseBufferWaitEnd hw hp he).trans (by rw [hrun])) rfl rfl rfl rfl rfl rfl rfl rfl

theorem continues_wait_reads {p : Phase} {op : Op}
    (hrun : runResponding d s = setPhase d p (s.withRequest .sequencer op)) :
    Continues .responseBufferWaitEnd s d p (s.withRequest .sequencer op) :=
  continues (w := setPhase d p (s.withRequest .sequencer op))
    ((exec_responseBufferWaitEnd hw hp he).trans (by rw [hrun])) rfl rfl rfl rfl rfl rfl rfl rfl

/-! ### The commands -/

omit hw hp he in
theorem runResponding_queryStream {n : Nat} (hc : d.cmd = .queryStream n) :
    runResponding d s = runQueryStream d n s := by
  unfold runResponding
  rw [hc]

omit hw hp he in
theorem runResponding_readRecord {n seq : Nat} (hc : d.cmd = .readRecord n seq) :
    runResponding d s = runReadRecord d n seq s := by
  unfold runResponding
  rw [hc]

omit hw hp he in
theorem runResponding_readNext {n : Nat} (hc : d.cmd = .readNext n) :
    runResponding d s = runReadNext d n s := by
  unfold runResponding
  rw [hc]

omit hw hp he in
theorem runResponding_segmentStatus {g : Nat} (hc : d.cmd = .segmentStatus g) :
    runResponding d s = runSegmentStatus d g s := by
  unfold runResponding
  rw [hc]

omit hw hp he in
theorem runResponding_vaultRead {k : Nat} (hc : d.cmd = .vaultRead k) :
    runResponding d s = runVaultRead d k s := by
  unfold runResponding
  rw [hc]

omit hw hp he in
theorem runResponding_readNotices (hc : d.cmd = .readNotices) :
    runResponding d s = runReadNotices d s := by
  unfold runResponding
  rw [hc]

omit hw hp he in
theorem runResponding_describe (hc : d.cmd = .describe) :
    runResponding d s = setPhase d (.copies 0 []) (s.withRequest .sequencer (.read 4 0 0 40)) := by
  unfold runResponding
  rw [hc]
  rfl

omit hw hp he in
theorem runResponding_identify (hc : d.cmd = .identify) :
    runResponding d s = setPhase d .identity (s.withRequest .sequencer (.read 4 3 0 256)) := by
  unfold runResponding
  rw [hc]
  rfl

theorem queryStream_wait_ends {n : Nat} (hc : d.cmd = .queryStream n) :
    ∃ bytes, Ends .responseBufferWaitEnd s d { result := .done, response := true, value := 48 }
        (s.withResponse bytes) ∧
      ((streamOf s n).defn = none → bytes = BitVec.ofNat 8 n :: List.replicate 47 0) ∧
      ∀ (x : State) (f : CmdFrame), Dispatches x f (.queryStream n) → x.rsp.bytes = [] →
        streamOf x n = streamOf s n → x.write.staging = s.write.staging →
        Completes .queryStream x f (.queryStream n) { result := .done, response := true, value := 48 }
          (x.withResponse bytes) := by
  refine ⟨queryBytes s n, ends_wait_response hw hp he ((runResponding_queryStream hc).trans (runQueryStream_eq n)),
    queryBytes_undefined, fun x f h hx hs hg => ?_⟩
  rw [← queryBytes_congr hs hg]
  exact completes_queryStream h hx

theorem readRecord_wait_ends {n seq : Nat} (hc : d.cmd = .readRecord n seq) :
    ((streamOf s n).defn = none → Ends .responseBufferWaitEnd s d { result := .noStream } s) ∧
    ((streamOf s n).defn ≠ none → holdsRecord (streamOf s n) = true → seq < (streamOf s n).oldest →
      Ends .responseBufferWaitEnd s d { result := .gone } s) ∧
    ((streamOf s n).defn ≠ none → holdsRecord (streamOf s n) = false ∨ (streamOf s n).newest < seq →
      Ends .responseBufferWaitEnd s d { result := .notYet } s) ∧
    ((streamOf s n).defn ≠ none → holdsRecord (streamOf s n) = true → (streamOf s n).oldest ≤ seq →
      seq ≤ (streamOf s n).newest →
      ((∀ e ∈ (streamOf s n).chain, seq < e.first ∨ e.last < seq) →
        Ends .responseBufferWaitEnd s d { result := .lost, value := seq } s) ∧
      ∀ e, (streamOf s n).chain.find? (fun x => x.first ≤ seq && seq ≤ x.last) = some e →
        ((∀ p, (streamOf s n).tail = .pos p → aliasSegment s p.segment ≠ e.segment) → hasJobInto s e.segment = false →
          Continues .responseBufferWaitEnd s d (.lookup (freshLookup n seq 0 e.segment))
            (s.withRequest .sequencer (.read e.segment 31 0 512))) ∧
        ∀ (p : TailPos) (before payload after : List Byte) (attr epoch : Byte) (ticks : Word32)
            (untimed resumed : Bool), (streamOf s n).tail = .pos p → aliasSegment s p.segment = e.segment →
          p.header = some (before.length, seq) →
          p.image = before ++ recordHeader payload.length attr epoch seq ticks untimed resumed n ++ payload ++ after →
          payload.length ≤ 1536 → seq < 4294967296 → n < 8 →
          Ends .responseBufferWaitEnd s d { result := .done, response := true, value := seq, aux := 0 }
            (s.withResponse (recordHeader payload.length attr epoch seq ticks untimed resumed n ++ payload))) := by
  have hrun := runResponding_readRecord (s := s) hc
  refine ⟨fun hd => ?_, fun hd hr hq => ?_, fun hd hq => ?_, fun hd hr hlo hhi => ?_⟩
  · exact ends_wait_unchanged hw hp he (hrun.trans (runReadRecord_undefined hd))
  · exact ends_wait_unchanged hw hp he (hrun.trans (runReadRecord_gone hd hr hq))
  · exact ends_wait_unchanged hw hp he (hrun.trans (runReadRecord_notYet hd hq))
  have hbegins := hrun.trans (runReadRecord_begins hd hr hlo hhi)
  refine ⟨fun hl => ?_, fun e hf => ⟨fun ht hj => ?_, ?_⟩⟩
  · exact ends_wait_unchanged hw hp he (hbegins.trans (startLookup_lost hl))
  · exact continues_wait_reads hw hp he (hbegins.trans (startLookup_away hf ht hj))
  · intro p before payload after attr epoch ticks untimed resumed ht ha hh hi hl hq hn
    exact ends_wait_response hw hp he
      (hbegins.trans (startLookup_tail hf ht ha hh (recordIn_of_image hi hl hq hn)))

theorem readNext_wait_ends {n : Nat} (hc : d.cmd = .readNext n) :
    ((streamOf s n).defn = none → Ends .responseBufferWaitEnd s d { result := .noStream } s) ∧
    ((streamOf s n).defn ≠ none →
      (streamOf s n).cursor = 0 ∨ (streamOf s n).newest < (streamOf s n).cursor ∨ holdsRecord (streamOf s n) = false →
      Ends .responseBufferWaitEnd s d { result := .notYet } s) ∧
    ((streamOf s n).defn ≠ none → holdsRecord (streamOf s n) = true → 1 ≤ (streamOf s n).cursor →
      (streamOf s n).cursor ≤ (streamOf s n).newest →
      ∀ q, q = max (streamOf s n).cursor (streamOf s n).oldest →
      ((∀ e ∈ (streamOf s n).chain, q < e.first ∨ e.last < q) →
        Ends .responseBufferWaitEnd s d { result := .lost, value := q } (s.withCursorPast n q)) ∧
      ∀ e, n < s.streams.length → (streamOf s n).chain.find? (fun x => x.first ≤ q && q ≤ x.last) = some e →
        (∀ p, (streamOf s n).tail = .pos p → aliasSegment s p.segment ≠ e.segment) →
        hasJobInto s e.segment = false →
        Continues .responseBufferWaitEnd s d
          (.lookup (freshLookup n q ((streamOf s n).oldest - (streamOf s n).cursor) e.segment))
          ((s.withCursorPast n q).withRequest .sequencer (.read e.segment 31 0 512))) := by
  have hrun := runResponding_readNext (s := s) hc
  have hexec := exec_responseBufferWaitEnd hw hp he
  refine ⟨fun hd => ?_, fun hd hq => ?_, fun hd hr h1 h2 q hq => ⟨fun hl => ?_, fun e _ hf ht hj => ?_⟩⟩
  · exact ends_wait_unchanged hw hp he (hrun.trans (runReadNext_undefined hd))
  · exact ends_wait_unchanged hw hp he (hrun.trans (runReadNext_notYet hd hq))
  · rw [hrun, runReadNext_lost hd hr h1 h2 hq hl] at hexec
    exact ends hexec rfl rfl rfl rfl rfl rfl rfl rfl
  · rw [hrun, runReadNext_away hd hr h1 h2 hq hf ht hj] at hexec
    exact continues hexec rfl rfl rfl rfl rfl rfl rfl rfl

theorem segmentStatus_wait_ends {g : Nat} (hc : d.cmd = .segmentStatus g) :
    (g = 4 → Ends .responseBufferWaitEnd s d { result := .done, response := true, value := 12, aux := g }
      (s.withResponse [4, 0, 0, 255, 0, 4, 0, 0, 0, 0, 0, 0])) ∧
    (isUser g = true → (segOf s g).state = .freeErased →
      Ends .responseBufferWaitEnd s d { result := .done, response := true, value := 12, aux := g }
        (s.withResponse (segmentStatusBytes g (segOf s g) (locked s g) 0 (poolPosition s g)))) ∧
    (g ≠ 4 → (isUser g = true → (segOf s g).state ≠ .freeErased) →
      Continues .responseBufferWaitEnd s d (.counting 0) (s.withRequest .sequencer (.read g 0 0 512))) := by
  have hrun := runResponding_segmentStatus (s := s) hc
  exact ⟨fun hg => ends_wait_response hw hp he (hrun.trans (runSegmentStatus_factory hg)),
    fun hu hf => ends_wait_response hw hp he (hrun.trans (runSegmentStatus_erased hu hf)),
    fun hg hf => continues_wait_reads hw hp he (hrun.trans (runSegmentStatus_counts hg hf))⟩

theorem vaultRead_wait_ends {k : Nat} (hc : d.cmd = .vaultRead k) :
    (∀ j, s.write.jobs = [j] → j.segment = 3 → j.frame = k →
      Ends .responseBufferWaitEnd s d { result := .done, response := true, value := 512, aux := k }
        (s.withResponse j.image)) ∧
    ((∀ j ∈ s.write.jobs, j.segment ≠ 3) → k ∈ s.vault.written →
      Continues .responseBufferWaitEnd s d .slotRead (s.withRequest .sequencer (.read 3 k 0 512))) ∧
    ((∀ j ∈ s.write.jobs, j.segment ≠ 3) → k ∉ s.vault.written →
      Ends .responseBufferWaitEnd s d { result := .blank, response := true, value := 512, aux := k }
        (s.withResponse (List.replicate 512 0xFF))) := by
  have hrun := runResponding_vaultRead (s := s) hc
  exact ⟨fun _ hj hs hk => ends_wait_response hw hp he (hrun.trans (runVaultRead_queued hj hs hk)),
    fun hj hk => continues_wait_reads hw hp he (hrun.trans (runVaultRead_written hj hk)),
    fun hj hk => ends_wait_response hw hp he (hrun.trans (runVaultRead_blank hj hk))⟩

theorem readNotices_wait_ends (hc : d.cmd = .readNotices) :
    Ends .responseBufferWaitEnd s d { result := .done, response := true, value := 4 + 12 * s.events.notices.length }
      s.withNoticesTaken := by
  have hexec := exec_responseBufferWaitEnd hw hp he
  rw [runResponding_readNotices hc, runReadNotices_eq] at hexec
  exact ends hexec rfl rfl rfl rfl rfl rfl rfl rfl

theorem describe_wait_ends (hc : d.cmd = .describe) :
    Continues .responseBufferWaitEnd s d (.copies 0 []) (s.withRequest .sequencer (.read 4 0 0 40)) :=
  continues_wait_reads hw hp he (runResponding_describe hc)

theorem identify_wait_ends (hc : d.cmd = .identify) :
    Continues .responseBufferWaitEnd s d .identity (s.withRequest .sequencer (.read 4 3 0 256)) :=
  continues_wait_reads hw hp he (runResponding_identify hc)

end

/-- Settles O18: the wait at a dispatch, and each responding command at the event that finds the buffer empty. -/
theorem responseCommandsWaitForTheBuffer : Obligations.ResponseCommandsWaitForTheBuffer :=
  ⟨fun _ _ _ h hr he => responding_waits h hr he, fun _ _ hw hp =>
    ⟨exec_responseBufferWaitEnd_waits hw, fun he =>
      ⟨fun _ => queryStream_wait_ends hw hp he, fun _ _ => readRecord_wait_ends hw hp he,
        fun _ => readNext_wait_ends hw hp he, fun _ => segmentStatus_wait_ends hw hp he,
        fun _ => vaultRead_wait_ends hw hp he, readNotices_wait_ends hw hp he, describe_wait_ends hw hp he,
        identify_wait_ends hw hp he⟩⟩⟩

end Sys2Proof.Machine


/-!
PROOFS. The row at the end of a Sequencer's READ (R52), and the commands it moves on: a lookup (R89 to R92), SEGMENT
STATUS (R127), VAULT READ (R137), DESCRIBE and IDENTIFY (R122, R123); with the vault's other commands (R136, R138).
-/

namespace Sys2Proof.Machine

open Sys2Proof

/-! ### The end of an operation outside PFAIL_FLUSH -/

/-- An operation that ends in READY or RESTRICTED, where nothing is due and its requester defers no command. -/
theorem endEvent_of {s : State} (ha : isAwake s = true) (hc : nothingDue s = true) {ended inFlush act : State → State}
    {v : State} (hv : act (ended s) = v) (hd : v.sequencer.deferred.length ≤ s.sequencer.deferred.length) :
    endEvent ended inFlush act s = settle (choose v) := by
  have hstate : s.power.state ≠ .pfailFlush := by
    intro hp
    unfold isAwake at ha
    simp [hp] at ha
  unfold endEvent
  rw [if_neg hstate, internalEvent_of (body := fun s => act (ended s)) hc (by rw [hv]; exact hd), hv]

section

variable {s v : State} {seg frame lo hi : Nat} {noise : ReadNoise} (h : Performs s .sequencer (.read seg frame lo hi))
include h

/-- ARRAY_READ_END hands what was read to the DISPATCHED command. -/
theorem exec_arrayReadEnd (hv : sequencerRead seg frame lo hi noise s.withIdle = v)
    (hd : v.sequencer.deferred = s.sequencer.deferred) :
    exec (.arrayReadEnd noise) s = .next (settle (choose v)) := by
  show execArrayReadEnd noise s = _
  unfold execArrayReadEnd
  rw [h.inProgress]
  exact congrArg _ (endEvent_of h.awake h.clear hv (Nat.le_of_eq (congrArg _ hd)))

variable {d : Dispatched}

theorem ends_read_unchanged {o : Outcome}
    (hv : sequencerRead seg frame lo hi noise s.withIdle = complete d o s.withIdle) :
    Ends (.arrayReadEnd noise) s d o s.withIdle :=
  ends (exec_arrayReadEnd h hv (complete_work ..).2.2) rfl rfl rfl rfl rfl rfl rfl rfl

theorem ends_read_response {o : Outcome} {bytes : List Byte}
    (hv : sequencerRead seg frame lo hi noise s.withIdle = complete d o (s.withIdle.withResponse bytes)) :
    Ends (.arrayReadEnd noise) s d o (s.withIdle.withResponse bytes) :=
  ends (exec_arrayReadEnd h hv (complete_work ..).2.2) rfl rfl rfl rfl rfl rfl rfl rfl

theorem continues_read {p : Phase} {op : Op}
    (hv : sequencerRead seg frame lo hi noise s.withIdle = setPhase d p (s.withIdle.withRequest .sequencer op)) :
    Continues (.arrayReadEnd noise) s d p (s.withIdle.withRequest .sequencer op) :=
  continues (exec_arrayReadEnd h hv rfl) rfl rfl rfl rfl rfl rfl rfl rfl

end

/-! ### A completion with a notice and MEDIA -/

/-- An event of the medium is told of: its notice joins the list and MEDIA is raised. -/
def tellMedia (n : Notice) (s : State) : State := raise .media (addNotice n s)

theorem tellMedia_held (n : Notice) (s : State) : (tellMedia n s).held = s.held := by
  unfold tellMedia
  simp

theorem tellMedia_cpl (n : Notice) (s : State) : (tellMedia n s).cpl = s.cpl :=
  (raise_cpl ..).trans (addNotice_cpl ..)

theorem tellMedia_work (n : Notice) (s : State) : SameWork s (tellMedia n s) :=
  (addNotice_work ..).trans (raise_work ..)

theorem tellMedia_raised {n : Notice} {s : State} (h : s.events.holdClear = false) : Raised (tellMedia n s) .media :=
  raised_raise ((congrArg Held.holdClear (show (addNotice n s).held = s.held by simp)).trans h)

/-- A command that completes with a response in an event that told of the medium. -/
structure Told (s t : State) (d : Dispatched) (o : Outcome) (bytes : List Byte) (segments : Segments) : Prop where
  rsp : t.rsp = { bytes := bytes, index := 0 }
  segments : t.segments = segments
  dispatched : t.sequencer.dispatched = none
  posted : Posts s t (completionOf d.tag d.opcode (cmdDetail d.cmd) d.abortLate { o with response := true })
  media : s.events.holdClear = false → Raised t .media

/-- The end of an event in which a command responds after the medium was told of. -/
theorem told_of_respond {s w : State} (d : Dispatched) (o : Outcome) (bytes : List Byte) (n : Notice)
    (hc : w.cpl = s.cpl) (he : w.events = s.events) :
    Told s (settle (choose (respond d o bytes (tellMedia n w)))) d o bytes w.segments := by
  obtain ⟨hposts, hheld, -, -, -, hbits⟩ := close_complete d { o with response := true } s
    ((tellMedia n w).withResponse bytes) (congrArg (·.records) ((tellMedia_cpl n w).trans hc))
  have hsegs : (tellMedia n w).segments = w.segments := congrArg Held.segments (tellMedia_held n w)
  refine ⟨congrArg Held.rsp hheld, (congrArg Held.segments hheld).trans hsegs, congrArg Held.dispatched hheld, hposts,
    fun hclear => hbits _ (tellMedia_raised ?_)⟩
  rw [he]
  exact hclear

/-! ### What a READ was for (R52) -/

section

variable {s : State} {d : Dispatched} {seg frame lo hi : Nat} {noise : ReadNoise}
  (hd : s.sequencer.dispatched = some d)
include hd

theorem sequencerRead_lookup {l : Lookup} (hp : d.phase = .lookup l) :
    sequencerRead seg frame lo hi noise s.withIdle =
      lookupRead d l (readFrame s.medium seg frame lo hi noise) s.withIdle := by
  unfold sequencerRead
  simp only [State.withIdle, hd, hp]

theorem sequencerRead_counting {k g : Nat} (hp : d.phase = .counting k) (hc : d.cmd = .segmentStatus g) :
    sequencerRead seg frame lo hi noise s.withIdle =
      countingReadEnd d g k (readFrame s.medium seg frame lo hi noise) s.withIdle := by
  unfold sequencerRead
  simp only [State.withIdle, hd, hp, hc]

theorem sequencerRead_slot {k : Nat} (hp : d.phase = .slotRead) (hc : d.cmd = .vaultRead k) :
    sequencerRead seg frame lo hi noise s.withIdle =
      slotReadEnd d k (readFrame s.medium seg frame lo hi noise) s.withIdle := by
  unfold sequencerRead
  simp only [State.withIdle, hd, hp, hc]

theorem sequencerRead_copies {k : Nat} {first : List Byte} (hp : d.phase = .copies k first) :
    sequencerRead seg frame lo hi noise s.withIdle =
      copyReadEnd d k first (readFrame s.medium seg frame lo hi noise) s.withIdle := by
  unfold sequencerRead
  simp only [State.withIdle, hd, hp]

theorem sequencerRead_identity (hp : d.phase = .identity) :
    sequencerRead seg frame lo hi noise s.withIdle =
      identityReadEnd d (readFrame s.medium seg frame lo hi noise).bytes s.withIdle := by
  unfold sequencerRead
  simp only [State.withIdle, hd, hp]

end

/-! ### A lookup (R89 to R92) -/

section

variable {d : Dispatched} {l : Lookup} {f : FrameRead} {v : View} {s : State} (hv : composeView l l.frame f = v)
include hv

/-- A frame whose start point serves ends the READs. -/
theorem lookupRead_serves {o q : Nat} (hs : v.start = some (o, q)) (hq : q ≤ l.seq) :
    lookupRead d l f s = concludeLookup d (l.withView l.frame v) (some (l.frame, o, q)) s := by
  unfold lookupRead
  simp only [hv, hs, if_pos hq]
  rfl

/-- Without a start point that serves the search goes on below. -/
theorem lookupRead_below (hs : ∀ o q, v.start = some (o, q) → l.seq < q) :
    lookupRead d l f s = searchFrames d (l.withView l.frame v) l.frame s := by
  unfold lookupRead
  simp only [hv]
  split
  · rename_i o q hoq
    rw [if_neg (Nat.not_le.mpr (hs o q hoq))]
    rfl
  · rfl

end

theorem deliver_weakened {d : Dispatched} {l : Lookup} {g : Gathered} {s : State}
    (hw : (segOf s l.segment).weak = false) :
    ∃ o : Outcome, deliver d l g .major s =
      respond d o g.bytes (tellMedia
        { kind := .weak, stream := l.stream, segment := l.segment, value := l.seq, value2 := 0 }
        (updSeg l.segment (fun e => { e with weak := true }) s)) := by
  unfold deliver
  simp only [hw, and_self, if_true]
  by_cases hk : l.skip = 0
  · rw [if_pos hk]; exact ⟨_, rfl⟩
  · rw [if_neg hk]; exact ⟨_, rfl⟩

/-- AUX of a delivery of class BROKEN is 3 for READ RECORD. -/
theorem deliver_broken {d : Dispatched} {l : Lookup} {g : Gathered} {s : State} :
    deliver d l g .broken s =
      respond d { result := .damaged, value := l.seq, aux := match d.cmd with | .readRecord _ _ => 3 | _ => 0 }
        (if s.options.damagedReads = 0 then g.bytes else g.bytes.take 16)
        (tellMedia { kind := .damaged, stream := l.stream, segment := l.segment, value := l.seq, value2 := 0 } s) := by
  have hopt : (tellMedia { kind := .damaged, stream := l.stream, segment := l.segment, value := l.seq, value2 := 0 }
      s).options = s.options := congrArg Held.options (tellMedia_held _ s)
  unfold deliver
  show respond d _ (if (tellMedia _ s).options.damagedReads = 0 then g.bytes else g.bytes.take 16) (tellMedia _ s) = _
  rw [hopt]
  cases d.cmd <;> rfl

end Sys2Proof.Machine

/-!
PROOFS. The commands that an array READ moves on, settled: the lookup (R89 to R92), SEGMENT STATUS (R127), DESCRIBE and
IDENTIFY (R122, R123), and the vault (R136 to R138).
-/

namespace Sys2Proof.Machine

open Sys2Proof

/-! ### The lookup (R89 to R92) -/

theorem goesOn_readRecord_lookup {s : State} {f : CmdFrame} {n seq : Nat} {e : ChainEntry}
    (h : Dispatches s f (.readRecord n seq)) (he : s.rsp.bytes = []) (hd : (streamOf s n).defn ≠ none)
    (hr : holdsRecord (streamOf s n) = true) (hlo : (streamOf s n).oldest ≤ seq) (hhi : seq ≤ (streamOf s n).newest)
    (hf : (streamOf s n).chain.find? (fun x => x.first ≤ seq && seq ≤ x.last) = some e)
    (ht : ∀ p, (streamOf s n).tail = .pos p → aliasSegment s p.segment ≠ e.segment)
    (hj : hasJobInto s e.segment = false) :
    GoesOn .readRecord s f (.readRecord n seq) (.lookup (freshLookup n seq 0 e.segment))
      (s.withRequest .sequencer (.read e.segment 31 0 512)) := by
  refine goesOn_reads (runReadRecord _ n seq) h rfl rfl (fun _ => rfl) he
    ((runReadRecord_begins ?_ ?_ ?_ ?_).trans (startLookup_away ?_ ?_ ?_))
  exacts [hd, hr, hlo, hhi, hf, ht, hj]

theorem goesOn_readNext_lookup {s : State} {f : CmdFrame} {n q : Nat} {e : ChainEntry}
    (h : Dispatches s f (.readNext n)) (he : s.rsp.bytes = []) (hd : (streamOf s n).defn ≠ none)
    (hr : holdsRecord (streamOf s n) = true) (h1 : 1 ≤ (streamOf s n).cursor)
    (h2 : (streamOf s n).cursor ≤ (streamOf s n).newest) (hq : q = max (streamOf s n).cursor (streamOf s n).oldest)
    (hf : (streamOf s n).chain.find? (fun x => x.first ≤ q && q ≤ x.last) = some e)
    (ht : ∀ p, (streamOf s n).tail = .pos p → aliasSegment s p.segment ≠ e.segment)
    (hj : hasJobInto s e.segment = false) :
    GoesOn .readNext s f (.readNext n)
      (.lookup (freshLookup n q ((streamOf s n).oldest - (streamOf s n).cursor) e.segment))
      ((s.withCursorPast n q).withRequest .sequencer (.read e.segment 31 0 512)) := by
  have hrun : runReadNext (newDispatched s f (.readNext n)) n (takenState s f (.readNext n)) =
      setPhase (newDispatched s f (.readNext n))
        (.lookup (freshLookup n q ((streamOf s n).oldest - (streamOf s n).cursor) e.segment))
        (((takenState s f (.readNext n)).withCursorPast n q).withRequest .sequencer (.read e.segment 31 0 512)) := by
    refine runReadNext_away ?_ ?_ ?_ ?_ ?_ ?_ ?_ ?_
    exacts [hd, hr, h1, h2, hq, hf, ht, hj]
  exact goesOn h rfl ((runOf_responding_runs (runReadNext _ n) rfl (fun _ => rfl) he).trans hrun)
    rfl rfl rfl rfl rfl rfl rfl rfl rfl rfl

section

variable {s : State} {d : Dispatched} {l : Lookup} {v : View} {seg frame lo hi : Nat} {noise : ReadNoise}
  (h : Performs s .sequencer (.read seg frame lo hi)) (hd : s.sequencer.dispatched = some d)
  (hp : d.phase = .lookup l) (hv : v = composeView l l.frame (readFrame s.medium seg frame lo hi noise))
include h hd hp hv

/-- A lookup's READ after which no lower frame is left. -/
theorem lookup_exhausted (hs : ∀ o q, v.start = some (o, q) → l.seq < q) (h0 : l.frame = 0) :
    Ends (.arrayReadEnd noise) s d { result := .lost, value := l.seq } s.withIdle := by
  refine ends_read_unchanged h (((sequencerRead_lookup hd hp).trans (lookupRead_below hv.symm hs)).trans ?_)
  rw [h0]
  rfl

/-- A lookup's READ after which the next lower frame is read. -/
theorem lookup_reads_below {k : Nat} (hs : ∀ o q, v.start = some (o, q) → l.seq < q) (hk : l.frame = k + 1)
    (hn : needsNoRead (l.withView l.frame v) k = false) :
    Continues (.arrayReadEnd noise) s d (.lookup { l.withView l.frame v with frame := k })
      (s.withIdle.withRequest .sequencer (.read l.segment k 0 512)) := by
  refine continues_read h (((sequencerRead_lookup hd hp).trans (lookupRead_below hv.symm hs)).trans ?_)
  have hstep := searchFrames_reads (d := d) (s := s.withIdle) hn
  rwa [← hk] at hstep

variable {o q : Nat} (hs : v.start = some (o, q)) (hq : q ≤ l.seq)
include hs hq

theorem sequencerRead_concludes : sequencerRead seg frame lo hi noise s.withIdle =
    concludeLookup d (l.withView l.frame v) (some (l.frame, o, q)) s.withIdle :=
  (sequencerRead_lookup hd hp).trans (lookupRead_serves hv.symm hs hq)

theorem lookup_lost (hf : findRecord (l.withView l.frame v).views l.stream l.seq 33 l.frame o q = none) :
    Ends (.arrayReadEnd noise) s d { result := .lost, value := l.seq } s.withIdle :=
  ends_read_unchanged h ((sequencerRead_concludes h hd hp hv hs hq).trans (concludeLookup_lost hf))

variable {g : Gathered} (hf : findRecord (l.withView l.frame v).views l.stream l.seq 33 l.frame o q = some g)
include hf

theorem sequencerRead_delivers : sequencerRead seg frame lo hi noise s.withIdle =
    deliver d (l.withView l.frame v) g (recordGrade (l.withView l.frame v).views g) s.withIdle :=
  (sequencerRead_concludes h hd hp hv hs hq).trans (concludeLookup_found hf)

/-- A record found that is not BROKEN, where no new weak mark is set. -/
theorem lookup_delivers (hb : recordGrade (l.withView l.frame v).views g ≠ .broken)
    (hm : recordGrade (l.withView l.frame v).views g = .major → (segOf s l.segment).weak = true) :
    (l.skip = 0 →
      Ends (.arrayReadEnd noise) s d
        { result := .done, response := true, value := l.seq,
          aux := deliveryAux d.cmd (recordGrade (l.withView l.frame v).views g) }
        (s.withIdle.withResponse g.bytes)) ∧
    (l.skip ≠ 0 →
      Ends (.arrayReadEnd noise) s d { result := .skipped, response := true, value := l.seq, aux := l.skip }
        (s.withIdle.withResponse g.bytes)) := by
  have hdel := (sequencerRead_delivers h hd hp hv hs hq hf).trans (deliver_unmarked (s := s.withIdle) hb hm)
  exact ⟨fun hk => ends_read_response h (hdel.trans (if_pos hk)),
    fun hk => ends_read_response h (hdel.trans (if_neg hk))⟩

/-- A MAJOR record marks its segment weak, once. -/
theorem lookup_marks_weak (hm : recordGrade (l.withView l.frame v).views g = .major)
    (hw : (segOf s l.segment).weak = false) :
    ∃ t, exec (.arrayReadEnd noise) s = .next t ∧ segOf t l.segment = { segOf s l.segment with weak := true } ∧
      t.rsp = { bytes := g.bytes, index := 0 } ∧ t.sequencer.dispatched = none ∧
      (s.events.holdClear = false → Raised t .media) := by
  have hrun := sequencerRead_delivers h hd hp hv hs hq hf
  rw [hm] at hrun
  obtain ⟨o, hdel⟩ := deliver_weakened (d := d) (l := l.withView l.frame v) (g := g) (s := s.withIdle) hw
  have hexec := exec_arrayReadEnd h (hrun.trans hdel) ((complete_work ..).2.2.trans (tellMedia_work ..).2.2)
  have ht := told_of_respond (s := s) d o g.bytes
    { kind := .weak, stream := l.stream, segment := l.segment, value := l.seq, value2 := 0 }
    (w := updSeg l.segment (fun e => { e with weak := true }) s.withIdle) rfl rfl
  refine ⟨_, hexec, ?_, ht.rsp, ht.dispatched, ht.media⟩
  have hne : { segOf s l.segment with weak := true } ≠ SegEntry.free := by
    intro hfree
    exact Bool.false_ne_true (congrArg SegEntry.weak hfree).symm
  exact (congrArg (fun x => storeGet (fun _ => SegEntry.free) x.map l.segment) ht.segments).trans
    (storeGet_storePut_listed hne _)

/-- A BROKEN record is DAMAGED. -/
theorem lookup_damaged (hb : recordGrade (l.withView l.frame v).views g = .broken) :
    ∃ t, exec (.arrayReadEnd noise) s = .next t ∧
      t.rsp = { bytes := if s.options.damagedReads = 0 then g.bytes else g.bytes.take 16, index := 0 } ∧
      Posts s t (completionOf d.tag d.opcode (cmdDetail d.cmd) d.abortLate
        { result := .damaged, response := true, value := l.seq,
          aux := match d.cmd with | .readRecord _ _ => 3 | _ => 0 }) ∧
      t.sequencer.dispatched = none ∧ (s.events.holdClear = false → Raised t .media) := by
  have hrun := sequencerRead_delivers h hd hp hv hs hq hf
  rw [hb] at hrun
  have hexec := exec_arrayReadEnd h (hrun.trans deliver_broken) ((complete_work ..).2.2.trans (tellMedia_work ..).2.2)
  have ht := told_of_respond (s := s) (w := s.withIdle) d
    { result := .damaged, value := l.seq, aux := match d.cmd with | .readRecord _ _ => 3 | _ => 0 }
    (if s.options.damagedReads = 0 then g.bytes else g.bytes.take 16)
    { kind := .damaged, stream := l.stream, segment := l.segment, value := l.seq, value2 := 0 } rfl rfl
  exact ⟨_, hexec, ht.rsp, ht.posted, ht.dispatched, ht.media⟩

end

/-- Settles O31: the first READ of each command's lookup, and each branch at a READ's end. -/
theorem lookupReadsFramesAndDelivers : Obligations.LookupReadsFramesAndDelivers := by
  refine ⟨⟨fun s f n seq e h he hd hr hlo hhi hf ht hj => goesOn_readRecord_lookup h he hd hr hlo hhi hf ht hj,
    fun s f n q e h he hd hr h1 h2 hq _ hf ht hj => goesOn_readNext_lookup h he hd hr h1 h2 hq hf ht hj⟩, ?_⟩
  rintro s d l l' v seg frame lo hi noise h hd hp hv rfl
  refine ⟨lookup_exhausted h hd hp hv, fun k hs hk hn => lookup_reads_below h hd hp hv hs hk hn, fun o q hs hq =>
    ⟨lookup_lost h hd hp hv hs hq, fun g hf => ⟨fun hg => lookup_delivers h hd hp hv hs hq hf ?_ ?_,
      lookup_marks_weak h hd hp hv hs hq hf, lookup_damaged h hd hp hv hs hq hf⟩⟩⟩
  · rcases hg with hg | hg | ⟨hg, -⟩ <;> exact fun hb => by cases hg.symm.trans hb
  · intro hm
    rcases hg with hg | hg | ⟨-, hw⟩
    · cases hg.symm.trans hm
    · cases hg.symm.trans hm
    · exact hw

end Sys2Proof.Machine

/-!
PROOFS. SEGMENT STATUS (R127), DESCRIBE and IDENTIFY (R122, R123), and the vault's commands (R136 to R138).
-/

namespace Sys2Proof.Machine

open Sys2Proof

/-! ### SEGMENT STATUS (R127) -/

section

variable {d : Dispatched} {g k : Nat} {f : FrameRead} {s : State}

theorem countingReadEnd_erased (hf : frameErased f = true) :
    countingReadEnd d g k f s = writeSegmentStatus d g k s := if_pos hf

theorem countingReadEnd_next (hf : frameErased f = false) (hk : k < 31) :
    countingReadEnd d g k f s = setPhase d (.counting (k + 1)) (s.withRequest .sequencer (.read g (k + 1) 0 512)) :=
  (if_neg (ne_true_of_eq_false hf)).trans (if_pos hk)

theorem countingReadEnd_last (hf : frameErased f = false) (hk : k = 31) :
    countingReadEnd d g k f s = writeSegmentStatus d g 32 s :=
  (if_neg (ne_true_of_eq_false hf)).trans (if_neg (by omega))

end

/-- Settles O34: the count of `countingReadEnd`, and the record of `segmentStatusBytes` byte by byte. -/
theorem segmentStatusCountsTheFrames : Obligations.SegmentStatusCountsTheFrames := by
  refine ⟨fun s f g h he => ⟨fun hg => ?_, fun hu hf => ?_, fun hg hf => ?_⟩,
    fun s d g k seg frame lo hi noise h hd hp hc => ⟨fun hf => ?_, fun hf hk => ?_, fun hf hk => ?_⟩,
    fun g count position e l hu => ?_⟩
  · exact completes_responding (runSegmentStatus _ g) h rfl rfl (fun _ => rfl) he (runSegmentStatus_factory hg)
  · exact completes_responding (runSegmentStatus _ g) h rfl rfl (fun _ => rfl) he
      (runSegmentStatus_erased (s := takenState s f (.segmentStatus g)) hu hf)
  · exact goesOn_reads (runSegmentStatus _ g) h rfl rfl (fun _ => rfl) he
      (runSegmentStatus_counts (s := takenState s f (.segmentStatus g)) hg hf)
  · exact ends_read_response h ((sequencerRead_counting hd hp hc).trans (countingReadEnd_erased hf))
  · exact continues_read h ((sequencerRead_counting hd hp hc).trans (countingReadEnd_next hf hk))
  · exact ends_read_response h ((sequencerRead_counting hd hp hc).trans (countingReadEnd_last hf hk))
  · rw [segmentStatusBytes, if_pos hu]
    simp only [List.append_assoc]
    rfl

/-! ### DESCRIBE and IDENTIFY (R122, R123) -/

section

variable {d : Dispatched} {k : Nat} {first : List Byte} {f : FrameRead} {s : State}

theorem copyReadEnd_passes (hf : copyPasses f = true) :
    copyReadEnd d k first f s =
      complete d { result := .done, response := true, value := 40, aux := k } (s.withResponse f.bytes) := if_pos hf

theorem copyReadEnd_next (hf : copyPasses f = false) (hk : k < 2) :
    copyReadEnd d k first f s =
      setPhase d (.copies (k + 1) (if k = 0 then f.bytes else first))
        (s.withRequest .sequencer (.read 4 (k + 1) 0 40)) :=
  (if_neg (ne_true_of_eq_false hf)).trans (if_pos hk)

/-- After copy 2 the response is copy 0, DAMAGED. -/
theorem copyReadEnd_none (hf : copyPasses f = false) (hk : k = 2) :
    copyReadEnd d k first f s = respond d { result := .damaged, value := 40, aux := 3 } first
      (tellMedia { kind := .damaged, stream := 0xFF, segment := 4, value := 0x62, value2 := 0 } s) := by
  subst hk
  exact (if_neg (ne_true_of_eq_false hf)).trans (if_neg (Nat.lt_irrefl 2))

/-- An identity copy passes where each of its bytes is the complement of the byte 16 places on (R122). -/
theorem identityPasses_iff {bytes : List Byte} {n : Nat} :
    identityPasses bytes n = true ↔
      ∀ b, b < 16 → bytes.getD (32 * n + b) 0 = ~~~ bytes.getD (32 * n + 16 + b) 0 := by
  simp [identityPasses, List.all_eq_true]

/-- The first identity copy that passes is used (R122). -/
theorem identityReadEnd_first {bytes : List Byte} (hk : k < 8)
    (hno : ∀ i, i < k → identityPasses bytes i = false) (hyes : identityPasses bytes k = true) :
    identityReadEnd d bytes s =
      complete d { result := .done, response := true, value := 20, aux := k }
        (s.withResponse (identityRecord bytes k k)) := by
  have hfind : (List.range 8).find? (identityPasses bytes) = some k := by
    rw [List.find?_range_eq_some]
    exact ⟨hyes, List.mem_range.mpr hk, fun i hi => by simp [hno i hi]⟩
  unfold identityReadEnd
  simp only [hfind]
  rfl

/-- The identity record is the copy's sixteen bytes and its number (Table 12-2). -/
theorem identityRecord_eq {bytes : List Byte} (hl : bytes.length = 256) (hk : k < 8) :
    identityRecord bytes k k = (bytes.drop (32 * k)).take 16 ++ [BitVec.ofNat 8 k, 0, 0, 0] := by
  have hfull : 16 - (bytes.drop (32 * k)).length = 0 := by rw [List.length_drop]; omega
  unfold identityRecord fitBytes
  rw [hfull, List.replicate_zero, List.append_nil, List.append_assoc]
  rfl

end

theorem copies_damaged {s : State} {d : Dispatched} {k seg frame lo hi : Nat} {first : List Byte} {noise : ReadNoise}
    (h : Performs s .sequencer (.read seg frame lo hi)) (hd : s.sequencer.dispatched = some d)
    (hp : d.phase = .copies k first) (hf : copyPasses (readFrame s.medium seg frame lo hi noise) = false)
    (hk : k = 2) :
    ∃ t, exec (.arrayReadEnd noise) s = .next t ∧ t.rsp = { bytes := first, index := 0 } ∧
      Posts s t (completionOf d.tag d.opcode (cmdDetail d.cmd) d.abortLate
        { result := .damaged, response := true, value := 40, aux := 3 }) ∧
      (s.events.holdClear = false → Raised t .media) := by
  have hexec := exec_arrayReadEnd h ((sequencerRead_copies hd hp).trans (copyReadEnd_none hf hk))
    ((complete_work ..).2.2.trans (tellMedia_work ..).2.2)
  have ht := told_of_respond (s := s) (w := s.withIdle) d { result := .damaged, value := 40, aux := 3 } first
    { kind := .damaged, stream := 0xFF, segment := 4, value := 0x62, value2 := 0 } rfl rfl
  exact ⟨_, hexec, ht.rsp, ht.posted, ht.media⟩

/-- Settles O40: the READs requested, each outcome of a descriptor copy, and the first identity copy that passes. -/
theorem describeAndIdentifyReadTheirCopies : Obligations.DescribeAndIdentifyReadTheirCopies := by
  refine ⟨fun s f he => ⟨fun h => ?_, fun h => ?_⟩, ?_, ?_⟩
  · exact goesOn_reads _ h rfl rfl (fun _ => rfl) he rfl
  · exact goesOn_reads _ h rfl rfl (fun _ => rfl) he rfl
  · rintro s d k seg frame lo hi first _ noise h hd hp rfl
    exact ⟨fun hf => ends_read_response h ((sequencerRead_copies hd hp).trans (copyReadEnd_passes hf)),
      fun hf hk => continues_read h ((sequencerRead_copies hd hp).trans (copyReadEnd_next hf hk)),
      fun hf hk => copies_damaged h hd hp hf hk⟩
  · rintro s d k seg frame lo hi _ noise h hd hp rfl hl hk hno hyes
    rw [← identityRecord_eq hl hk]
    refine ends_read_response h ((sequencerRead_identity hd hp).trans
      (identityReadEnd_first hk (fun i hi => ?_) (identityPasses_iff.mpr hyes)))
    obtain ⟨b, hb, hne⟩ := hno i hi
    exact eq_false_of_ne_true fun hpass => hne (identityPasses_iff.mp hpass b hb)

/-! ### The next vault slot (R136) -/

/-- The fold of `oneAbove` from any start: above every number of the list, and the start or one above a number of it. -/
theorem foldl_above (l : List Nat) (m : Nat) :
    m ≤ l.foldl (fun m x => max m (x + 1)) m ∧ (∀ x ∈ l, x < l.foldl (fun m x => max m (x + 1)) m) ∧
    (l.foldl (fun m x => max m (x + 1)) m = m ∨ l.foldl (fun m x => max m (x + 1)) m - 1 ∈ l) := by
  induction l generalizing m with
  | nil => simp
  | cons a l ih =>
    obtain ⟨hle, hlt, hor⟩ := ih (max m (a + 1))
    rw [List.foldl_cons]
    refine ⟨by omega, fun x hx => ?_, ?_⟩
    · rcases List.mem_cons.mp hx with rfl | hx
      · omega
      · exact hlt x hx
    · rcases hor with heq | hmem
      · rcases Nat.le_total m a with hm | hm
        · exact .inr (List.mem_cons.mpr (.inl (by omega)))
        · rcases Nat.lt_or_ge a m with ha | ha
          · exact .inl (by omega)
          · exact .inr (List.mem_cons.mpr (.inl (by omega)))
      · exact .inr (List.mem_cons_of_mem _ hmem)

theorem mem_queuedSlots {s : State} {k : Nat} :
    k ∈ queuedSlots s ↔ ∃ j ∈ s.write.jobs, j.segment = 3 ∧ j.frame = k := by
  simp [queuedSlots, and_assoc]

theorem nextSlot_above (s : State) :
    (∀ k ∈ s.vault.written, k < nextSlot s) ∧ (∀ j ∈ s.write.jobs, j.segment = 3 → j.frame < nextSlot s) ∧
    (nextSlot s = 0 ∨ nextSlot s - 1 ∈ s.vault.written ∨
      ∃ j ∈ s.write.jobs, j.segment = 3 ∧ j.frame = nextSlot s - 1) := by
  obtain ⟨-, hlt, hor⟩ := foldl_above (s.vault.written ++ queuedSlots s) 0
  refine ⟨fun k hk => hlt k (List.mem_append_left _ hk),
    fun j hj hs => hlt _ (List.mem_append_right _ (mem_queuedSlots.mpr ⟨j, hj, hs, rfl⟩)), hor.imp_right fun hm => ?_⟩
  exact (List.mem_append.mp hm).imp_right mem_queuedSlots.mp

/-! ### VAULT WRITE and VAULT CLOSE (R136, R138) -/

section

variable {d : Dispatched} {k : Nat} {data : List Byte} {s : State}

theorem runVaultWriteCommand_eq (hc : d.cmd = .vaultWrite k data) :
    runVaultWriteCommand d s = runVaultWrite d k data s := by
  unfold runVaultWriteCommand
  rw [hc]

theorem runVaultWrite_closed (h : s.vault.closed = true) :
    runVaultWrite d k data s = complete d { result := .closed } s := if_pos h

theorem runVaultWrite_order (h : s.vault.closed = false) (hk : k ≠ nextSlot s) :
    runVaultWrite d k data s = complete d { result := .order } s := by
  simp [runVaultWrite, h, hk]

theorem runVaultWrite_guarded (h : s.vault.closed = false) (hk : k = nextSlot s) (hg : guarded s = true) :
    runVaultWrite d k data s = complete d { result := .writeProtected } s := by
  simp [runVaultWrite, h, hk, hg]

/-- A VAULT WRITE past its judgement waits for room or emits its job. -/
theorem runVaultWrite_emits (h : s.vault.closed = false) (hk : k = nextSlot s) (hg : guarded s = false) :
    runVaultWrite d k data s =
      if programRoom s < 1 then setPhase d (.waitRoom 1) s
      else defer d (.vaultWrite k) (emitJob (vaultJob k d.id data) s) := by
  simp [runVaultWrite, h, hk, hg]

theorem runVaultClose_closed (h : s.vault.closed = true) :
    runVaultClose d s = complete d { result := .closed } s := if_pos h

theorem runVaultClose_guarded (h : s.vault.closed = false) (hg : guarded s = true) :
    runVaultClose d s = complete d { result := .writeProtected } s := by
  simp [runVaultClose, h, hg]

theorem runVaultClose_full (h : s.vault.closed = false) (hg : guarded s = false) (hu : 32 ≤ s.vault.used) :
    runVaultClose d s = complete d { result := .ledgerFull } s := by
  simp [runVaultClose, h, hg, hu]

/-- A VAULT CLOSE hands its ledger frame to the engine. -/
theorem runVaultClose_closes (h : s.vault.closed = false) (hg : guarded s = false) (hu : s.vault.used < 32) :
    runVaultClose d s = (setPhase d .closing s).withRequest .ledger
      (.program (systemProgram .ledger 2 s.vault.used (ledgerBytes .closing))) := by
  simp only [runVaultClose, h, hg, Nat.not_le.mpr hu, Bool.false_eq_true, if_false]
  rfl

end

theorem vaultWrite_in_order {s : State} {f : CmdFrame} {k : Nat} {data : List Byte}
    (h : Dispatches s f (.vaultWrite k data)) :
    (s.vault.closed = true → Completes .vaultWrite s f (.vaultWrite k data) { result := .closed } s) ∧
    (s.vault.closed = false → k ≠ nextSlot s →
      Completes .vaultWrite s f (.vaultWrite k data) { result := .order } s) ∧
    (s.vault.closed = false → k = nextSlot s → guarded s = true →
      Completes .vaultWrite s f (.vaultWrite k data) { result := .writeProtected } s) ∧
    (s.vault.closed = false → k = nextSlot s → guarded s = false → s.write.jobs.length = 8 →
      GoesOn .vaultWrite s f (.vaultWrite k data) (.waitRoom 1) s) ∧
    (s.vault.closed = false → k = nextSlot s → guarded s = false → s.write.jobs.length < 8 →
      Defers .vaultWrite s
        ((s.withJobs (s.write.jobs ++ [vaultJob k s.sequencer.nextId data])).withDeferred f (.vaultWrite k))) := by
  have hcmd : ∀ v, runVaultWriteCommand (newDispatched s f (.vaultWrite k data)) v =
      runVaultWrite (newDispatched s f (.vaultWrite k data)) k data v := fun _ => runVaultWriteCommand_eq rfl
  have hroom : programRoom (takenState s f (.vaultWrite k data)) = 8 - s.write.jobs.length := rfl
  refine ⟨fun hc => ?_, fun hc hk => ?_, fun hc hk hg => ?_, fun hc hk hg hj => ?_, fun hc hk hg hj => ?_⟩
  · exact completes_unchanged runVaultWriteCommand h rfl rfl ((hcmd _).trans (runVaultWrite_closed hc))
  · refine completes_unchanged runVaultWriteCommand h rfl rfl ((hcmd _).trans (runVaultWrite_order ?_ ?_))
    exacts [hc, hk]
  · refine completes_unchanged runVaultWriteCommand h rfl rfl ((hcmd _).trans (runVaultWrite_guarded ?_ ?_ ?_))
    exacts [hc, hk, hg]
  · refine goesOn_unchanged runVaultWriteCommand h rfl rfl
      ((hcmd _).trans ((runVaultWrite_emits ?_ ?_ ?_).trans (if_pos ?_)))
    exacts [hc, hk, hg, by rw [hroom]; omega]
  · refine defers h rfl ((hcmd _).trans ((runVaultWrite_emits ?_ ?_ ?_).trans (if_neg ?_))) rfl rfl rfl ?_ rfl
    exacts [hc, hk, hg, by rw [hroom]; omega, by simp [State.withDeferred, State.withJobs]]

theorem vaultClose_in_order {s : State} {f : CmdFrame} (h : Dispatches s f .vaultClose) :
    (s.vault.closed = true → Completes .vaultClose s f .vaultClose { result := .closed } s) ∧
    (s.vault.closed = false → guarded s = true →
      Completes .vaultClose s f .vaultClose { result := .writeProtected } s) ∧
    (s.vault.closed = false → guarded s = false → 32 ≤ s.vault.used →
      Completes .vaultClose s f .vaultClose { result := .ledgerFull } s) ∧
    (s.vault.closed = false → guarded s = false → s.vault.used < 32 →
      GoesOn .vaultClose s f .vaultClose .closing
        (s.withRequest .ledger (.program (systemProgram .ledger 2 s.vault.used (ledgerBytes .closing))))) := by
  refine ⟨fun hc => ?_, fun hc hg => ?_, fun hc hg hu => ?_, fun hc hg hu => ?_⟩
  · exact completes_unchanged runVaultClose h rfl rfl (runVaultClose_closed hc)
  · exact completes_unchanged runVaultClose h rfl rfl (runVaultClose_guarded hc hg)
  · exact completes_unchanged runVaultClose h rfl rfl (runVaultClose_full hc hg hu)
  · exact goesOn h rfl (runVaultClose_closes (s := takenState s f .vaultClose) hc hg hu)
      rfl rfl rfl rfl rfl rfl rfl rfl rfl rfl

/-! ### A slot's READ (R137) -/

section

variable {d : Dispatched} {k : Nat} {f : FrameRead} {s : State}

theorem slotReadEnd_good (hf : k ∉ s.vault.failed) (hg : slotGrade f ≠ .broken) :
    slotReadEnd d k f s =
      complete d { result := .done, response := true, value := 512, aux := k } (s.withResponse f.bytes) :=
  if_neg (by simp [hf, hg])

theorem slotReadEnd_damaged (h : k ∈ s.vault.failed ∨ slotGrade f = .broken) :
    slotReadEnd d k f s = respond d { result := .damaged, value := 512, aux := k } f.bytes
      (tellMedia { kind := .damaged, stream := 0xFF, segment := 3, value := k, value2 := 0 } s) :=
  if_pos (by simpa using h)

end

theorem slot_read_ends {s : State} {d : Dispatched} {k seg frame lo hi : Nat} {noise : ReadNoise}
    (h : Performs s .sequencer (.read seg frame lo hi)) (hd : s.sequencer.dispatched = some d)
    (hp : d.phase = .slotRead) (hc : d.cmd = .vaultRead k) :
    (k ∉ s.vault.failed → slotGrade (readFrame s.medium seg frame lo hi noise) ≠ .broken →
      Ends (.arrayReadEnd noise) s d { result := .done, response := true, value := 512, aux := k }
        (s.withIdle.withResponse (readFrame s.medium seg frame lo hi noise).bytes)) ∧
    (k ∈ s.vault.failed ∨ slotGrade (readFrame s.medium seg frame lo hi noise) = .broken →
      ∃ t, exec (.arrayReadEnd noise) s = .next t ∧
        t.rsp = { bytes := (readFrame s.medium seg frame lo hi noise).bytes, index := 0 } ∧
        Posts s t (completionOf d.tag d.opcode (cmdDetail d.cmd) d.abortLate
          { result := .damaged, response := true, value := 512, aux := k }) ∧
        (s.events.holdClear = false → Raised t .media)) := by
  refine ⟨fun hf hg => ?_, fun hbad => ?_⟩
  · exact ends_read_response h ((sequencerRead_slot hd hp hc).trans (slotReadEnd_good (s := s.withIdle) hf hg))
  · have hexec := exec_arrayReadEnd h
      ((sequencerRead_slot hd hp hc).trans (slotReadEnd_damaged (s := s.withIdle) hbad))
      ((complete_work ..).2.2.trans (tellMedia_work ..).2.2)
    have ht := told_of_respond (s := s) (w := s.withIdle) d { result := .damaged, value := 512, aux := k }
      (readFrame s.medium seg frame lo hi noise).bytes
      { kind := .damaged, stream := 0xFF, segment := 3, value := k, value2 := 0 } rfl rfl
    exact ⟨_, hexec, ht.rsp, ht.posted, ht.media⟩

/-- Settles O38, one command after another; the next slot is a maximum over the written and the queued slots. -/
theorem vaultCommandsActInTheirOrder : Obligations.VaultCommandsActInTheirOrder := by
  refine ⟨⟨fun s f k data h => vaultWrite_in_order h, fun s f k h he => ⟨fun j hj hs hk => ?_, fun hj hk => ?_,
    fun hj hk => ?_⟩, ?_, fun s f h => vaultClose_in_order h⟩, nextSlot_above⟩
  · exact completes_responding (runVaultRead _ k) h rfl rfl (fun _ => rfl) he
      (runVaultRead_queued (s := takenState s f (.vaultRead k)) hj hs hk)
  · exact goesOn_reads (runVaultRead _ k) h rfl rfl (fun _ => rfl) he
      (runVaultRead_written (s := takenState s f (.vaultRead k)) hj hk)
  · exact completes_responding (runVaultRead _ k) h rfl rfl (fun _ => rfl) he
      (runVaultRead_blank (s := takenState s f (.vaultRead k)) hj hk)
  · rintro s d k seg frame lo hi noise h hd hp hc _ rfl
    exact slot_read_ends h hd hp hc

end Sys2Proof.Machine

/-!
PROOFS. The barriers that sync tails (R81, R82): what their jobs leave, and the rows of the lock commands (R126), DOZE
and HALT (R157, R159).
-/

namespace Sys2Proof.Machine

open Sys2Proof

/-! ### Tails synced (R77, R81) -/

/-- A sync of tails changes the streams and the Write Path alone. -/
theorem syncTails_eq (ns : List Nat) (s : State) :
    syncTails ns s = { s with streams := (syncTails ns s).streams, write := (syncTails ns s).write } := by
  induction ns generalizing s with
  | nil => rfl
  | cons n ns ih =>
    have hone : syncTail n s = { s with streams := (syncTail n s).streams, write := (syncTail n s).write } := by
      unfold syncTail
      dsimp only
      split
      · split <;> rfl
      · rfl
    rw [syncTails, ih, hone]

theorem syncTails_sequencer (ns : List Nat) (s : State) : (syncTails ns s).sequencer = s.sequencer := by
  rw [syncTails_eq]

theorem syncTails_events (ns : List Nat) (s : State) : (syncTails ns s).events = s.events := by
  rw [syncTails_eq]

/-- A sync of tails looks at the streams and the Write Path alone. -/
theorem syncTails_congr (ns : List Nat) {s t : State} (hs : t.streams = s.streams) (hw : t.write = s.write) :
    (syncTails ns t).streams = (syncTails ns s).streams ∧ (syncTails ns t).write = (syncTails ns s).write := by
  induction ns generalizing s t with
  | nil => exact ⟨hs, hw⟩
  | cons n ns ih =>
    have hof : streamOf t n = streamOf s n := congrArg (·.getD n Stream.blank) hs
    have hone : (syncTail n t).streams = (syncTail n s).streams ∧ (syncTail n t).write = (syncTail n s).write := by
      unfold syncTail
      rw [hof]
      dsimp only
      split
      · split
        · simp only [emitJob, setStream, hs, hw, and_self]
        · exact ⟨hs, hw⟩
      · exact ⟨hs, hw⟩
    exact ih hone.1 hone.2

/-- Tails synced as the head's command executes: those of the state before, with the frame taken. -/
theorem syncTails_taken (ns : List Nat) (s : State) (f : CmdFrame) (c : Cmd) :
    syncTails ns (takenState s f c) =
      { syncTails ns s with sequencer := takenSequencer s f c, events := roomEvents s } := by
  obtain ⟨hs, hw⟩ := syncTails_congr ns (s := s) (t := takenState s f c) rfl rfl
  rw [syncTails_eq ns (takenState s f c), syncTails_eq ns s, hs, hw]

/-- Pending tails leave the Program Queue with jobs. -/
theorem syncTails_jobs {s : State} (h : pendingStreams s ≠ []) :
    (syncTails (pendingStreams s) s).write.jobs ≠ [] := by
  obtain ⟨n, hn⟩ := List.exists_mem_of_ne_nil _ h
  obtain ⟨-, p, hp, -⟩ := pending_pos (of_decide_eq_true (List.mem_filter.mp hn).2)
  have hjob : syncedJob s n = some (syncedBy (streamOf s n) n p).1 := by simp only [syncedJob, hp]
  rw [(pendingStreams_synced s).rest]
  exact List.append_ne_nil_of_right_ne_nil _ (List.ne_nil_of_mem (List.mem_filterMap.mpr ⟨n, hn, hjob⟩))

/-- A barrier that syncs every pending tail and drains the whole queue (Table 4-5). -/
structure WholeBarrier (c : Cmd) : Prop where
  met : ∀ s, barrierMet c s = s.write.jobs.isEmpty
  scope : ∀ s, barrierScope c s = pendingStreams s

section

variable {d : Dispatched} {s : State} (hb : WholeBarrier d.cmd)
include hb

theorem syncBarrier_noRoom (h : programRoom s < (pendingStreams s).length) :
    syncBarrier d s = setPhase d (.waitRoom (pendingStreams s).length) s := by
  unfold syncBarrier
  rw [hb.scope]
  exact if_pos h

/-- With room the tails' jobs are made, and the barrier drains. -/
theorem syncBarrier_room (h : (pendingStreams s).length ≤ programRoom s) :
    syncBarrier d s = drainBarrier d (syncTails (pendingStreams s) s) := by
  unfold syncBarrier
  rw [hb.scope]
  exact if_neg (Nat.not_lt.mpr h)

theorem syncBarrier_syncs (h : (pendingStreams s).length ≤ programRoom s) (hn : pendingStreams s ≠ []) :
    syncBarrier d s = setPhase d .waitBarrier (syncTails (pendingStreams s) s) := by
  rw [syncBarrier_room hb h, drainBarrier_waits]
  rw [hb.met, List.isEmpty_eq_false_iff]
  exact syncTails_jobs hn

theorem syncBarrier_drains (hn : pendingStreams s = []) : syncBarrier d s = drainBarrier d s := by
  rw [syncBarrier_room hb (by simp [hn]), hn]
  rfl

theorem drainBarrier_whole_waits (hj : s.write.jobs ≠ []) : drainBarrier d s = setPhase d .waitBarrier s :=
  drainBarrier_waits (by rw [hb.met, List.isEmpty_eq_false_iff]; exact hj)

theorem drainBarrier_whole_met (hj : s.write.jobs = []) : drainBarrier d s = afterBarrier d s :=
  drainBarrier_met (by rw [hb.met, hj]; rfl)

end

/-- A dispatch row after which the tails' jobs are queued and the command waits for them. -/
theorem goesOn_syncs {i : Instr} {s : State} {f : CmdFrame} {c : Cmd} (run : Dispatched → State → State)
    (h : Dispatches s f c) (hi : rowOf c = i) (hr : runOf c = run)
    (hw : run (newDispatched s f c) (takenState s f c) =
      setPhase (newDispatched s f c) .waitBarrier (syncTails (pendingStreams s) (takenState s f c))) :
    ∃ u, Synced s (pendingStreams s) u ∧ GoesOn i s f c .waitBarrier u := by
  have hu := syncTails_eq (pendingStreams s) s
  rw [syncTails_taken] at hw
  have hd := syncTails_sequencer (pendingStreams s) s
  refine ⟨_, pendingStreams_synced s, goesOn h hi ((congrFun (congrFun hr _) _).trans hw) (congrArg _ hd)
    (syncTails_events ..) rfl rfl rfl rfl (congrArg (·.deferred) hd).symm rfl rfl ?_⟩
  rw [hu]
  rfl

/-- The row of a barrier over the whole queue waits while a job is queued. -/
theorem exec_barrierEnd_whole_waits {s : State} {d : Dispatched} (hw : waiting s = some d)
    (hp : d.phase = .waitBarrier) (hb : WholeBarrier d.cmd) (hj : s.write.jobs ≠ []) :
    exec .barrierEnd s = .next s :=
  exec_barrierEnd_waits hw hp (by rw [hb.met, List.isEmpty_eq_false_iff]; exact hj)

theorem exec_barrierEnd_whole {s : State} {d : Dispatched} (hw : waiting s = some d)
    (hp : d.phase = .waitBarrier) (hb : WholeBarrier d.cmd) (hj : s.write.jobs = []) :
    exec .barrierEnd s = .next (settle (choose (afterBarrier d s))) :=
  exec_barrierEnd hw hp (by rw [hb.met, hj]; rfl)

/-! ### The lock commands (R126) -/

theorem wholeBarrier_lock {c : Cmd} (h : lockCommand c = true) : WholeBarrier c := by
  cases c with
  | lockAll | unlockRange | freezeLocks => exact ⟨fun _ => rfl, fun _ => rfl⟩
  | _ => cases h

/-- A lock command's update at the end of its barrier. -/
theorem afterBarrier_lock {d : Dispatched} {s : State} (h : lockCommand d.cmd = true) :
    afterBarrier d s = complete d (lockOutcome d.cmd) { s with guard := lockUpdate d.cmd s.guard } := by
  unfold afterBarrier
  cases hc : d.cmd with
  | lockAll | unlockRange | freezeLocks => rfl
  | _ => simp [hc, lockCommand] at h

section

variable {d : Dispatched} {s : State}

theorem runLock_disabled (hm : s.guard.mode = .disabled) : runLock d s = complete d { result := .lockDisabled } s :=
  if_pos hm

theorem runLock_frozen (hm : s.guard.mode = .active) (hf : s.guard.frozen = true) :
    runLock d s = complete d { result := .frozen } s := by
  simp [runLock, hm, hf]

theorem runLock_syncs (hm : s.guard.mode = .active) (hf : s.guard.frozen = false) :
    runLock d s = syncBarrier d s := by
  simp [runLock, hm, hf]

end

/-- A lock command at its dispatch (R126). -/
theorem lock_dispatches {i : Instr} {s : State} {f : CmdFrame} {c : Cmd} (hl : lockCommand c = true)
    (hi : rowOf c = i) (h : Dispatches s f c) :
    (s.guard.mode = .disabled → Completes i s f c { result := .lockDisabled } s) ∧
    (s.guard.mode = .active → s.guard.frozen = true → Completes i s f c { result := .frozen } s) ∧
    (s.guard.mode = .active → s.guard.frozen = false → programRoom s < (pendingStreams s).length →
      GoesOn i s f c (.waitRoom (pendingStreams s).length) s) ∧
    (s.guard.mode = .active → s.guard.frozen = false → pendingStreams s ≠ [] →
      (pendingStreams s).length ≤ programRoom s → ∃ u, Synced s (pendingStreams s) u ∧ GoesOn i s f c .waitBarrier u) ∧
    (s.guard.mode = .active → s.guard.frozen = false → pendingStreams s = [] → s.write.jobs ≠ [] →
      GoesOn i s f c .waitBarrier s) ∧
    (s.guard.mode = .active → s.guard.frozen = false → pendingStreams s = [] → s.write.jobs = [] →
      Completes i s f c (lockOutcome c) { s with guard := lockUpdate c s.guard }) := by
  have hr : runOf c = runLock := by
    cases c with
    | lockAll | unlockRange | freezeLocks => rfl
    | _ => cases hl
  have hb : WholeBarrier (newDispatched s f c).cmd := wholeBarrier_lock hl
  have hsync : s.guard.mode = .active → s.guard.frozen = false →
      runLock (newDispatched s f c) (takenState s f c) = syncBarrier (newDispatched s f c) (takenState s f c) :=
    fun hm hf => runLock_syncs (s := takenState s f c) hm hf
  refine ⟨fun hm => ?_, fun hm hf => ?_, fun hm hf hroom => ?_, fun hm hf hp hroom => ?_, fun hm hf hp hj => ?_,
    fun hm hf hp hj => ?_⟩
  · exact completes_unchanged runLock h hi hr (runLock_disabled hm)
  · exact completes_unchanged runLock h hi hr (runLock_frozen (s := takenState s f c) hm hf)
  · exact goesOn_unchanged runLock h hi hr ((hsync hm hf).trans (syncBarrier_noRoom (s := takenState s f c) hb hroom))
  · exact goesOn_syncs runLock h hi hr ((hsync hm hf).trans (syncBarrier_syncs (s := takenState s f c) hb hroom hp))
  · exact goesOn_unchanged runLock h hi hr (((hsync hm hf).trans
      (syncBarrier_drains (s := takenState s f c) hb hp)).trans (drainBarrier_whole_waits hb hj))
  · have hrun := (((hsync hm hf).trans (syncBarrier_drains (s := takenState s f c) hb hp)).trans
      (drainBarrier_whole_met hb hj)).trans (afterBarrier_lock (d := newDispatched s f c) hl)
    exact completes h hi ((congrFun (congrFun hr _) _).trans hrun) rfl rfl rfl rfl rfl rfl rfl rfl rfl rfl

/-- The end of a lock command's barrier (R126). -/
theorem lock_barrier_ends {s : State} {d : Dispatched} (hl : lockCommand d.cmd = true) (hw : waiting s = some d)
    (hp : d.phase = .waitBarrier) :
    (s.write.jobs ≠ [] → exec .barrierEnd s = .next s) ∧
    (s.write.jobs = [] →
      Ends .barrierEnd s d (lockOutcome d.cmd) { s with guard := lockUpdate d.cmd s.guard }) := by
  have hb := wholeBarrier_lock hl
  refine ⟨exec_barrierEnd_whole_waits hw hp hb, fun hj => ?_⟩
  have hexec := exec_barrierEnd_whole hw hp hb hj
  rw [afterBarrier_lock hl] at hexec
  exact ends hexec rfl rfl rfl rfl rfl rfl rfl rfl

/-- Which segments are locked (R124). -/
theorem locked_cases (s : State) (g : Nat) :
    (s.guard.mode = .disabled → locked s g = false) ∧ (g < 5 ∨ 1023 < g → locked s g = false) ∧
    (s.guard.mode = .active → 5 ≤ g → g ≤ 1023 →
      (s.guard.range = none → locked s g = true) ∧
      ∀ r, s.guard.range = some r →
        ((r.low ≤ g ∧ g ≤ r.high) → locked s g = r.invert) ∧
        ((g < r.low ∨ r.high < g) → locked s g = !r.invert)) := by
  refine ⟨fun hm => ?_, fun hg => ?_, fun hm h5 hg => ⟨fun hr => ?_, fun r hr => ⟨fun hin => ?_, fun hout => ?_⟩⟩⟩
  · simp [locked, hm]
  · have hu : isUser g = false := by simp [isUser]; omega
    simp [locked, hu]
  · simp [locked, hm, hr, isUser, h5, hg]
  · cases hi : r.invert <;> simp [locked, hm, hr, isUser, h5, hg, hi, hin]
  · have hnot : (decide (r.low ≤ g) && decide (g ≤ r.high)) = false := by
      simp only [Bool.and_eq_false_iff, decide_eq_false_iff_not]
      omega
    cases hi : r.invert <;> simp [locked, hm, hr, isUser, h5, hg, hi, hnot]

/-- Settles O32: the three commands differ in `lockUpdate` and `lockOutcome` alone. -/
theorem lockCommandsActAfterTheirBarrier : Obligations.LockCommandsActAfterTheirBarrier := by
  refine ⟨fun i c g o hc => ?_, locked_cases⟩
  obtain ⟨hl, hi, rfl, rfl⟩ : lockCommand c = true ∧ rowOf c = i ∧ lockOutcome c = o ∧ lockUpdate c = g := by
    obtain ⟨rfl, rfl, rfl, rfl⟩ | ⟨rfl, rfl, rfl, rfl⟩ | ⟨low, high, invert, rfl, rfl, rfl, rfl⟩ := hc <;>
      exact ⟨rfl, rfl, rfl, rfl⟩
  refine ⟨fun s f h => lock_dispatches hl hi h, ?_⟩
  rintro s d hw hp rfl
  exact lock_barrier_ends hl hw hp

/-! ### DOZE and HALT (R157, R159) -/

theorem wholeBarrier_doze : WholeBarrier .doze := ⟨fun _ => rfl, fun _ => rfl⟩

theorem wholeBarrier_halt : WholeBarrier .halt := ⟨fun _ => rfl, fun _ => rfl⟩

/-- The machine whose entry into DOZE or HALT is due. -/
def State.withEntryDue (s : State) (e : Entry) : State := { s with power := { s.power with entryDue := some e } }

section

variable {d : Dispatched} {e : Entry} {s : State}

theorem judgeEntry_enters (h : entryCondition s = true) :
    judgeEntry d e s = complete d { result := .done } (s.withEntryDue e) := if_pos h

theorem judgeEntry_stays (h : entryCondition s = false) :
    judgeEntry d e s = complete d { result := .done, notEntered := true } s := if_neg (ne_true_of_eq_false h)

theorem entryCondition_iff : entryCondition s = true ↔ cmdFill s = 0 ∧ engineClear s = true := by
  simp [entryCondition]

end

/-- The entry condition as DOZE and HALT judge it at their dispatch: theirs is the last frame (R157). -/
theorem entryCondition_taken {s : State} {f : CmdFrame} {c : Cmd} (h : Dispatches s f c) :
    entryCondition (takenState s f c) = true ↔
      s.sequencer.queue = [f] ∧ s.host.assembler = .idle ∧ engineClear s = true := by
  obtain ⟨rest, hq, -⟩ := goodHead_eq h.head
  have hfill : cmdFill (takenState s f c) = rest.length + if s.host.assembler = .idle then 0 else 1 := by
    show (s.sequencer.queue.drop 1).length + _ = _
    rw [hq]
    rfl
  have hclear : engineClear (takenState s f c) = engineClear s := rfl
  rw [entryCondition_iff, hfill, hclear, hq, ← and_assoc]
  refine and_congr_left fun _ => ?_
  by_cases ha : s.host.assembler = .idle <;> simp [ha]

theorem afterBarrier_entry {d : Dispatched} {e : Entry} (hc : d.cmd = .doze ∧ e = .doze ∨ d.cmd = .halt ∧ e = .halt)
    (s : State) : afterBarrier d s = judgeEntry d e s := by
  unfold afterBarrier
  obtain ⟨hc, rfl⟩ | ⟨hc, rfl⟩ := hc <;> rw [hc]

theorem wholeBarrier_entry {c : Cmd} {e : Entry} (hc : c = .doze ∧ e = .doze ∨ c = .halt ∧ e = .halt) :
    WholeBarrier c := by
  obtain ⟨rfl, -⟩ | ⟨rfl, -⟩ := hc
  exacts [wholeBarrier_doze, wholeBarrier_halt]

/-- DOZE, and HALT without pending tails, drain the queue and judge the entry condition. -/
theorem entry_dispatches {s : State} {f : CmdFrame} {i : Instr} {c : Cmd} {e : Entry} (h : Dispatches s f c)
    (hi : rowOf c = i) (hc : c = .doze ∧ e = .doze ∨ c = .halt ∧ e = .halt)
    (hrun : runOf c (newDispatched s f c) (takenState s f c) =
      drainBarrier (newDispatched s f c) (takenState s f c)) :
    (s.write.jobs ≠ [] → GoesOn i s f c .waitBarrier s) ∧
    (s.write.jobs = [] → s.sequencer.queue = [f] → s.host.assembler = .idle → engineClear s = true →
      Completes i s f c { result := .done } { s with power := { s.power with entryDue := some e } }) ∧
    (s.write.jobs = [] → s.sequencer.queue ≠ [f] ∨ s.host.assembler ≠ .idle ∨ engineClear s = false →
      Completes i s f c { result := .done, notEntered := true } s) := by
  have hb : WholeBarrier (newDispatched s f c).cmd := wholeBarrier_entry hc
  have hmet : s.write.jobs = [] → runOf c (newDispatched s f c) (takenState s f c) =
      judgeEntry (newDispatched s f c) e (takenState s f c) := fun hj =>
    (hrun.trans (drainBarrier_whole_met (s := takenState s f c) hb hj)).trans
      (afterBarrier_entry (d := newDispatched s f c) hc _)
  refine ⟨fun hj => ?_, fun hj hq ha hk => ?_, fun hj hor => ?_⟩
  · exact goesOn_unchanged _ h hi rfl (hrun.trans (drainBarrier_whole_waits (s := takenState s f c) hb hj))
  · have hw := (hmet hj).trans (judgeEntry_enters ((entryCondition_taken h).mpr ⟨hq, ha, hk⟩))
    exact completes h hi hw rfl rfl rfl rfl rfl rfl rfl rfl rfl rfl
  · refine completes_unchanged _ h hi rfl ((hmet hj).trans (judgeEntry_stays (eq_false_of_ne_true fun hk => ?_)))
    obtain ⟨hq, ha, hk⟩ := (entryCondition_taken h).mp hk
    rcases hor with hor | hor | hor
    exacts [hor hq, hor ha, ne_true_of_eq_false hor hk]

theorem entry_barrier_ends {s : State} {d : Dispatched} {e : Entry} (hw : waiting s = some d)
    (hp : d.phase = .waitBarrier) (hc : d.cmd = .doze ∧ e = .doze ∨ d.cmd = .halt ∧ e = .halt) :
    (s.write.jobs ≠ [] → exec .barrierEnd s = .next s) ∧
    (s.write.jobs = [] → cmdFill s = 0 → engineClear s = true →
      Ends .barrierEnd s d { result := .done } { s with power := { s.power with entryDue := some e } }) ∧
    (s.write.jobs = [] → cmdFill s ≠ 0 ∨ engineClear s = false →
      Ends .barrierEnd s d { result := .done, notEntered := true } s) := by
  have hb : WholeBarrier d.cmd := wholeBarrier_entry hc
  refine ⟨exec_barrierEnd_whole_waits hw hp hb, fun hj hf hk => ?_, fun hj hor => ?_⟩
  · have hexec := exec_barrierEnd_whole hw hp hb hj
    rw [afterBarrier_entry hc, judgeEntry_enters (entryCondition_iff.mpr ⟨hf, hk⟩)] at hexec
    exact ends hexec rfl rfl rfl rfl rfl rfl rfl rfl
  · have hno : entryCondition s = false := eq_false_of_ne_true fun hk => by
      obtain ⟨hf, hk⟩ := entryCondition_iff.mp hk
      exact hor.elim (fun h => h hf) (fun h => ne_true_of_eq_false h hk)
    have hexec := exec_barrierEnd_whole hw hp hb hj
    rw [afterBarrier_entry hc, judgeEntry_stays hno] at hexec
    exact ends hexec rfl rfl rfl rfl rfl rfl rfl rfl

/-- Settles O44: the two commands judge at their dispatch or at their barrier's end, HALT after its tails' jobs. -/
theorem dozeAndHaltJudgeTheEntryCondition : Obligations.DozeAndHaltJudgeTheEntryCondition := by
  refine ⟨fun s f i c e h hc => ?_, fun s f h hn => ⟨fun hroom => ?_, fun hroom => ?_⟩,
    fun s d e hw hp hc => entry_barrier_ends hw hp hc⟩
  · obtain ⟨rfl, rfl, rfl⟩ | ⟨rfl, rfl, rfl, hn⟩ := hc
    · exact entry_dispatches h rfl (.inl ⟨rfl, rfl⟩) rfl
    · exact entry_dispatches h rfl (.inr ⟨rfl, rfl⟩)
        (syncBarrier_drains (d := newDispatched s f .halt) (s := takenState s f .halt) wholeBarrier_halt hn)
  · exact goesOn_unchanged syncBarrier h rfl rfl
      (syncBarrier_noRoom (d := newDispatched s f .halt) (s := takenState s f .halt) wholeBarrier_halt hroom)
  · exact goesOn_syncs syncBarrier h rfl rfl
      (syncBarrier_syncs (d := newDispatched s f .halt) (s := takenState s f .halt) wholeBarrier_halt hroom hn)

end Sys2Proof.Machine

/-!
PROOFS. The Timebase's commands and pulses (R141 to R145), and the entries into DOZE and HALT with the wakes
from them (R147, R157 to R159).
-/

namespace Sys2Proof.Machine

open Sys2Proof

/-! ### SET TIME and SET ALARM (R143, R145) -/

/-- A command whose own execution replaces the Timebase and completes. -/
theorem completes_withTime {i : Instr} {s : State} {f : CmdFrame} {c : Cmd} {o : Outcome} {m : Timebase}
    (run : Dispatched → State → State) (h : Dispatches s f c) (hi : rowOf c = i) (hr : runOf c = run)
    (hw : run (newDispatched s f c) (takenState s f c) =
      complete (newDispatched s f c) o { takenState s f c with time := m }) :
    Completes i s f c o { s with time := m } :=
  completes (w := { takenState s f c with time := m }) h hi (by rw [hr]; exact hw)
    rfl rfl rfl rfl rfl rfl rfl rfl rfl rfl

theorem runSetTime_eq {d : Dispatched} {epoch : Byte} {ticks : Word32} (hc : d.cmd = .setTime epoch ticks)
    (s : State) :
    runSetTime d s = complete d { result := .done, value := ticks.toNat, aux := epoch.toNat }
      { s with time := { s.time with counter := ticks, epoch := epoch, prescaler := 0, valid := true } } := by
  unfold runSetTime
  rw [hc]

theorem runSetAlarm_arms {d : Dispatched} {action : Nat} {ticks : Word32} (hc : d.cmd = .setAlarm action ticks)
    (ha : action = 1) (s : State) :
    runSetAlarm d s = complete d { result := .done, value := ticks.toNat, aux := 1 }
      { s with time := { s.time with armed := true, alarm := ticks } } := by
  unfold runSetAlarm
  rw [hc]
  exact if_pos ha

theorem runSetAlarm_cancels {d : Dispatched} {action : Nat} {ticks : Word32} (hc : d.cmd = .setAlarm action ticks)
    (ha : action = 0) (s : State) :
    runSetAlarm d s = complete d { result := .done } { s with time := { s.time with armed := false } } := by
  unfold runSetAlarm
  rw [hc]
  exact if_neg (by omega)

/-! ### What is due, by the parts it looks at -/

theorem isAwake_congr {s t : State} (hw : t.power = s.power) (hp : t.pins = s.pins) : isAwake t = isAwake s := by
  unfold isAwake operating
  rw [hw, hp]

/-- Whether something is due depends on the abort, the power state, the pins, the DISPATCHED command and the number of
jobs alone. -/
theorem nothingDue_congr {s t : State} (ha : t.host.aborting = s.host.aborting) (hw : t.power = s.power)
    (hp : t.pins = s.pins) (hd : t.sequencer.dispatched = s.sequencer.dispatched)
    (hj : t.write.jobs = s.write.jobs) : nothingDue t = nothingDue s := by
  unfold nothingDue tailsDue programRoom
  rw [placingDue_of_dispatched hd, isAwake_congr hw hp, ha, hw, hd, hj]

/-- The head job is locked or not by the guard's mode and range, and by the head job. -/
theorem NoLockedHead.of_heldGuard {s t : State} (h : NoLockedHead s) (hg : t.held.guard = s.held.guard)
    (hj : t.write.jobs = s.write.jobs) : NoLockedHead t := by
  have hmode : t.guard.mode = s.guard.mode := (congrArg GuardUnit.mode hg :)
  have hrange : t.guard.range = s.guard.range := (congrArg GuardUnit.range hg :)
  intro j hm
  unfold locked
  rw [hmode, hrange]
  exact h j (hj ▸ hm)

/-! ### A source pulse (R141, R145) -/

theorem pulseBody_work (p : Pulse) (s : State) : SameWork s (pulseBody p s) := withPulse_work (some p) s

/-- A pulse's body does not change what is due. -/
theorem nothingDue_pulseBody {p : Pulse} {s : State} (h : nothingDue s = true) : nothingDue (pulseBody p s) = true := by
  have hheld := pulseBody_held p s
  rw [nothingDue_congr (congrArg (fun k => k.host.aborting) hheld) (congrArg Held.power hheld)
    (congrArg Held.pins hheld) (congrArg Held.dispatched hheld) (pulseBody_work p s).2.1]
  exact h

/-- A pulse with nothing due and no wake is its body, its occurrences, the choice of work and the posting. -/
theorem sourcePulse_of {p : Pulse} {s v : State} (h : nothingDue s = true)
    (hv : (if s.power.state = .doze ∧ pulseWakes p s then wake (pulseBody p s) else pulseBody p s) = v) :
    sourcePulse p s = settle (choose (pulseEvents p s v)) := by
  have hdue : pulseDue p s = v := by
    unfold pulseDue
    rw [due_none (nothingDue_pulseBody h)]
    exact hv
  have hdef : (pulseEvents p s v).sequencer.deferred = s.sequencer.deferred := by
    have hbody : v.sequencer.deferred = s.sequencer.deferred := by
      rw [← hv]
      split <;> exact pulseBody_deferred p s
    rw [(pulseEvents_work p s v).2.2, hbody]
  rw [sourcePulse_eq, hdue, ifDeferred_not (by rw [hdef])]

/-- The end of an event with a pulse, from the state with the pulse's body and what the row did. -/
theorem pulse_ends {p : Pulse} {s v : State} (hg : v.held.guard = s.held.guard) (hw : SameWork s v) :
    (settle (choose (pulseEvents p s v))).held = v.held ∧
    (NoLockedHead s → SameWork s (settle (choose (pulseEvents p s v)))) := by
  have hev := pulseEvents_held p s v
  have hwork := hw.trans (pulseEvents_work p s v)
  refine ⟨by rw [settle_held, choose_held, hev], fun hn => hwork.trans ((close_spec _).work ?_)⟩
  exact hn.of_heldGuard ((congrArg Held.guard hev).trans hg) hwork.2.1

section

variable {p : Pulse} {s : State} (hc : nothingDue s = true) (hz : s.power.state ≠ .doze)
include hc hz

theorem sourcePulse_awake : sourcePulse p s = settle (choose (pulseEvents p s (pulseBody p s))) :=
  sourcePulse_of hc (if_neg fun h => hz h.1)

/-- A pulse outside DOZE changes the Timebase alone of what is held. -/
theorem sourcePulse_settles :
    (sourcePulse p s).held = { s.held with time := pulseTime p s } ∧
      (NoLockedHead s → SameWork s (sourcePulse p s)) := by
  have hbody := pulseBody_held p s
  have hguard : (pulseBody p s).held.guard = s.held.guard := by rw [hbody]
  rw [sourcePulse_awake hc hz, ← hbody]
  exact pulse_ends hguard (pulseBody_work p s)

/-- The occurrences of a pulse outside DOZE are pending after it. -/
theorem sourcePulse_raises (hh : s.events.holdClear = false) :
    (wraps p s = true → Raised (sourcePulse p s) .wrap) ∧
    (matchesAlarm p s = true → Raised (sourcePulse p s) .alarm) := by
  have hclear : (pulseBody p s).events.holdClear = false :=
    (congrArg Held.holdClear (pulseBody_held p s)).trans hh
  obtain ⟨hw, ha⟩ := pulseEvents_raised (p := p) (s₀ := s) hclear
  rw [sourcePulse_awake hc hz]
  exact ⟨fun h => (close_spec _).bits _ (hw h), fun h => (close_spec _).bits _ (ha h)⟩

end

section

variable {p : Pulse} {s : State} (hc : pulseCounts p s = true)
  (hb : 2 ^ s.options.tickDivider ≤ s.time.prescaler + 1)
include hc hb

theorem increments_of : increments p s = true := by
  unfold increments completesPrescaler
  rw [hc, decide_eq_true hb]
  rfl

theorem wraps_iff : wraps p s = true ↔ s.time.counter = 0xFFFFFFFF := by
  simp [wraps, increments_of hc hb]

theorem matchesAlarm_iff :
    matchesAlarm p s = true ↔ s.time.armed = true ∧ s.time.counter + 1 = s.time.alarm := by
  simp [matchesAlarm, increments_of hc hb]

/-- The Timebase after the pulse that completes 2 raised to the divider (R141, R145). -/
theorem pulseTime_increments :
    pulseTime p s = { s.time with
      prescaler := 0
      counter := s.time.counter + 1
      epoch := if s.time.counter = 0xFFFFFFFF then s.time.epoch + 1 else s.time.epoch
      armed := s.time.armed && decide (s.time.counter + 1 ≠ s.time.alarm) } := by
  have harmed : (s.time.armed && !matchesAlarm p s) =
      (s.time.armed && decide (s.time.counter + 1 ≠ s.time.alarm)) := by
    rw [Bool.eq_iff_iff]
    simp only [Bool.and_eq_true, Bool.not_eq_true', Bool.eq_false_iff, ne_eq, matchesAlarm_iff hc hb, decide_eq_true_eq]
    tauto
  unfold pulseTime
  rw [if_pos (increments_of hc hb), harmed]
  simp only [wraps_iff hc hb]

/-- The rows of an increment, a wrap and a match are that pulse, where it is one. -/
theorem exec_pulseRow {i : Instr}
    (hi : i = .sourcePulse p ∨ i = .tickIncrement p ∨ i = .counterWrap p ∧ s.time.counter = 0xFFFFFFFF ∨
      i = .alarmMatch p ∧ s.time.armed = true ∧ s.time.counter + 1 = s.time.alarm) :
    exec i s = .next (sourcePulse p s) := by
  obtain rfl | rfl | ⟨rfl, hw⟩ | ⟨rfl, ha⟩ := hi
  · exact congrArg Host.Outcome.next (if_pos hc)
  · exact congrArg Host.Outcome.next (if_pos (increments_of hc hb))
  · exact congrArg Host.Outcome.next (if_pos ((wraps_iff hc hb).mpr hw))
  · exact congrArg Host.Outcome.next (if_pos ((matchesAlarm_iff hc hb).mpr ha))

end

/-- Settles O42: the two commands replace the Timebase, and a pulse outside DOZE is its body and its occurrences. -/
theorem timeIsSetArmedAndCounted : Obligations.TimeIsSetArmedAndCounted := by
  refine ⟨⟨fun s f epoch ticks h => ?_, fun s f action ticks h => ⟨fun ha => ?_, fun ha => ?_⟩⟩,
    fun s p hc hz => ⟨fun hn => ?_, fun hp hb => ?_, fun hp hb i hi => ?_⟩⟩
  · exact completes_withTime runSetTime h rfl rfl (runSetTime_eq (d := newDispatched s f (.setTime epoch ticks)) rfl _)
  · exact completes_withTime runSetAlarm h rfl rfl
      (runSetAlarm_arms (d := newDispatched s f (.setAlarm action ticks)) rfl ha _)
  · exact completes_withTime runSetAlarm h rfl rfl
      (runSetAlarm_cancels (d := newDispatched s f (.setAlarm action ticks)) rfl ha _)
  · exact congrArg Host.Outcome.next (if_neg (ne_true_of_eq_false hn))
  · have hs := sourcePulse_settles (p := p) hc hz
    rw [pulseTime_below hp hb] at hs
    exact ⟨_, congrArg Host.Outcome.next (if_pos hp), hs⟩
  · obtain ⟨hheld, hwork⟩ := sourcePulse_settles (p := p) hc hz
    rw [pulseTime_increments hp hb] at hheld
    have hraise := sourcePulse_raises (p := p) hc hz
    exact ⟨_, exec_pulseRow hp hb hi, hheld, fun hh hw => (hraise hh).1 ((wraps_iff hp hb).mpr hw),
      fun hh ha hm => (hraise hh).2 ((matchesAlarm_iff hp hb).mpr ⟨ha, hm⟩), hwork⟩

/-! ### The entries into DOZE and HALT (R157, R159) -/

theorem awakeOf_awake {s : State} {a : Awake} (h : s.power.state = .awake a) : awakeOf s = some a := by
  unfold awakeOf
  rw [h]

theorem isAwake_of {s : State} {a : Awake} (ho : operating s = true) (h : s.power.state = .awake a) :
    isAwake s = true := by
  unfold isAwake
  rw [ho, h]
  rfl

/-- Where an entry is the sole duty, the next internal event takes it. -/
theorem due_entry {s : State} {a : Awake} {e : Entry} (ho : operating s = true) (ha : s.power.state = .awake a)
    (h : soleDuty s false none (some e)) : due s = takeEntry s := by
  obtain ⟨habort, hsoft, -, hplace⟩ := h
  have htails : tailsDue s = none := tailsDue_none (by simp [hsoft]) (by simp [hsoft])
  have hlive : windowLive s = true := by
    unfold windowLive
    rw [ho, ha]
    rfl
  have hno : ¬ s.power.soft = some .abortSteps := by simp [hsoft]
  unfold due
  simp only [hlive, if_true, softTails_none htails, habort, Bool.false_eq_true, if_false, if_neg hno,
    goOnPlacing_none hplace]

/-- Outside READY and RESTRICTED the engine chooses nothing. -/
theorem choose_of_not_awake {s : State} (h : isAwake s = false) : choose s = s := by
  unfold choose chooseWork
  rw [h]
  rfl

theorem dozeEntry_enters {s : State} {a : Awake} (ho : operating s = true) (ha : s.power.state = .awake a)
    (h : soleDuty s false none (some .doze)) : exec .dozeEntry s = .next (settle (enterDoze s)) := by
  have htake : due s = enterDoze s := by
    rw [due_entry ho ha h, takeEntry, h.2.2.1]
  have hexec : exec .dozeEntry s = .next (internalEvent id s) :=
    congrArg Host.Outcome.next (if_pos ⟨isAwake_of ho ha, h.2.2.1⟩)
  rw [hexec, internalEvent_id htake (Nat.le_refl _), choose_of_not_awake]
  exact Bool.and_false _

theorem haltEntry_enters {s : State} {a : Awake} (ho : operating s = true) (ha : s.power.state = .awake a)
    (h : soleDuty s false none (some .halt)) : exec (.haltEntry none) s = .next (settle (enterHalt s)) := by
  have htake : due s = enterHalt s := by
    rw [due_entry ho ha h, takeEntry, h.2.2.1]
  have hexec : exec (.haltEntry none) s = .next (settle (choose (due s))) :=
    congrArg Host.Outcome.next (if_pos ⟨isAwake_of ho ha, h.2.2.1⟩)
  rw [hexec, htake, choose_of_not_awake]
  exact Bool.and_false _

/-! ### The wakes (R147, R158, R159) -/

theorem windowLive_doze {s : State} (ho : operating s = true) (h : s.power.state = .doze) : windowLive s = true := by
  unfold windowLive
  rw [ho, h]
  rfl

/-- An internal event whose body changes the power state and the Timebase alone. -/
theorem wake_event {s v : State} (hc : nothingDue s = true) {body : State → State} (hv : body s = v)
    (hg : v.held.guard = s.held.guard) (hw : SameWork s v) :
    (internalEvent body s).held = v.held ∧ (NoLockedHead s → SameWork s (internalEvent body s)) := by
  rw [internalEvent_of hc (by rw [hv, hw.2.2]), hv]
  exact ⟨(settle_held _).trans (choose_held _),
    fun hn => hw.trans ((close_spec v).work (hn.of_heldGuard hg hw.2.1))⟩

/-- Settles O45: each entry is what is due, and each wake is a change of the power state in an event of its own. -/
theorem entriesAndWakes : Obligations.EntriesAndWakes := by
  refine ⟨fun s a ho ha => ⟨fun h => ?_, fun h => ?_⟩, fun s a ho hc hr => ⟨fun hz => ⟨?_, fun p hp => ?_⟩,
    fun hz => ?_⟩⟩
  · refine ⟨_, dozeEntry_enters ho ha h, ?_, (settle_spec _).2.1⟩
    rw [settle_held, ← awakeOf_awake ha]
    rfl
  · refine ⟨_, haltEntry_enters ho ha h, ?_, (settle_spec _).2.2.2.2.2.1, ?_⟩
    · rw [settle_held, ← awakeOf_awake ha]
      rfl
    · exact SameWork.trans (b := enterHalt s) ⟨rfl, rfl, rfl⟩ (settle_spec _).2.1
  · have hexec : exec (.dozeWake .wakeN) s = .next (internalEvent wake s) :=
      congrArg Host.Outcome.next (if_pos ⟨windowLive_doze ho hz, hz⟩)
    refine ⟨_, hexec, ?_⟩
    exact wake_event (v := { s with power := { s.power with state := .awake a } }) hc
      (by rw [wake, hr]; rfl) rfl ⟨rfl, rfl, rfl⟩
  · have hexec : exec (.dozeWake (.pulse p)) s = .next (sourcePulse p s) :=
      congrArg Host.Outcome.next (if_pos ⟨windowLive_doze ho hz, hz, hp⟩)
    have hbody := pulseBody_held p s
    have hpower : (pulseBody p s).power = s.power := congrArg Held.power hbody
    have hwake : wake (pulseBody p s) =
        { pulseBody p s with power := { s.power with state := .awake a } } := by rw [wake, hpower, hr]; rfl
    obtain ⟨hheld, hwork⟩ := pulse_ends (p := p) (s := s)
      (v := { pulseBody p s with power := { s.power with state := .awake a } })
      (by show (pulseBody p s).held.guard = _; rw [hbody]) (pulseBody_work p s)
    refine ⟨_, hexec, ?_⟩
    rw [sourcePulse_of hc ((if_pos ⟨hz, hp⟩).trans hwake)]
    exact ⟨hheld.trans (congrArg (fun k : Held => { k with power := { s.power with state := .awake a } }) hbody), hwork⟩
  · have hexec : exec .haltWake s =
        .next (internalEvent (fun s => wake { s with time := { s.time with running := true } }) s) :=
      congrArg Host.Outcome.next (if_pos ⟨ho, hz⟩)
    refine ⟨_, hexec, ?_⟩
    exact wake_event (v := { s with power := { s.power with state := .awake a }
                                    time := { s.time with running := true } }) hc
      (by show wake _ = _; rw [wake, hr]; rfl) rfl ⟨rfl, rfl, rfl⟩

end Sys2Proof.Machine

/-!
PROOFS. COMMIT's judgement (Figure 4-1 steps 1 to 5, Table 4-4) and what it refuses or completes FULL (R73, R75, R79).
-/

namespace Sys2Proof.Machine

open Sys2Proof

/-! ### The judgement, step by step -/

section

variable {s : State} {n : Nat} {d : Definition}

theorem judgeCommit_undefined (h : (streamOf s n).defn = none) : judgeCommit s n = .refuse .noStream := by
  simp only [judgeCommit, h]

theorem judgeCommit_refuses (h : (streamOf s n).defn ≠ none)
    (hs : (streamOf s n).state = .archived ∨ (streamOf s n).state = .faulted) :
    judgeCommit s n = .refuse .refusedState := by
  obtain ⟨d, hd⟩ := Option.ne_none_iff_exists'.mp h
  simp only [judgeCommit, hd, hs, if_true]

section

variable (h : takesRecords (streamOf s n) = true)
include h

theorem judgeCommit_elsewhere (he : stagedElsewhere s n = true) : judgeCommit s n = .refuse .stageBusy := by
  obtain ⟨hd, hs⟩ := takesRecords_accepts h
  obtain ⟨d, hd⟩ := Option.ne_none_iff_exists'.mp hd
  unfold stagedElsewhere at he
  simp only [judgeCommit, hd, hs, he, if_false, if_true]

theorem judgeCommit_guarded (he : stagedElsewhere s n = false) (hg : guarded s = true) :
    judgeCommit s n = .refuse .writeProtected := by
  obtain ⟨hd, hs⟩ := takesRecords_accepts h
  obtain ⟨d, hd⟩ := Option.ne_none_iff_exists'.mp hd
  unfold stagedElsewhere at he
  simp only [judgeCommit, hd, hs, he, hg, Bool.false_eq_true, if_false, if_true]

end

/-- Steps 4 and 5, after steps 1 to 3 have found no fault. -/
def judgePlacement (s : State) (n : Nat) (d : Definition) : Judgement :=
  if 16 + (stagedPayload s).length ≤ spaceLeft (streamOf s n) then
    if (writeEntry s (streamOf s n)).any (fun e => locked s e.segment) then .refuse .writeProtected else .place .inPlace
  else
    match newPlacement s (streamOf s n) d with
    | .full r => .full r
    | p =>
      if (writeEntry s (streamOf s n)).any (fun e => locked s e.segment) && 0 < pendingBytes (streamOf s n).tail then
        .refuse .writeProtected
      else .place p

theorem judgeCommit_open (h : CommitOpen s n) (hd : (streamOf s n).defn = some d) :
    judgeCommit s n =
      if (streamOf s n).newest = 4294967295 then .full .sequenceEnd else judgePlacement s n d := by
  obtain ⟨-, hs⟩ := takesRecords_accepts h.takes
  have he := h.staging
  unfold stagedElsewhere at he
  simp only [judgeCommit, hd, hs, he, h.unguarded, Bool.false_eq_true, if_false]
  rfl

theorem writeUnlocked_iff :
    WriteUnlocked s n ↔ (writeEntry s (streamOf s n)).any (fun e => locked s e.segment) = false := by
  unfold WriteUnlocked
  cases writeEntry s (streamOf s n) <;> simp

/-- The record fits the write segment (step 4). -/
theorem judgePlacement_fits (hl : 16 + (stagedPayload s).length ≤ spaceLeft (streamOf s n)) :
    (WriteUnlocked s n → judgePlacement s n d = .place .inPlace) ∧
      (¬ WriteUnlocked s n → judgePlacement s n d = .refuse .writeProtected) := by
  unfold judgePlacement
  rw [writeUnlocked_iff, if_pos hl]
  exact ⟨fun h => by rw [h]; rfl, fun h => if_pos (by simpa using h)⟩

section

variable (hl : spaceLeft (streamOf s n) < 16 + (stagedPayload s).length)
include hl

/-- No place by Table 4-4. -/
theorem judgePlacement_full {r : FullReason} (hp : newPlacement s (streamOf s n) d = .full r) :
    judgePlacement s n d = .full r := by
  simp only [judgePlacement, if_neg (Nat.not_le.mpr hl), hp]

/-- A new segment by Table 4-4, unless the closing pad would enter a locked one (step 5). -/
theorem judgePlacement_new {b : Bool} (hp : newPlacement s (streamOf s n) d = .newSegment b) :
    (WriteUnlocked s n ∨ pendingBytes (streamOf s n).tail = 0 → judgePlacement s n d = .place (.newSegment b)) ∧
      (¬ WriteUnlocked s n → 0 < pendingBytes (streamOf s n).tail →
        judgePlacement s n d = .refuse .writeProtected) := by
  simp only [judgePlacement, if_neg (Nat.not_le.mpr hl), hp, writeUnlocked_iff]
  refine ⟨fun h => if_neg ?_, fun h hb => if_pos ?_⟩
  · rcases h with h | h <;> simp [h]
  · simpa [hb] using h

end

/-! ### Table 4-4 -/

section

variable (hq : d.quota ≤ ownedCount (streamOf s n))
include hq

theorem newPlacement_linear (hm : d.mode = .linear) : newPlacement s (streamOf s n) d = .full .quota := by
  simp only [newPlacement, if_pos hq, hm]

section

variable {e : ChainEntry} {es : List ChainEntry} (hc : (streamOf s n).chain = e :: es) (hm : d.mode = .ring)
include hc hm

theorem newPlacement_sealedHead (he : e.isSealed = true) :
    newPlacement s (streamOf s n) d = .full .sealedHead := by
  simp [newPlacement, hq, hm, hc, he]

theorem newPlacement_onlyWriteSegment (he : e.isSealed = false) (hw : writeEntry s (streamOf s n) = some e) :
    newPlacement s (streamOf s n) d = .full .quota := by
  simp [newPlacement, hq, hm, hc, he, hw]

/-- At its quota a RING stream whose oldest segment can be given up reclaims it, and is else FULL. -/
theorem newPlacement_ring (he : e.isSealed = false) (hw : writeEntry s (streamOf s n) ≠ some e) :
    newPlacement s (streamOf s n) d =
      if canReclaim s (streamOf s n) then .newSegment true else .full .noSpace := by
  simp [newPlacement, hq, hm, hc, he, Ne.symm hw]

end

end

theorem canReclaim_not {e : ChainEntry} {es : List ChainEntry} (hc : (streamOf s n).chain = e :: es)
    (h : hasJobInto s e.segment = true ∨ (availableSegs s).length + (if locked s e.segment then 0 else 1) < 3) :
    canReclaim s (streamOf s n) = false := by
  unfold canReclaim
  cases hr : reclaimCandidate s (streamOf s n) with
  | none => rfl
  | some x =>
    have hx : hasJobInto s e.segment = false ∧ e = x := by
      simp only [reclaimCandidate, hc, Option.ite_none_right_eq_some, Bool.and_eq_true, Bool.not_eq_true'] at hr
      exact ⟨hr.1.1.2, Option.some.inj hr.2⟩
    obtain ⟨hj, rfl⟩ := hx
    have := h.resolve_left (by simp [hj])
    simpa [allocatableAfter] using this

section

variable (hq : ownedCount (streamOf s n) < d.quota)
include hq

theorem newPlacement_available (ha : 3 ≤ (availableSegs s).length) :
    newPlacement s (streamOf s n) d = .newSegment false := by
  simp only [newPlacement, if_neg (Nat.not_le.mpr hq), if_pos ha]

theorem newPlacement_noSpace (ha : (availableSegs s).length < 3)
    (h : d.mode = .linear ∨ ownedCount (streamOf s n) < 2) :
    newPlacement s (streamOf s n) d = .full .noSpace := by
  have hn : ¬ (d.mode = .ring ∧ 2 ≤ ownedCount (streamOf s n) ∧ canReclaim s (streamOf s n) = true) := by
    rintro ⟨hm, ho, -⟩
    rcases h with h | h
    · exact absurd (hm.symm.trans h) (by decide)
    · omega
  simp only [newPlacement, if_neg (Nat.not_le.mpr hq), if_neg (Nat.not_le.mpr ha), if_neg hn]

end

end

/-! ### The refusals -/

section

variable {s : State} {f : CmdFrame} {n : Nat} {attr : Byte} (h : Dispatches s f (.commit n attr))
include h

theorem commit_refuses {r : Result} (hj : judgeCommit s n = .refuse r) :
    Completes .commit s f (.commit n attr) { result := r } s :=
  completes_unchanged runCommitCommand h rfl rfl (by
    have hj' : judgeCommit (takenState s f (.commit n attr)) n = .refuse r := hj
    show runCommit _ n attr _ = _
    simp only [runCommit, hj'])

/-! ### FULL -/

omit h in
/-- A stream that is not FAULTED takes a reason of FULL in its place, and SPACE tells of it when it is new (R79). -/
theorem enterFull_eq {r : FullReason} (hs : (streamOf s n).state ≠ .faulted) :
    ∃ e, enterFull n r s = { setStream n { streamOf s n with state := .full r } s with events := e } ∧
      ((streamOf s n).state ≠ .full r → s.events.holdClear = false → e.latched &&& Event.bit .space = Event.bit .space)
    := by
  by_cases hr : (streamOf s n).state = .full r
  · refine ⟨s.events, ?_, fun h => absurd hr h⟩
    have hself : { streamOf s n with state := .full r } = streamOf s n := by rw [← hr]
    rw [hself, setStream_self]
    exact if_pos (.inl hr)
  · cases hc : s.events.holdClear with
    | true =>
      refine ⟨s.events, ?_, fun _ h => Bool.noConfusion h⟩
      simp [enterFull, hr, hs, addNotice, addNoticeAt, raise, setStream, hc]
    | false =>
      refine ⟨{ s.events with
        latched := s.events.latched ||| Event.bit .space
        fresh := s.events.fresh ++ [(noticeRank .streamFull,
          { kind := .streamFull, stream := n, segment := 0xFFFF, value := fullCode r,
            value2 := (streamOf s n).newest })] }, ?_, fun _ _ => or_and_self_byte s.events.latched _⟩
      simp [enterFull, hr, hs, addNotice, addNoticeAt, raise, setStream, hc]

theorem commit_completesFull {r : FullReason} (ht : takesRecords (streamOf s n) = true)
    (hj : judgeCommit s n = .full r) : CompletesFull s f n attr r := by
  let o : Outcome := { result := .full, value := fullCode r, aux := (streamOf s n).durable }
  let w := complete (newDispatched s f (.commit n attr)) o (takenState s f (.commit n attr))
  have hrun : runOf (.commit n attr) (newDispatched s f (.commit n attr)) (afterTake s f (.commit n attr)) =
      enterFull n r w := by
    rw [afterTake_eq]
    have hj' : judgeCommit (takenState s f (.commit n attr)) n = .full r := hj
    show runCommit _ n attr (takenState s f (.commit n attr)) = _
    simp only [runCommit, hj']
    rfl
  obtain ⟨hheld, hwork, ⟨k, hk⟩, hrecords, -, hbits⟩ :=
    complete_spec (newDispatched s f (.commit n attr)) o (takenState s f (.commit n attr))
  have hstream : streamOf w n = streamOf s n := by unfold streamOf; rw [show w.streams = s.streams from hwork.1]
  obtain ⟨e, he, hspace⟩ := enterFull_eq (s := w) (n := n) (r := r)
    (by rw [hstream]; exact fun hf => (takesRecords_accepts ht).2 (.inr hf))
  have hp := enterFull_posting n r w
  have hc := close_spec (enterFull n r w)
  have hjobs : (enterFull n r w).write.jobs = s.write.jobs := by rw [he]; exact hwork.2.1
  have hguard : (enterFull n r w).held.guard = s.held.guard := by rw [hp.1.held, hheld]; rfl
  refine ⟨settle (choose (enterFull n r w)), (exec_rowOf (.commit n attr) h.ready).trans (congrArg _ ?_), ?_, ?_,
    fun hn => ?_, fun hr hh => ?_⟩
  · refine (dispatch_of h ?_).trans (by rw [hrun])
    rw [hrun, he]
    exact le_of_eq (congrArg List.length hwork.2.2)
  · rw [hc.held, hp.1.held, hheld]
    rfl
  · exact posts_of_fresh (hp.1.records.trans hrecords) (hp.1.completions.subset hk)
  · have hsame := hc.work (NoLockedHead.of_heldGuard hn hguard hjobs)
    refine ⟨hsame.1.trans ?_, hsame.2.1.trans hjobs⟩
    rw [he, hstream, ← (show w.streams = s.streams from hwork.1)]
    rfl
  · refine hc.bits _ ?_
    rw [he]
    exact hspace (by rw [hstream]; exact hr) (by
      rw [show w.events.holdClear = (takenState s f (.commit n attr)).events.holdClear from
        congrArg Held.holdClear hheld]
      exact hh)

end

/-- Settles O24: `judgeCommit` finds the faults in this order, and Table 4-4 gives the reason of FULL. -/
theorem commitRefusesInItsOrder : Obligations.CommitRefusesInItsOrder := by
  refine ⟨fun s f n attr h => ⟨fun hd => ?_, fun hd hs => ?_, fun ht he => ?_, fun ht he hg => ?_,
    fun ho hn hl hw => ?_⟩, fun s f n attr d h ho hd => ⟨fun hn => ?_, fun hn hl => ?_⟩⟩
  · exact commit_refuses h (judgeCommit_undefined hd)
  · exact commit_refuses h (judgeCommit_refuses hd hs)
  · exact commit_refuses h (judgeCommit_elsewhere ht he)
  · exact commit_refuses h (judgeCommit_guarded ht he hg)
  · obtain ⟨d, hd⟩ := Option.ne_none_iff_exists'.mp (takesRecords_accepts ho.takes).1
    exact commit_refuses h (((judgeCommit_open ho hd).trans (if_neg hn)).trans ((judgePlacement_fits hl).2 hw))
  · exact commit_completesFull h ho.takes ((judgeCommit_open ho hd).trans (if_pos hn))
  · have hjudge : judgeCommit s n = judgePlacement s n d := (judgeCommit_open ho hd).trans (if_neg hn)
    have hfull : ∀ {r}, newPlacement s (streamOf s n) d = .full r → CompletesFull s f n attr r := fun hp =>
      commit_completesFull h ho.takes (hjudge.trans (judgePlacement_full hl hp))
    refine ⟨fun hq hm => hfull (newPlacement_linear hq hm), fun e es hc hq hm => ⟨fun he => ?_, fun he hw => ?_,
      fun he hw hr => ?_⟩, fun hq ha hm => hfull (newPlacement_noSpace hq ha hm), fun hq ha hb hw => ?_⟩
    · exact hfull (newPlacement_sealedHead hq hc hm he)
    · exact hfull (newPlacement_onlyWriteSegment hq hc hm he hw)
    · exact hfull ((newPlacement_ring hq hc hm he hw).trans (if_neg (by simp [canReclaim_not hc hr])))
    · exact commit_refuses h (hjudge.trans ((judgePlacement_new hl (newPlacement_available hq ha)).2 hw hb))

end Sys2Proof.Machine

/-!
PROOFS. The edges of GUARD_N, a head job failed by its lock, and what a guarded device's engine may start (R125 to
R128).
-/

namespace Sys2Proof.Machine

open Sys2Proof

/-! ### What the choice of work of an unguarded device can only lose -/

/-- The stream is FAULTED and its tail EXHAUSTED, as R110 leaves it. -/
def IsFaulted (s : State) (n : Nat) : Prop := (streamOf s n).state = .faulted ∧ (streamOf s n).tail = .exhausted

/-- The guard stays, a FAULTED stream stays so, and no job joins the queue. -/
structure Failing (s t : State) : Prop where
  guard : t.guard = s.guard
  faulted : ∀ n, IsFaulted s n → IsFaulted t n
  jobs : t.write.jobs ⊆ s.write.jobs

section

variable {s t u : State}

theorem Failing.refl (s : State) : Failing s s := ⟨rfl, fun _ h => h, fun _ h => h⟩

theorem Failing.trans (h : Failing s t) (k : Failing t u) : Failing s u :=
  ⟨k.guard.trans h.guard, fun n hn => k.faulted n (h.faulted n hn), fun _ hj => h.jobs (k.jobs hj)⟩

theorem isFaulted_congr (h : t.streams = s.streams) {n : Nat} (hn : IsFaulted s n) : IsFaulted t n := by
  unfold IsFaulted streamOf at *
  rwa [h]

theorem Failing.of_work (hg : t.guard = s.guard) (h : SameWork s t) : Failing s t :=
  ⟨hg, fun _ hn => isFaulted_congr h.1 hn, fun _ hj => h.2.1 ▸ hj⟩

theorem raise_guard (e : Event) (s : State) : (raise e s).guard = s.guard := by unfold raise; split <;> rfl

theorem addNotice_guard (n : Notice) (s : State) : (addNotice n s).guard = s.guard := by
  unfold addNotice addNoticeAt
  split <;> rfl

theorem postRecord_guard (k : Nat) (c : Completion) (s : State) : (postRecord k c s).guard = s.guard := by
  unfold postRecord
  dsimp only
  split
  · exact raise_guard ..
  · rfl

theorem failing_raise (e : Event) (s : State) : Failing s (raise e s) := .of_work (raise_guard e s) (raise_work e s)

theorem failing_addNotice (n : Notice) (s : State) : Failing s (addNotice n s) :=
  .of_work (addNotice_guard n s) (addNotice_work n s)

/-- A stream's entry replaced by one that is FAULTED only where the old one was, or by a FAULTED one. -/
theorem failing_setStream {n : Nat} {x : Stream}
    (h : IsFaulted s n → x.state = .faulted ∧ x.tail = .exhausted) : Failing s (setStream n x s) where
  guard := rfl
  faulted m hm := by
    unfold IsFaulted
    rw [streamOf_setStream]
    split
    · rename_i hn
      exact h (hn.1 ▸ hm)
    · exact hm
  jobs _ hj := hj

theorem failing_enterFull (n : Nat) (r : FullReason) (s : State) : Failing s (enterFull n r s) := by
  unfold enterFull
  dsimp only
  split
  · exact .refl s
  · rename_i hn
    exact ((failing_setStream (fun h => absurd (.inr h.1) hn)).trans (failing_raise ..)).trans (failing_addNotice ..)

theorem failing_postDeferred (d : Deferred) (s : State) : Failing s (postDeferred d s) := by
  have hp : ∀ k c, Failing s (postRecord k c s) := fun k c => .of_work (postRecord_guard ..) (postRecord_work ..)
  unfold postDeferred
  dsimp only
  split
  · split
    · exact (hp ..).trans (failing_enterFull ..)
    · exact hp ..
  · exact hp ..
  · exact hp ..

theorem failing_postAll (ds : List Deferred) (s : State) : Failing s (postAll ds s) := by
  induction ds generalizing s with
  | nil => exact .refl s
  | cons d ds ih => exact (failing_postDeferred d s).trans (ih _)

theorem failing_releaseDeferred (s : State) : Failing s (releaseDeferred s) :=
  Failing.trans (t := { s with sequencer :=
    { s.sequencer with deferred := s.sequencer.deferred.filter (fun d => stillNamed s d.id) } })
    ⟨rfl, fun _ h => h, fun _ h => h⟩ (failing_postAll ..)

/-- The stream with its tail and its state discarded, before the notice and the posts (R110 steps 2 to 4). -/
def discarded (n : Nat) (s : State) : State :=
  updStream n (fun t => { t with tail := .exhausted, state := .faulted })
    (spoilNamed (s.write.jobs.filter (fun j => j.stream = some n))
      { s with write := { s.write with jobs := s.write.jobs.filter (fun j => j.stream ≠ some n) } })

theorem failing_after_discarded (n seg cause : Nat) (s : State) :
    Failing (discarded n s) (faultStream n seg cause s) :=
  ((failing_addNotice _ _).trans (failing_raise _ _)).trans (failing_releaseDeferred _)

theorem failing_faultStream (n seg cause : Nat) (s : State) : Failing s (faultStream n seg cause s) := by
  have hd : Failing s (discarded n s) :=
    Failing.trans (t := spoilNamed (s.write.jobs.filter (fun j => j.stream = some n))
      { s with write := { s.write with jobs := s.write.jobs.filter (fun j => j.stream ≠ some n) } })
      ⟨rfl, fun _ h => h, fun _ h => List.mem_of_mem_filter h⟩ (failing_setStream fun _ => ⟨rfl, rfl⟩)
  exact hd.trans (failing_after_discarded ..)

/-- A stream of the table is FAULTED by it, and its jobs are gone. -/
theorem faultStream_faults {n : Nat} (seg cause : Nat) (hn : n < s.streams.length) :
    IsFaulted (faultStream n seg cause s) n ∧
      ∀ j ∈ (faultStream n seg cause s).write.jobs, j ∈ s.write.jobs ∧ j.stream ≠ some n := by
  have h := failing_after_discarded n seg cause s
  refine ⟨h.faulted n ?_, fun j hj => ?_⟩
  · unfold IsFaulted discarded updStream
    rw [streamOf_setStream, if_pos ⟨rfl, hn⟩]
    exact ⟨rfl, rfl⟩
  · simpa using List.mem_filter.mp (h.jobs hj)

theorem failing_failByLock (s : State) : Failing s (failByLock s) := by
  unfold failByLock
  split
  · exact .refl s
  · exact (failing_faultStream ..).trans (failing_raise ..)

theorem failing_startBackgroundErase (s : State) : Failing s (startBackgroundErase s) := by
  refine .of_work ?_ (startBackgroundErase_work s)
  unfold startBackgroundErase
  split
  · split <;> rfl
  · rfl

theorem guarded_congr (h : t.guard = s.guard) : guarded t = guarded s := by
  unfold guarded
  rw [h]

/-- The choice of work of an unguarded device. -/
theorem failing_chooseWork (fuel : Nat) (hg : guarded s = false) : Failing s (chooseWork fuel s) := by
  induction fuel generalizing s with
  | zero => exact .refl s
  | succ fuel ih =>
    unfold chooseWork
    split
    · cases candidates s with
      | nil => exact failing_startBackgroundErase s
      | cons c cs =>
        unfold tryCandidates
        split
        · rw [hg, if_neg Bool.false_ne_true]
          split
          · have hf := failing_failByLock s
            exact hf.trans (ih ((guarded_congr hf.guard).trans hg))
          · exact .of_work rfl ⟨rfl, rfl, rfl⟩
        · exact .of_work rfl ⟨rfl, rfl, rfl⟩
    · exact .refl s

/-! ### The choice of work of a guarded device (R127, R128) -/

/-- No WRITE is started, the work stays, and within an episode nothing is told. -/
structure GuardedChoice (s t : State) : Prop where
  reads : ∀ r, t.engine.op = some r → opWrites r.op = false
  work : SameWork s t
  told : s.guard.episode = true → t.events = s.events ∧ t.guard = s.guard

theorem holdWrite_guarded (h : Nat × Nat × Nat) (s : State) : guarded (holdWrite h s) = guarded s := by
  unfold holdWrite
  split
  · rfl
  · unfold guarded
    rw [raise_guard, addNotice_guard]

theorem holdWrite_episode {h : Nat × Nat × Nat} (he : s.guard.episode = true) : holdWrite h s = s := if_pos he

theorem startBackgroundErase_guarded (hg : guarded s = true) : startBackgroundErase s = s := by
  simp [startBackgroundErase, hg]

/-- A work item is a candidate for an operation, held by its write. -/
def IsCandidate (c : WorkItem) : Prop := ∃ who op k n, c = candidate who op k n

theorem catalogueCandidate_are {mine : VersionFor → Bool} {kind : Op → Nat} {n : Nat} :
    ∀ c ∈ catalogueCandidate mine kind n s, IsCandidate c := by
  intro c hc
  unfold catalogueCandidate at hc
  split at hc
  · split at hc
    · exact ⟨_, _, _, _, List.mem_singleton.mp hc⟩
    · exact absurd hc List.not_mem_nil
  · exact absurd hc List.not_mem_nil

theorem sequencerCandidate_are {b : Bool} : ∀ c ∈ sequencerCandidate b s, IsCandidate c := by
  intro c hc
  cases hr : s.engine.request with
  | none => exact absurd (by simpa only [sequencerCandidate, hr] using hc) List.not_mem_nil
  | some r =>
    simp only [sequencerCandidate, hr] at hc
    split at hc
    · exact absurd hc List.not_mem_nil
    · exact ⟨_, _, _, _, List.mem_singleton.mp hc⟩

theorem candidates_are : ∀ c ∈ candidates s, IsCandidate c := by
  intro c hc
  simp only [candidates, rankOne, List.mem_append] at hc
  rcases hc with (((((hc | hc) | hc) | hc) | hc) | hc) | hc
  · exact catalogueCandidate_are c hc
  · split at hc
    · exact ⟨_, _, _, _, List.mem_singleton.mp hc⟩
    · exact absurd hc List.not_mem_nil
  · exact sequencerCandidate_are c hc
  · exact catalogueCandidate_are c hc
  · exact catalogueCandidate_are c hc
  · exact sequencerCandidate_are c hc
  · unfold jobCandidate at hc
    split at hc
    · exact ⟨_, _, _, _, List.mem_singleton.mp hc⟩
    · exact absurd hc List.not_mem_nil

/-- A candidate without a GUARD_HOLD of its own is a READ. -/
theorem candidates_hold : ∀ c ∈ candidates s, c.hold = none → opWrites c.request.op = false := by
  intro c hc
  obtain ⟨who, op, k, n, rfl⟩ := candidates_are c hc
  cases op <;> simp [candidate, opWrites]

theorem tryCandidates_guarded (again : State → State) (cs : List WorkItem) (hg : guarded s = true)
    (ho : s.engine.op = none) (hc : ∀ c ∈ cs, c.hold = none → opWrites c.request.op = false) :
    GuardedChoice s (tryCandidates again cs s) := by
  induction cs generalizing s with
  | nil =>
    rw [show tryCandidates again [] s = s from startBackgroundErase_guarded hg]
    exact ⟨fun r hr => absurd (ho.symm.trans hr).symm (Option.some_ne_none _), .refl s, fun _ => ⟨rfl, rfl⟩⟩
  | cons c cs ih =>
    unfold tryCandidates
    split
    · rename_i h _
      rw [if_pos hg]
      have k := ih ((holdWrite_guarded h s).trans hg) ((congrArg Engine.op (holdWrite_posting h s).2).trans ho)
        (fun c hm => hc c (List.mem_cons_of_mem _ hm))
      exact ⟨k.reads, (holdWrite_work h s).trans k.work, fun he => by
        have := k.told
        rw [holdWrite_episode he] at this ⊢
        exact this he⟩
    · rename_i hh
      exact ⟨fun r hr => Option.some.inj hr ▸ hc c List.mem_cons_self hh, ⟨rfl, rfl, rfl⟩, fun _ => ⟨rfl, rfl⟩⟩

theorem choose_guarded (hg : guarded s = true) (ho : s.engine.op = none) : GuardedChoice s (choose s) := by
  unfold choose chooseWork
  split
  · exact tryCandidates_guarded _ _ hg ho candidates_hold
  · exact ⟨fun r hr => absurd (ho.symm.trans hr).symm (Option.some_ne_none _), .refl s, fun _ => ⟨rfl, rfl⟩⟩

/-- A guarded device's choice keeps the work and the episode, whatever the engine does. -/
theorem choose_guarded_work (hg : guarded s = true) :
    SameWork s (choose s) ∧ (s.guard.episode = true → (choose s).guard.episode = true) := by
  cases ho : s.engine.op with
  | some r =>
    rw [choose_busy (by rw [ho]; rfl)]
    exact ⟨.refl s, id⟩
  | none =>
    have h := choose_guarded hg ho
    exact ⟨h.work, fun he => by rw [(h.told he).2]; exact he⟩

/-! ### The head job as the only candidate -/

theorem candidates_job {j : Job} {js : List Job} (hj : s.write.jobs = j :: js) (hr : s.engine.reloc = none)
    (hq : s.engine.request = none) (hc : s.catalogue.queue = []) :
    candidates s = [candidate .job (.program (jobProgram j)) 1 (j.stream.getD 0xFF)] := by
  simp [candidates, rankOne, catalogueCandidate, sequencerCandidate, jobCandidate, hj, hr, hq, hc]

section

variable {j : Job} {js : List Job} (hj : s.write.jobs = j :: js) (hr : s.engine.reloc = none)
  (hq : s.engine.request = none) (hc : s.catalogue.queue = []) (ha : isAwake s = true) (ho : s.engine.op = none)
include hj hr hq hc ha ho

/-- The choice finds the head job held. -/
theorem choose_holdsJob (hg : guarded s = true) :
    choose s = holdWrite (1, j.stream.getD 0xFF, j.segment) s := by
  unfold choose chooseWork
  rw [if_pos (by simp [ha, ho]), candidates_job hj hr hq hc]
  show (if guarded s = true then tryCandidates _ [] (holdWrite (1, j.stream.getD 0xFF, j.segment) s) else _) = _
  rw [if_pos hg]
  exact startBackgroundErase_guarded ((holdWrite_guarded ..).trans hg)

/-- The choice finds the head job's segment locked. -/
theorem choose_failsJob (hg : guarded s = false) (hl : locked s j.segment = true) :
    choose s = chooseWork 9 (failByLock s) := by
  unfold choose
  rw [chooseWork, if_pos (by simp [ha, ho]), candidates_job hj hr hq hc]
  show (if guarded s = true then _ else if lockedOut _ s = true then chooseWork 9 (failByLock s) else _) = _
  rw [hg, if_neg Bool.false_ne_true, if_pos]
  simp [lockedOut, candidate, hj, hl]

end

/-- The first write held in an episode raises GUARD and adds its notice (R128). -/
theorem holdWrite_tells {k n g : Nat} (he : s.guard.episode = false) (hh : s.events.holdClear = false) :
    Raised (holdWrite (k, n, g) s) .guardHeld ∧ (holdWrite (k, n, g) s).guard.episode = true ∧
      (holdWrite (k, n, g) s).events.fresh = s.events.fresh ++
        [(noticeRank .guardHold, { kind := .guardHold, stream := n, segment := g, value := k, value2 := 0 })] := by
  simp only [holdWrite, he, Bool.false_eq_true, if_false, addNotice, addNoticeAt, raise, hh]
  exact ⟨or_and_self_byte .., trivial, trivial⟩

end

/-! ### The edges of GUARD_N -/

section

variable {s : State}

/-- What a fall of GUARD_N leaves, before the engine chooses. -/
def fallen (s : State) : State := { s with guard := { s.guard with level := false, range := fallRange s } }

/-- What a rise of GUARD_N leaves, before the engine chooses. -/
def risen (s : State) : State := { s with guard := { s.guard with level := true, episode := false } }

theorem fallRange_of (hf : s.power.state ≠ .pfailFlush) (hd : s.power.state ≠ .dead) :
    fallRange s = if s.guard.mode = .active ∧ s.guard.frozen = false then none else s.guard.range := by
  unfold fallRange
  cases hs : s.power.state with
  | pfailFlush => exact absurd hs hf
  | dead => exact absurd hs hd
  | _ => simp

theorem exec_fall (ho : operating s = true) (hc : nothingDue s = true) (hl : s.guard.level = true) :
    exec .guardNFall s = .next (settle (choose (fallen s))) :=
  congrArg Host.Outcome.next ((if_pos (by simp [guardSampled, ho, hl])).trans
    (internalEvent_of hc (body := fallen) (le_refl _)))

theorem exec_rise (ho : operating s = true) (hc : nothingDue s = true) (hl : s.guard.level = false) :
    exec .guardNRise s = .next (settle (choose (risen s))) :=
  congrArg Host.Outcome.next ((if_pos (by simp [guardSampled, ho, hl])).trans
    (internalEvent_of hc (body := risen) (le_refl _)))

/-- A level that is there already is no edge. -/
theorem exec_edge_none :
    (s.guard.level = false → exec .guardNFall s = .next s) ∧ (s.guard.level = true → exec .guardNRise s = .next s) :=
  ⟨fun h => congrArg Host.Outcome.next (if_neg (by simp [h])),
    fun h => congrArg Host.Outcome.next (if_neg (by simp [h]))⟩

theorem risen_unguarded (s : State) : guarded (risen s) = false := rfl

theorem choose_risen_guard (s : State) : (choose (risen s)).guard = (risen s).guard :=
  (failing_chooseWork 10 (risen_unguarded s)).guard

/-- A rise leaves the head job locked or not. -/
theorem noLockedHead_risen (h : NoLockedHead s) : NoLockedHead (risen s) := h

/-- A rise of GUARD_N with the head job's segment locked fails it (R125). -/
theorem rise_fails_locked_head {j : Job} {js : List Job} {n : Nat} (ha : isAwake s = true)
    (hj : s.write.jobs = j :: js) (hn : j.stream = some n) (hl : n < s.streams.length)
    (hlock : locked s j.segment = true) (ho : s.engine.op = none) (hr : s.engine.reloc = none)
    (hq : s.engine.request = none) (hcat : s.catalogue.queue = []) :
    IsFaulted (choose (risen s)) n ∧
      (∀ k ∈ (choose (risen s)).write.jobs, k ∈ js ∧ k.stream ≠ some n) ∧
      (s.events.holdClear = false → Raised (choose (risen s)) .guardHeld ∧ Raised (choose (risen s)) .media) := by
  have hfail : choose (risen s) = chooseWork 9 (failByLock (risen s)) :=
    choose_failsJob (s := risen s) hj hr hq hcat ha ho rfl hlock
  have hbody : failByLock (risen s) = raise .guardHeld (faultStream n j.segment 2 (risen s)) := by
    unfold failByLock
    rw [show (risen s).write.jobs = j :: js from hj]
    simp only [hn, Option.getD_some]
  obtain ⟨hf, hjobs⟩ := faultStream_faults (s := risen s) (n := n) j.segment 2 hl
  have hraise := failing_raise .guardHeld (faultStream n j.segment 2 (risen s))
  have hlater := failing_chooseWork (s := raise .guardHeld (faultStream n j.segment 2 (risen s))) 9
    (guarded_congr (hraise.guard.trans (failing_faultStream n j.segment 2 (risen s)).guard))
  rw [hfail, hbody]
  refine ⟨hlater.faulted n (hraise.faulted n hf), fun k hk => ?_, fun hh => ?_⟩
  · obtain ⟨hmem, hne⟩ := hjobs k (hraise.jobs (hlater.jobs hk))
    rw [show (risen s).write.jobs = j :: js from hj] at hmem
    exact ⟨(List.mem_cons.mp hmem).resolve_left (fun h => hne (h ▸ hn)), hne⟩
  · have hbits := (chooseWork_later 9 (raise .guardHeld (faultStream n j.segment 2 (risen s)))).1.bits
    have hhold : (faultStream n j.segment 2 (risen s)).events.holdClear = false :=
      (congrArg Held.holdClear (faultStream_posting n j.segment 2 (risen s)).1.held).trans hh
    refine ⟨hbits _ (raised_raise hhold), hbits _ (raised_mono (raise_posting ..) ?_)⟩
    refine raised_mono (releaseDeferred_posting _) (raised_raise ?_)
    exact (congrArg Held.holdClear (addNotice_posting _ _).1.held).trans hh

end

/-- Settles O33: the edges act on the guard alone, the job whose segment is locked at a rise is failed, and a guarded
device's choice passes over every write. -/
theorem guardHoldsWritesAndItsEdgesAct : Obligations.GuardHoldsWritesAndItsEdgesAct := by
  refine ⟨fun s ho hc hf hd => ⟨fun hl => ?_, fun hl => ?_, exec_edge_none⟩,
    fun s j js n ha hc hl hj hn hlen hlock ho hr hq hcat => ?_, fun s hg ha ho => ?_⟩
  · obtain ⟨hwork, hepisode⟩ := choose_guarded_work (s := fallen s) rfl
    refine ⟨_, exec_fall ho hc hl, ?_, hwork.trans (settle_work _), fun he => hepisode he⟩
    rw [settle_held, choose_held, ← fallRange_of hf hd]
    rfl
  · refine ⟨_, exec_rise ho hc hl, ?_, congrArg GuardUnit.episode (choose_risen_guard s), fun hn => ?_⟩
    · rw [settle_held, choose_held]
      rfl
    · exact (close_spec (risen s)).work (noLockedHead_risen hn)
  · obtain ⟨hfault, hjobs, hraised⟩ := rise_fails_locked_head ha hj hn hlen hlock ho hr hq hcat
    have hop : operating s = true := (Bool.and_eq_true_iff.mp ha).1
    have hclosed := close_spec (risen s)
    refine ⟨_, exec_rise hop hc hl, ?_⟩
    have hentry := hclosed.entries n
    obtain ⟨hstreams, hsjobs, -⟩ := settle_work (choose (risen s))
    refine ⟨(isFaulted_congr hstreams hfault).1, (isFaulted_congr hstreams hfault).2, ?_, fun k hk => ?_, ?_, ?_,
      fun hh => ?_⟩
    · rw [hentry]
      rfl
    · exact hjobs k (hsjobs ▸ hk)
    · exact congrArg GuardUnit.level (choose_risen_guard s)
    · exact congrArg Held.medium hclosed.held
    · unfold Raised at *
      rw [(settle_spec _).2.2.2.2.2.1]
      exact hraised hh
  · have h := choose_guarded hg ho
    refine ⟨h.reads, h.work, fun j js hj hr hq hc hh he => ?_, fun he => (h.told he).1⟩
    rw [choose_holdsJob hj hr hq hc ha ho hg]
    exact holdWrite_tells he hh

end Sys2Proof.Machine

/-!
PROOFS. COMMIT's copying of a record into the tail frame and over its end (R75 to R78), at its dispatch, in the
event after one that emitted a job, and after a wait for room in the Program Queue.
-/

namespace Sys2Proof.Machine

open Sys2Proof

/-! ### One stride of the copying (R76, R77) -/

section

variable {seq : Nat} {bytes : List Byte} {p : TailPos}

/-- The bytes stay below the frame's end. -/
theorem fillTail_within (hb : bytes ≠ []) (h : p.offset + bytes.length ≤ 512) :
    fillTail seq bytes (markHeader seq p) = tailWith p seq bytes := by
  have hroom : bytes.length ≤ 512 - p.offset := by omega
  simp [fillTail, markHeader, tailWith, List.take_of_length_le hroom, hb, hroom]

/-- The bytes reach the frame's end. -/
theorem fillTail_filled (hp : p.offset ≤ 512) (hb : bytes ≠ []) (h : 512 ≤ p.offset + bytes.length) :
    fillTail seq bytes (markHeader seq p) = tailFilled p seq bytes := by
  have hroom : 512 - p.offset ≤ bytes.length := by omega
  have hcond : bytes.length ≤ 512 - p.offset ↔ p.offset + bytes.length = 512 := by omega
  by_cases he : p.offset + bytes.length = 512
  · simp [fillTail, markHeader, tailFilled, hb, hcond, he, List.length_take]
  · simp [fillTail, markHeader, tailFilled, hcond, he, List.length_take, Nat.min_eq_left hroom,
      Nat.add_sub_cancel' hp]

/-- The rest of a record at the start of the next frame. -/
theorem fillTail_beyond {rest : List Byte} (h : rest.length < 512) :
    fillTail seq rest (tailAt p.segment (p.frame + 1)) = tailBeyond p seq rest := by
  have hroom : rest.length ≤ 512 := by omega
  by_cases hr : rest = [] <;>
    simp [fillTail, tailAt, tailBeyond, hr, List.take_of_length_le hroom, hroom]

/-- A frame that stands full takes nothing more. -/
theorem fillTail_full (h : p.offset = 512) : fillTail seq bytes p = p := by
  have hnil : (!bytes.isEmpty && decide (bytes.length ≤ 0)) = false := by cases bytes <;> rfl
  unfold fillTail
  simp only [h, Nat.sub_self, List.take_zero, List.length_nil, Nat.add_zero, List.append_nil, hnil,
    Bool.false_eq_true, if_false]
  rw [← h]

theorem fillTail_nil : fillTail seq [] p = p := by
  simp [fillTail]

end

section

variable {n inc gen seq : Nat} {bytes : List Byte} {p : TailPos} {t : Stream}

/-- The PORTION job of pending bytes, below the fourth portion. -/
theorem remainderJob_portion (h : p.portions < 3) :
    remainderJob n (incarnationOf t) (topGeneration t) p = (portionJob t n p, .pos (tailCarried p)) := if_pos h

/-- A frame's job over all its pending bytes, where the image is whole. -/
theorem tailJob_frame (hi : p.image.length = p.offset) (ho : p.offset ≤ 512) (hu : p.unprog ≤ p.offset) (pad : Bool) :
    tailJob n (incarnationOf t) (topGeneration t) p .frame 512 pad = frameJob t n p pad := by
  have hlen : (p.image.drop p.unprog).length = p.offset - p.unprog := by rw [List.length_drop, hi]
  have hfit : fitBytes 0 (512 - p.unprog) (p.image.drop p.unprog) =
      p.image.drop p.unprog ++ List.replicate (512 - p.offset) 0 := by
    rw [fitBytes_short (by omega), hlen]
    congr 2
    omega
  simp only [tailJob, frameJob, hfit]
  rfl

/-- The fourth portion is a FRAME job with PAD. -/
theorem remainderJob_fourth (h : 3 ≤ p.portions) (hi : p.image.length = p.offset) (ho : p.offset ≤ 512)
    (hu : p.unprog ≤ p.offset) :
    remainderJob n (incarnationOf t) (topGeneration t) p = (frameJob t n p true, nextFrame p) := by
  unfold remainderJob
  rw [if_neg (Nat.not_lt.mpr h), tailJob_frame hi ho hu]

/-- Under EAGER pending bytes become a job in a free event, and wait for the next event otherwise. -/
theorem strideEnd_eager (h : p.unprog < p.offset) :
    strideEnd true true n inc gen p =
      { job := some (remainderJob n inc gen p).1, tail := (remainderJob n inc gen p).2, left := none } ∧
    strideEnd true false n inc gen p = { job := none, tail := .pos p, left := some [] } := by
  simp [strideEnd, h]

theorem strideEnd_nothing {eager free : Bool} (h : p.offset ≤ p.unprog) :
    strideEnd eager free n inc gen p = { job := none, tail := .pos p, left := none } := by
  simp [strideEnd, Nat.not_lt.mpr h]

/-- A frame filled in a free event: its job, and the rest of the record in the next frame. -/
theorem stride_over {eager : Bool} (hf : p.frame < 31) (h : 512 ≤ (fillTail seq bytes p).offset)
    (hr : (bytes.drop (512 - p.offset)).length < 512) :
    stride eager true n inc gen seq bytes p =
      { strideEnd eager false n inc gen (tailBeyond p seq (bytes.drop (512 - p.offset))) with
        job := some (tailJob n inc gen (fillTail seq bytes p) .frame 512 false) } := by
  have hnext : nextFrame p = .pos (tailAt p.segment (p.frame + 1)) := if_pos hf
  have hbeyond : (tailBeyond p seq (bytes.drop (512 - p.offset))).offset < 512 := hr
  unfold stride
  simp only [h, and_self, if_true, hnext, strideFill, fillTail_beyond hr, if_pos hbeyond]

end

/-! ### The chain's newest entry -/

theorem topGeneration_setLast (seq : Nat) (t : Stream) :
    topGeneration { t with chain := setLast seq t.chain } = topGeneration t := by
  have h : ∀ es : List ChainEntry,
      (setLast seq es).getLast?.map (fun e => e.generation) = es.getLast?.map (fun e => e.generation) := by
    intro es
    induction es with
    | nil => rfl
    | cons e es ih =>
      cases es with
      | nil => rfl
      | cons x xs =>
        have hne : setLast seq (x :: xs) ≠ [] := by cases xs <;> simp [setLast]
        obtain ⟨y, ys, hy⟩ := List.exists_cons_of_ne_nil hne
        rw [setLast, hy, List.getLast?_cons_cons, ← hy, List.getLast?_cons_cons]
        · exact ih
        · intro h
          exact absurd h (List.cons_ne_nil _ _)
  unfold topGeneration
  rw [h]

/-! ### The copying of a record, from its stride (R75, R78) -/

section

variable {d : Dispatched} {s : State} {n seq : Nat} {free : Bool} {bytes : List Byte} {attr : Byte} {p : TailPos}
  {x : Stride}

/-- What a stride leaves of the stream and of the Program Queue. -/
def State.strides (s : State) (d : Dispatched) (n seq : Nat) (x : Stride) : State :=
  (s.withStream n { streamOf s n with tail := x.tail }).withJobs
    (s.write.jobs ++ (x.job.map (nameCommit d.eager d.id seq)).toList)

/-- What the end of a record's copying leaves, before the COMMIT completes or defers. -/
def State.placed (s : State) (n seq : Nat) : State :=
  (s.withStaging none).withStream n { streamOf s n with state := stateAfterPlacing seq (streamOf s n).state }

theorem copyRecord_left {rest : List Byte} (ht : (streamOf s n).tail = .pos p)
    (hx : stride d.eager free n (incarnationOf (streamOf s n)) (topGeneration (streamOf s n)) seq bytes p = x)
    (hl : x.left = some rest) :
    copyRecord d n seq free bytes s = setPhase d (.placing seq rest) (s.strides d n seq x) := by
  simp only [copyRecord, ht, hx, hl]
  rfl

theorem copyRecord_done (ht : (streamOf s n).tail = .pos p)
    (hx : stride d.eager free n (incarnationOf (streamOf s n)) (topGeneration (streamOf s n)) seq bytes p = x)
    (hl : x.left = none) : copyRecord d n seq free bytes s = finishCommit d n seq (s.strides d n seq x) := by
  simp only [copyRecord, ht, hx, hl]
  rfl

theorem finishCommit_eager (he : d.eager = true) :
    finishCommit d n seq s = defer d (.commit n seq) (s.placed n seq) := by
  simp only [finishCommit, he, if_true]
  rfl

theorem finishCommit_lazy (he : d.eager = false) (hs : seq ≠ 4294967295) :
    finishCommit d n seq s =
      complete d { result := .done, value := seq, aux := (streamOf s n).durable } (s.placed n seq) := by
  have hdurable : (streamOf (s.placed n seq) n).durable = (streamOf s n).durable := by
    unfold State.placed
    rw [show ∀ t, (s.withStaging none).withStream n t = setStream n t (s.withStaging none) from fun _ => rfl,
      streamOf_setStream]
    split <;> rfl
  simp only [finishCommit, he, Bool.false_eq_true, if_false, hs]
  rw [← hdurable]
  rfl

/-- The stream's entry of a state whose stream was replaced. -/
theorem streamOf_withStream (hn : n < s.streams.length) (t : Stream) : streamOf (s.withStream n t) n = t :=
  (streamOf_setStream n n t s).trans (if_pos ⟨rfl, hn⟩)

/-- A stride and the end of the copying, as one change of the stream. -/
theorem strides_placed (hn : n < s.streams.length) :
    (s.strides d n seq x).placed n seq =
      ((s.withStaging none).withStream n
        { streamOf s n with tail := x.tail, state := stateAfterPlacing seq (streamOf s n).state }).withJobs
          (s.write.jobs ++ (x.job.map (nameCommit d.eager d.id seq)).toList) := by
  have hof : streamOf (s.strides d n seq x) n = { streamOf s n with tail := x.tail } :=
    streamOf_withStream hn { streamOf s n with tail := x.tail }
  unfold State.placed
  rw [hof]
  simp only [State.strides, State.withStream, State.withJobs, State.withStaging, List.set_set]

theorem nameCommit_lazy {j : Job} {id : Nat} : nameCommit false id seq j = j := by
  simp [nameCommit]

/-- The job that holds the record's last bytes names the COMMIT under EAGER. -/
theorem nameCommit_eager {j : Job} {id : Nat} (hm : seq ∈ j.seqs) (hr : j.released = []) :
    nameCommit true id seq j = j.naming id := by
  unfold nameCommit Job.naming
  rw [hr, if_pos ⟨rfl, List.contains_iff_mem.mpr hm⟩]
  rfl

theorem nameCommit_other {eager : Bool} {j : Job} {id : Nat} (hm : seq ∉ j.seqs) : nameCommit eager id seq j = j := by
  unfold nameCommit
  exact if_neg fun h => hm (List.contains_iff_mem.mp h.2)

end

/-! ### A record placed in the write segment -/

section

variable {d : Dispatched} {s : State} {n : Nat} {attr : Byte} {p : TailPos} {x : Stride}

theorem stateAfterPlacing_opened {seq : Nat} {t : Stream} (h : takesRecords t = true) (hs : seq ≠ 4294967295) :
    stateAfterPlacing seq t.state = .opened := by
  obtain ⟨-, ho | ⟨r, hf⟩⟩ := takesRecords_iff.mp h
  · rw [ho]
    rfl
  · rw [hf]
    simp [stateAfterPlacing, isFull, hs]

/-- The stream's entry with the record's sequence assigned, its bytes not yet copied (R75). -/
def assigned (t : Stream) (p : TailPos) : Stream :=
  { t with chain := setLast (t.newest + 1) t.chain, newest := t.newest + 1, resumed := false,
           tail := .pos (markHeader (t.newest + 1) p) }

/-- The machine whose Staging Buffer the COMMIT owns and whose last-commit stream is this one (R75 step 7). -/
def State.owning (s : State) (n : Nat) : State :=
  (s.withStaging (s.write.staging.map (fun g => { g with owned := true }))).withLastCommit n

theorem stagedPayload_owning : stagedPayload (s.owning n) = stagedPayload s := by
  simp only [stagedPayload, State.owning, State.withStaging, State.withLastCommit, Option.map_map]
  rfl

/-- Steps 7 to 11 of a record that goes into the write segment as it stands. -/
theorem commitPoint_inPlace (hn : n < s.streams.length) (ht : (streamOf s n).tail = .pos p) :
    commitPoint d n attr .inPlace s =
      copyRecord d n ((streamOf s n).newest + 1) true (recordBytes s n attr)
        ((s.owning n).withStream n (assigned (streamOf s n) p)) := by
  have hof : streamOf (updStream n (fun t => { t with chain := setLast (t.newest + 1) t.chain }) (s.owning n)) n =
      { streamOf s n with chain := setLast ((streamOf s n).newest + 1) (streamOf s n).chain } :=
    (streamOf_setStream n n _ (s.owning n)).trans (if_pos ⟨rfl, hn⟩)
  have hset : ∀ t : Stream, setStream n t
      (updStream n (fun t => { t with chain := setLast (t.newest + 1) t.chain }) (s.owning n)) =
        (s.owning n).withStream n t := by
    intro t
    simp only [updStream, setStream, State.withStream, List.set_set]
  have hbytes : buildHeader (updStream n (fun t => { t with chain := setLast (t.newest + 1) t.chain }) (s.owning n)) n
      ((streamOf s n).newest + 1) attr ++
      stagedPayload (updStream n (fun t => { t with chain := setLast (t.newest + 1) t.chain }) (s.owning n)) =
        recordBytes s n attr := by
    unfold buildHeader
    rw [hof, show ∀ t, stagedPayload (updStream n t (s.owning n)) = stagedPayload s from fun _ =>
      stagedPayload_owning (n := n)]
    rfl
  show assignAndPlace d n attr true
    (updStream n (fun t => { t with chain := setLast (t.newest + 1) t.chain }) (s.owning n)) = _
  unfold assignAndPlace
  rw [hof]
  simp only [ht, hset, hbytes]
  rfl

variable (hn : n < s.streams.length) (ht : (streamOf s n).tail = .pos p)
  (hx : stride d.eager true n (incarnationOf (streamOf s n)) (topGeneration (streamOf s n)) ((streamOf s n).newest + 1)
    (recordBytes s n attr) (markHeader ((streamOf s n).newest + 1) p) = x)
include hn ht hx

omit ht in
theorem stride_assigned :
    (streamOf ((s.owning n).withStream n (assigned (streamOf s n) p)) n).tail =
      .pos (markHeader ((streamOf s n).newest + 1) p) ∧
    stride d.eager true n (incarnationOf (streamOf ((s.owning n).withStream n (assigned (streamOf s n) p)) n))
      (topGeneration (streamOf ((s.owning n).withStream n (assigned (streamOf s n) p)) n)) ((streamOf s n).newest + 1)
      (recordBytes s n attr) (markHeader ((streamOf s n).newest + 1) p) = x := by
  have hof := streamOf_withStream (s := s.owning n) hn (assigned (streamOf s n) p)
  have hgen : topGeneration (assigned (streamOf s n) p) = topGeneration (streamOf s n) :=
    topGeneration_setLast ((streamOf s n).newest + 1) (streamOf s n)
  rw [hof, hgen]
  exact ⟨rfl, hx⟩

/-- More of the record is to be emitted: the COMMIT goes on in the next event. -/
theorem commitPoint_inPlace_left {rest : List Byte} (hl : x.left = some rest) :
    commitPoint d n attr .inPlace s = setPhase d (.placing ((streamOf s n).newest + 1) rest)
      (((s.owning n).withStream n
        { streamWith (streamOf s n) x.tail with state := (streamOf s n).state }).withJobs
          (s.write.jobs ++ (x.job.map (nameCommit d.eager d.id ((streamOf s n).newest + 1))).toList)) := by
  obtain ⟨htail, hstride⟩ := stride_assigned hn hx
  rw [commitPoint_inPlace hn ht, copyRecord_left htail hstride hl]
  unfold State.strides
  rw [streamOf_withStream (s := s.owning n) hn]
  simp only [State.withStream, List.set_set]
  rfl

variable (htake : takesRecords (streamOf s n) = true) (hnew : (streamOf s n).newest < 4294967294) (hl : x.left = none)
include htake hnew hl

omit ht hx hl in
/-- What the COMMIT leaves of a record that is copied. -/
theorem placed_inPlace :
    (((s.owning n).withStream n (assigned (streamOf s n) p)).strides d n ((streamOf s n).newest + 1) x).placed n
      ((streamOf s n).newest + 1) =
    (((s.withStaging none).withLastCommit n).withStream n (streamWith (streamOf s n) x.tail)).withJobs
      (s.write.jobs ++ (x.job.map (nameCommit d.eager d.id ((streamOf s n).newest + 1))).toList) := by
  have hof := streamOf_withStream (s := s.owning n) hn (assigned (streamOf s n) p)
  have hlen : n < ((s.owning n).withStream n (assigned (streamOf s n) p)).streams.length :=
    lt_of_lt_of_eq hn (List.length_set ..).symm
  have hopen : stateAfterPlacing ((streamOf s n).newest + 1) (assigned (streamOf s n) p).state = .opened :=
    stateAfterPlacing_opened (t := streamOf s n) htake (by omega)
  rw [strides_placed hlen, hof, hopen]
  simp only [State.withStream, State.withStaging, List.set_set]
  rfl

theorem commitPoint_inPlace_lazy (he : d.eager = false) :
    commitPoint d n attr .inPlace s =
      complete d { result := .done, value := (streamOf s n).newest + 1, aux := (streamOf s n).durable }
        ((((s.withStaging none).withLastCommit n).withStream n (streamWith (streamOf s n) x.tail)).withJobs
          (s.write.jobs ++ x.job.toList)) := by
  obtain ⟨htail, hstride⟩ := stride_assigned hn hx
  have hof := streamOf_withStream (s := s.owning n) hn (assigned (streamOf s n) p)
  have hlen : n < ((s.owning n).withStream n (assigned (streamOf s n) p)).streams.length :=
    lt_of_lt_of_eq hn (List.length_set ..).symm
  have hdurable : (streamOf (((s.owning n).withStream n (assigned (streamOf s n) p)).strides d n
      ((streamOf s n).newest + 1) x) n).durable = (streamOf s n).durable := by
    refine (congrArg Stream.durable (streamOf_withStream hlen _)).trans ?_
    rw [hof]
    rfl
  rw [commitPoint_inPlace hn ht, copyRecord_done htail hstride hl, finishCommit_lazy he (by omega), hdurable,
    placed_inPlace hn htake hnew, he]
  have hname : x.job.map (nameCommit false d.id ((streamOf s n).newest + 1)) = x.job := by
    cases x.job <;> simp [nameCommit_lazy]
  rw [hname]

theorem commitPoint_inPlace_eager (he : d.eager = true) :
    commitPoint d n attr .inPlace s = defer d (.commit n ((streamOf s n).newest + 1))
        ((((s.withStaging none).withLastCommit n).withStream n (streamWith (streamOf s n) x.tail)).withJobs
          (s.write.jobs ++ (x.job.map (nameCommit d.eager d.id ((streamOf s n).newest + 1))).toList)) := by
  obtain ⟨htail, hstride⟩ := stride_assigned hn hx
  rw [commitPoint_inPlace hn ht, copyRecord_done htail hstride hl, finishCommit_eager he,
    placed_inPlace hn htake hnew]

end

/-! ### COMMIT in the write segment, by its policy and its room (R73, R75 to R78) -/

theorem recordBytes_length (s : State) (n : Nat) (attr : Byte) :
    (recordBytes s n attr).length = 16 + (stagedPayload s).length := by
  rw [recordBytes, List.length_append]
  rfl

theorem recordBytes_ne_nil (s : State) (n : Nat) (attr : Byte) : recordBytes s n attr ≠ [] :=
  List.ne_nil_of_length_pos (by rw [recordBytes_length]; omega)

/-- The record fits the write segment, and no step of the judgement finds a fault. -/
structure FitsHere (s : State) (n : Nat) (p : TailPos) : Prop where
  accepts : CommitOpen s n
  unlocked : WriteUnlocked s n
  below : (streamOf s n).newest < 4294967294
  tail : (streamOf s n).tail = .pos p
  carried : p.unprog ≤ p.offset

section

variable {d : Dispatched} {s : State} {n : Nat} {attr : Byte} {p : TailPos} (h : FitsHere s n p)
include h

theorem FitsHere.lt_length : n < s.streams.length := lt_length_of_defn (takesRecords_accepts h.accepts.takes).1

/-- The judgement of a record that fits. -/
theorem FitsHere.judge (hfit : 16 + (stagedPayload s).length ≤ (512 - p.offset) + 512 * (31 - p.frame)) :
    judgeCommit s n = .place .inPlace := by
  obtain ⟨d, hd⟩ := Option.ne_none_iff_exists'.mp (takesRecords_accepts h.accepts.takes).1
  have hspace : spaceLeft (streamOf s n) = (512 - p.offset) + 512 * (31 - p.frame) := by
    simp only [spaceLeft, h.tail]
  have hnew := h.below
  rw [judgeCommit_open h.accepts hd, if_neg (by omega)]
  exact (judgePlacement_fits (by rw [hspace]; exact hfit)).1 h.unlocked

/-- The jobs a record in the write segment will emit (R75 step 6). -/
theorem FitsHere.jobs (eager : Bool) :
    commitJobs s n eager .inPlace = (p.offset + 16 + (stagedPayload s).length) / 512 +
      if eager ∧ (p.offset + 16 + (stagedPayload s).length) % 512 ≠ 0 then 1 else 0 := by
  simp [commitJobs, startOffset, h.tail]

theorem FitsHere.waits {k : Nat}
    (hfit : 16 + (stagedPayload s).length ≤ (512 - p.offset) + 512 * (31 - p.frame))
    (hk : commitJobs s n d.eager .inPlace = k) (hroom : programRoom s < k) :
    runCommit d n attr s = setPhase d (.waitRoom k) s := by
  simp only [runCommit, h.judge hfit, hk, hroom, if_true]

theorem FitsHere.places
    (hfit : 16 + (stagedPayload s).length ≤ (512 - p.offset) + 512 * (31 - p.frame))
    (hroom : commitJobs s n d.eager .inPlace ≤ programRoom s) :
    runCommit d n attr s = commitPoint d n attr .inPlace s := by
  simp only [runCommit, h.judge hfit, Nat.not_lt.mpr hroom, if_false]

section

variable (hin : p.offset + 16 + (stagedPayload s).length < 512)
include hin

omit h in
/-- Within its frame the record's bytes stand behind those of the tail. -/
theorem stride_in (eager : Bool) :
    stride eager true n (incarnationOf (streamOf s n)) (topGeneration (streamOf s n)) ((streamOf s n).newest + 1)
        (recordBytes s n attr) (markHeader ((streamOf s n).newest + 1) p) =
      strideEnd eager true n (incarnationOf (streamOf s n)) (topGeneration (streamOf s n))
        (tailWith p ((streamOf s n).newest + 1) (recordBytes s n attr)) := by
  have hlen := recordBytes_length s n attr
  have hfill := fillTail_within (seq := (streamOf s n).newest + 1) (p := p) (recordBytes_ne_nil s n attr) (by omega)
  rw [stride_within (by rw [hfill]; show p.offset + _ < 512; omega), hfill]

/-- LAZY emits no job (R78). -/
theorem FitsHere.lazy_in (he : d.eager = false) :
    runCommit d n attr s =
      complete d { result := .done, value := (streamOf s n).newest + 1, aux := (streamOf s n).durable }
        ((((s.withStaging none).withLastCommit n).withStream n
          (streamWith (streamOf s n) (.pos (tailWith p ((streamOf s n).newest + 1) (recordBytes s n attr))))).withJobs
            (s.write.jobs ++ [])) := by
  rw [h.places (by omega) (by rw [h.jobs, he]; simp; omega)]
  refine commitPoint_inPlace_lazy (x := ⟨none, _, none⟩) h.lt_length h.tail ?_ h.accepts.takes h.below rfl he
  rw [stride_in hin, he]
  rfl

theorem FitsHere.jobs_eager_in : commitJobs s n true .inPlace = 1 := by
  rw [h.jobs, Nat.div_eq_of_lt hin, Nat.mod_eq_of_lt hin, if_pos ⟨rfl, by omega⟩]

/-- EAGER without room waits for it. -/
theorem FitsHere.eager_waits_in (he : d.eager = true) (hfull : s.write.jobs.length = 8) :
    runCommit d n attr s = setPhase d (.waitRoom 1) s :=
  h.waits (by omega) (by rw [he]; exact h.jobs_eager_in hin) (by unfold programRoom; omega)

/-- EAGER emits the remainder's job, which names the COMMIT (R77, R78). -/
theorem FitsHere.eager_in {j : Job} {tail : Tail} (he : d.eager = true) (hroom : s.write.jobs.length < 8)
    (hr : remainderJob n (incarnationOf (streamOf s n)) (topGeneration (streamOf s n))
      (tailWith p ((streamOf s n).newest + 1) (recordBytes s n attr)) = (j, tail))
    (hseqs : j.seqs = (tailWith p ((streamOf s n).newest + 1) (recordBytes s n attr)).ends.map (fun e => e.2))
    (hrel : j.released = []) :
    runCommit d n attr s = defer d (.commit n ((streamOf s n).newest + 1))
      ((((s.withStaging none).withLastCommit n).withStream n (streamWith (streamOf s n) tail)).withJobs
        (s.write.jobs ++ [j.naming d.id])) := by
  have hlen := recordBytes_length s n attr
  have hpend : (tailWith p ((streamOf s n).newest + 1) (recordBytes s n attr)).unprog <
      (tailWith p ((streamOf s n).newest + 1) (recordBytes s n attr)).offset := by
    have := h.carried
    show p.unprog < p.offset + _
    omega
  have hmem : (streamOf s n).newest + 1 ∈ j.seqs := by
    rw [hseqs]
    simp [tailWith]
  have hx : stride d.eager true n (incarnationOf (streamOf s n)) (topGeneration (streamOf s n))
      ((streamOf s n).newest + 1) (recordBytes s n attr) (markHeader ((streamOf s n).newest + 1) p) =
        { job := some j, tail := tail, left := none } := by
    rw [stride_in hin, he, (strideEnd_eager hpend).1, hr]
  rw [h.places (by omega) (by rw [he, h.jobs_eager_in hin]; unfold programRoom; omega),
    commitPoint_inPlace_eager h.lt_length h.tail hx h.accepts.takes h.below rfl he, he]
  exact congrArg (fun k : Job => defer d _ (State.withJobs _ (s.write.jobs ++ [k]))) (nameCommit_eager hmem hrel)

end

section

variable (hlt : p.offset < 512) (hout : 512 ≤ p.offset + 16 + (stagedPayload s).length)
  (hnext : p.offset + 16 + (stagedPayload s).length < 1024) (hf : p.frame < 31) (hi : p.image.length = p.offset)
include hlt hout hnext hf hi

/-- Over its frame's end the record fills the frame, and its rest stands in the next one. -/
theorem FitsHere.stride_out (eager : Bool) :
    stride eager true n (incarnationOf (streamOf s n)) (topGeneration (streamOf s n)) ((streamOf s n).newest + 1)
        (recordBytes s n attr) (markHeader ((streamOf s n).newest + 1) p) =
      { strideEnd eager false n (incarnationOf (streamOf s n)) (topGeneration (streamOf s n))
          (tailBeyond p ((streamOf s n).newest + 1) ((recordBytes s n attr).drop (512 - p.offset))) with
        job := some (frameJob (streamOf s n) n (tailFilled p ((streamOf s n).newest + 1) (recordBytes s n attr)) false)
      } := by
  have hlen := recordBytes_length s n attr
  have hfill := fillTail_filled (seq := (streamOf s n).newest + 1) (Nat.le_of_lt hlt) (recordBytes_ne_nil s n attr)
    (by omega)
  have hjob := tailJob_frame (n := n) (t := streamOf s n)
    (p := tailFilled p ((streamOf s n).newest + 1) (recordBytes s n attr)) (by simp [tailFilled, hi]; omega) (le_refl _)
    (Nat.le_trans h.carried (Nat.le_of_lt hlt)) false
  have hover := stride_over (eager := eager) (n := n) (inc := incarnationOf (streamOf s n))
    (gen := topGeneration (streamOf s n)) (seq := (streamOf s n).newest + 1) (bytes := recordBytes s n attr)
    (p := markHeader ((streamOf s n).newest + 1) p) hf (by rw [hfill]; exact le_refl _)
    (by show (List.drop (512 - p.offset) _).length < 512; rw [List.length_drop]; omega)
  rw [hover, hfill, hjob]
  rfl

/-- LAZY completes with the job of the frame it filled (log 15). -/
theorem FitsHere.lazy_out (he : d.eager = false) (hroom : s.write.jobs.length < 8) :
    runCommit d n attr s =
      complete d { result := .done, value := (streamOf s n).newest + 1, aux := (streamOf s n).durable }
        ((((s.withStaging none).withLastCommit n).withStream n (streamWith (streamOf s n)
          (.pos (tailBeyond p ((streamOf s n).newest + 1) ((recordBytes s n attr).drop (512 - p.offset)))))).withJobs
            (s.write.jobs ++ [frameJob (streamOf s n) n
              (tailFilled p ((streamOf s n).newest + 1) (recordBytes s n attr)) false])) := by
  rw [h.places (by omega) (by rw [h.jobs, he]; simp [programRoom]; omega)]
  refine commitPoint_inPlace_lazy (x := ⟨some _, _, none⟩) h.lt_length h.tail ?_ h.accepts.takes h.below rfl he
  rw [h.stride_out hlt hout hnext hf hi, he]
  rfl

variable (he : d.eager = true) (hroom : s.write.jobs.length ≤ 6)
include he hroom

omit hlt hf he in
theorem FitsHere.room_out : commitJobs s n d.eager .inPlace ≤ programRoom s := by
  rw [h.jobs]
  have hquot : (p.offset + 16 + (stagedPayload s).length) / 512 ≤ 1 := by omega
  unfold programRoom
  split <;> omega

/-- EAGER with nothing left behind the frame defers with the frame's job, which names the COMMIT. -/
theorem FitsHere.eager_out_whole (hrest : (recordBytes s n attr).drop (512 - p.offset) = []) :
    runCommit d n attr s = defer d (.commit n ((streamOf s n).newest + 1))
      ((((s.withStaging none).withLastCommit n).withStream n (streamWith (streamOf s n)
        (.pos (tailBeyond p ((streamOf s n).newest + 1) ((recordBytes s n attr).drop (512 - p.offset)))))).withJobs
          (s.write.jobs ++
            [(frameJob (streamOf s n) n (tailFilled p ((streamOf s n).newest + 1) (recordBytes s n attr))
              false).naming d.id])) := by
  have hlen := recordBytes_length s n attr
  have hwhole : p.offset + (recordBytes s n attr).length = 512 := by
    have := List.drop_eq_nil_iff.mp hrest
    omega
  have hmem : (streamOf s n).newest + 1 ∈
      (frameJob (streamOf s n) n (tailFilled p ((streamOf s n).newest + 1) (recordBytes s n attr)) false).seqs := by
    simp [frameJob, tailFilled, hwhole]
  have hx : stride d.eager true n (incarnationOf (streamOf s n)) (topGeneration (streamOf s n))
      ((streamOf s n).newest + 1) (recordBytes s n attr) (markHeader ((streamOf s n).newest + 1) p) =
        { job := some (frameJob (streamOf s n) n
            (tailFilled p ((streamOf s n).newest + 1) (recordBytes s n attr)) false)
          tail := .pos (tailBeyond p ((streamOf s n).newest + 1) ((recordBytes s n attr).drop (512 - p.offset)))
          left := none } := by
    rw [he, h.stride_out hlt hout hnext hf hi, strideEnd_nothing (by rw [hrest]; exact le_refl 0)]
  rw [h.places (by omega) (h.room_out hout hnext hi hroom),
    commitPoint_inPlace_eager h.lt_length h.tail hx h.accepts.takes h.below rfl he, he]
  exact congrArg (fun k : Job => defer d _ (State.withJobs _ (s.write.jobs ++ [k]))) (nameCommit_eager hmem rfl)

/-- EAGER with more behind the frame emits that in the next event (R76). -/
theorem FitsHere.eager_out_more (hends : ∀ e ∈ p.ends, e.2 ≤ (streamOf s n).newest)
    (hrest : (recordBytes s n attr).drop (512 - p.offset) ≠ []) :
    runCommit d n attr s = setPhase d (.placing ((streamOf s n).newest + 1) [])
      (((s.owning n).withStream n
        { streamWith (streamOf s n)
            (.pos (tailBeyond p ((streamOf s n).newest + 1) ((recordBytes s n attr).drop (512 - p.offset))))
          with state := (streamOf s n).state }).withJobs
          (s.write.jobs ++
            [frameJob (streamOf s n) n (tailFilled p ((streamOf s n).newest + 1) (recordBytes s n attr)) false])) := by
  have hmore : p.offset + (recordBytes s n attr).length ≠ 512 := fun hw =>
    hrest (List.drop_eq_nil_iff.mpr (by omega))
  have hmem : (streamOf s n).newest + 1 ∉
      (frameJob (streamOf s n) n (tailFilled p ((streamOf s n).newest + 1) (recordBytes s n attr)) false).seqs := by
    simp only [frameJob, tailFilled, if_neg hmore, List.mem_map, not_exists, not_and]
    intro e hm hs
    exact absurd (hends e hm) (by omega)
  have hx : stride d.eager true n (incarnationOf (streamOf s n)) (topGeneration (streamOf s n))
      ((streamOf s n).newest + 1) (recordBytes s n attr) (markHeader ((streamOf s n).newest + 1) p) =
        { job := some (frameJob (streamOf s n) n
            (tailFilled p ((streamOf s n).newest + 1) (recordBytes s n attr)) false)
          tail := .pos (tailBeyond p ((streamOf s n).newest + 1) ((recordBytes s n attr).drop (512 - p.offset)))
          left := some [] } := by
    rw [he, h.stride_out hlt hout hnext hf hi, (strideEnd_eager (List.length_pos_of_ne_nil hrest)).2]
  rw [h.places (by omega) (h.room_out hout hnext hi hroom),
    commitPoint_inPlace_left h.lt_length h.tail hx rfl]
  exact congrArg (fun k : Job => setPhase d _ (State.withJobs _ (s.write.jobs ++ [k]))) (nameCommit_other hmem)

end

end

/-! ### At its dispatch -/

theorem FitsHere.taken {s : State} {n : Nat} {p : TailPos} (h : FitsHere s n p) (f : CmdFrame) (c : Cmd) :
    FitsHere (takenState s f c) n p :=
  ⟨⟨h.accepts.takes, h.accepts.staging, h.accepts.unguarded⟩, h.unlocked, h.below, h.tail, h.carried⟩

/-! ### In the event after one that emitted a job (R76) -/

section

variable {s v : State} {d : Dispatched} {n seq : Nat} {attr : Byte} {rest : List Byte} (ha : isAwake s = true)
  (hab : s.host.aborting = false) (hs : s.power.soft ≠ some .abortSteps) (hd : s.sequencer.dispatched = some d)
  (hp : d.phase = .placing seq rest) (hc : d.cmd = .commit n attr)
include ha hab hs hd hp hc

/-- The row COMMIT then stands for the copying that goes on. -/
theorem exec_commit_placing (hv : copyRecord d n seq true rest s = v) (he : v.power.entryDue = none) :
    exec .commit s = .next (settle (choose (ifDeferred dispatchFrames s v))) := by
  have hplace : placingDue s = some (d, n, seq, rest) := by simp only [placingDue, hd, hp, hc]
  have htails : tailsDue s = none := by simp [tailsDue, hd]
  have hlive : windowLive s = true := by
    unfold isAwake at ha
    unfold windowLive
    cases hz : s.power.state <;> simp_all
  have hdue : due s = v := by
    unfold due
    simp only [hlive, if_true, softTails_none htails, hab, Bool.false_eq_true, if_false, hs, goOnPlacing, hplace, hv,
      takeEntry, he]
  have hself : hasDeferred v v = false := by simp [hasDeferred]
  refine congrArg Host.Outcome.next ((if_pos (by rw [hplace]; rfl)).trans ?_)
  unfold internalEvent ifDeferred
  simp only [hdue, id, hself, Bool.or_false]

end

section

variable {s : State} {d : Dispatched} {n seq : Nat} {rest : List Byte} {p : TailPos}
  (ht : (streamOf s n).tail = .pos p)
include ht

theorem lt_length_of_tail : n < s.streams.length := by
  refine Nat.lt_of_not_le fun hle => ?_
  have hblank : streamOf s n = Stream.blank := by
    simp [streamOf, List.getD_eq_getElem?_getD, List.getElem?_eq_none hle]
  rw [hblank] at ht
  cases ht

/-- EAGER with nothing left to copy emits the remainder's job and defers. -/
theorem copyRecord_portion (he : d.eager = true) (hu : p.unprog < p.offset) (ho : p.offset < 512)
    (hk : p.portions < 3) {o : Nat} (hm : (o, seq) ∈ p.ends) :
    copyRecord d n seq true [] s = defer d (.commit n seq)
      (((s.withStaging none).withStream n { streamOf s n with
          tail := .pos (tailCarried p), state := stateAfterPlacing seq (streamOf s n).state }).withJobs
        (s.write.jobs ++ [(portionJob (streamOf s n) n p).naming d.id])) := by
  have hx : stride d.eager true n (incarnationOf (streamOf s n)) (topGeneration (streamOf s n)) seq [] p =
      { job := some (portionJob (streamOf s n) n p), tail := .pos (tailCarried p), left := none } := by
    rw [stride_within (by rw [fillTail_nil]; exact ho), fillTail_nil, he, (strideEnd_eager hu).1,
      remainderJob_portion hk]
  have hmem : seq ∈ (portionJob (streamOf s n) n p).seqs := List.mem_map.mpr ⟨(o, seq), hm, rfl⟩
  rw [copyRecord_done ht hx rfl, finishCommit_eager he, strides_placed (lt_length_of_tail ht), he]
  exact congrArg (fun k : Job => defer d _ (State.withJobs _ (s.write.jobs ++ [k]))) (nameCommit_eager hmem rfl)

/-- LAZY emits the frame that stands full, and ends with its rest in the next one. -/
theorem copyRecord_fullFrame (he : d.eager = false) (ho : p.offset = 512) (hi : p.image.length = 512)
    (hu : p.unprog ≤ 512) (hf : p.frame < 31) (hr : rest.length < 512) (hs : seq < 4294967295) :
    copyRecord d n seq true rest s =
      complete d { result := .done, value := seq, aux := (streamOf s n).durable }
        (((s.withStaging none).withStream n { streamOf s n with
            tail := .pos (tailBeyond p seq rest), state := stateAfterPlacing seq (streamOf s n).state }).withJobs
          (s.write.jobs ++ [frameJob (streamOf s n) n p false])) := by
  have hfull : fillTail seq rest p = p := fillTail_full ho
  have hdrop : rest.drop (512 - p.offset) = rest := by rw [ho]; rfl
  have hx : stride d.eager true n (incarnationOf (streamOf s n)) (topGeneration (streamOf s n)) seq rest p =
      { job := some (frameJob (streamOf s n) n p false), tail := .pos (tailBeyond p seq rest), left := none } := by
    rw [stride_over hf (by rw [hfull, ho]) (by rw [hdrop]; exact hr), hfull,
      tailJob_frame (hi.trans ho.symm) (le_of_eq ho) (by rw [ho]; exact hu), hdrop, he]
    rfl
  have hlen := lt_length_of_tail ht
  have hdurable : (streamOf (s.strides d n seq
      ⟨some (frameJob (streamOf s n) n p false), .pos (tailBeyond p seq rest), none⟩) n).durable =
        (streamOf s n).durable :=
    (congrArg Stream.durable (streamOf_withStream hlen _)).trans rfl
  rw [copyRecord_done ht hx rfl, finishCommit_lazy he (by omega), hdurable, strides_placed hlen, he]
  exact congrArg (fun k : Job => complete d _ (State.withJobs _ (s.write.jobs ++ [k]))) nameCommit_lazy

end

theorem lt_withDeferred {s u : State} {f : CmdFrame} {k : DeferredKind}
    (h : u.sequencer.deferred = s.sequencer.deferred) :
    s.sequencer.deferred.length < (u.withDeferred f k).sequencer.deferred.length := by
  simp [State.withDeferred, h]

/-- A command that has deferred in a row is followed by the frames behind it. -/
theorem ifDeferred_deferring (goOn : State → State) {s u : State} {d : Dispatched} {k : DeferredKind}
    (h : u.sequencer.deferred = s.sequencer.deferred) :
    ifDeferred goOn s (u.deferring d k) = goOn (u.deferring d k) :=
  if_pos (by simp [hasDeferred, State.deferring, h])

theorem ifDeferred_complete (goOn : State → State) {s u : State} {d : Dispatched} {o : Outcome}
    (h : u.sequencer.deferred = s.sequencer.deferred) : ifDeferred goOn s (complete d o u) = complete d o u :=
  ifDeferred_not (by rw [(complete_work d o u).2.2, h])

theorem complete_power (d : Dispatched) (o : Outcome) (s : State) : (complete d o s).power = s.power :=
  congrArg Held.power (complete_spec d o s).1

/-- Settles O25: what `stride` does of a record's bytes, by where they end and by the policy. -/
theorem commitPlacesTheRecordInItsFrame : Obligations.CommitPlacesTheRecordInItsFrame := by
  refine ⟨fun s f n attr p h ho hw hnew ht hin hu => ?_,
    fun s f n seq attr p bytes rest h ho hw hnew ht hlt hout hnext hf hu hi hends hj hseq hbytes hrest => ?_,
    fun s d n seq o attr p ha hab hs he hd hp hc hea ht hu ho hk hm => ?_,
    fun s d n seq attr p rest ha hab hs he hd hp hc hla ht ho hi hu hf hr hs' => ?_⟩
  · have hfit : FitsHere (takenState s f (.commit n attr)) n p := FitsHere.taken ⟨ho, hw, hnew, ht, hu⟩ ..
    refine ⟨fun hl => ?_, fun he hj => ?_, fun he hj hk => ?_, fun he hj hk hi => ?_⟩
    · exact completes h rfl (hfit.lazy_in hin (decide_eq_false hl)) rfl rfl rfl rfl rfl (List.append_nil _) rfl rfl rfl
        rfl
    · exact goesOn_unchanged runCommitCommand h rfl rfl (hfit.eager_waits_in hin (decide_eq_true he) hj)
    · rintro q rfl
      exact defers h rfl (hfit.eager_in hin (decide_eq_true he) hj (remainderJob_portion hk) rfl rfl) rfl rfl rfl
        (lt_withDeferred rfl) rfl
    · rintro q rfl
      have hlen := recordBytes_length s n attr
      have hr := remainderJob_fourth (n := n) (t := streamOf s n)
        (p := tailWith p ((streamOf s n).newest + 1) (recordBytes s n attr)) hk (by simp [tailWith, hi])
        (by show p.offset + _ ≤ 512; omega) (Nat.le_trans hu (Nat.le_add_right ..))
      exact defers h rfl (hfit.eager_in hin (decide_eq_true he) hj hr rfl rfl) rfl rfl rfl
        (lt_withDeferred rfl) rfl
  · have hfit : FitsHere (takenState s f (.commit n attr)) n p := FitsHere.taken ⟨ho, hw, hnew, ht, hu⟩ ..
    subst hseq hbytes hrest
    refine ⟨fun hl => ?_, fun he hr => ?_, fun he hr => ?_⟩
    · exact completes h rfl (hfit.lazy_out hlt hout hnext hf hi (decide_eq_false hl)
        (by show s.write.jobs.length < 8; omega)) rfl rfl rfl rfl rfl rfl rfl rfl rfl rfl
    · exact defers h rfl (hfit.eager_out_whole hlt hout hnext hf hi (decide_eq_true he) hj hr) rfl rfl rfl
        (lt_withDeferred rfl) rfl
    · exact goesOn h rfl (hfit.eager_out_more hlt hout hnext hf hi (decide_eq_true he) hj hends hr)
        rfl rfl rfl rfl rfl rfl rfl rfl rfl rfl
  · have hexec := exec_commit_placing ha hab hs hd hp hc (copyRecord_portion ht hea hu ho hk hm) he
    exact defersAs (hexec.trans (congrArg (fun x => Host.Outcome.next (settle (choose x)))
      (ifDeferred_deferring dispatchFrames rfl)))
  · have hexec := exec_commit_placing ha hab hs hd hp hc
      (copyRecord_fullFrame ht hla ho hi hu hf hr hs')
      (by rw [complete_power]; exact he)
    have hstate : stateAfterPlacing seq (streamOf s n).state =
        if isFull (streamOf s n).state then .opened else (streamOf s n).state := by
      simp [stateAfterPlacing, Nat.ne_of_lt hs']
    rw [hstate] at hexec
    exact ends (hexec.trans (congrArg (fun x => Host.Outcome.next (settle (choose x)))
      (ifDeferred_complete dispatchFrames rfl))) rfl rfl rfl rfl rfl rfl rfl rfl

end Sys2Proof.Machine

/-!
PROOFS. SYNC (R81 to R83), and the end of a wait for room in the Program Queue for every command that waits so (R27,
R60, R75).
-/

namespace Sys2Proof.Machine

open Sys2Proof

/-! ### SYNC -/

/-- The jobs of the queue, each naming one more command. -/
def State.namingAll (s : State) (id : Nat) : State := s.withJobs (s.write.jobs.map (fun j => j.naming id))

section

variable {d : Dispatched} {s : State}

theorem runSync_noRoom (h : programRoom s < (pendingStreams s).length) :
    runSync d s = setPhase d (.waitRoom (pendingStreams s).length) s := if_pos h

theorem runSync_nothing (hp : pendingStreams s = []) (hj : s.write.jobs = []) :
    runSync d s = complete d { result := .done, durable := true } s := by
  simp [runSync, hp, hj, syncTails]

/-- With a job in the queue, or one to be made of a tail, it defers. -/
theorem runSync_defers (hroom : (pendingStreams s).length ≤ programRoom s)
    (hj : (syncTails (pendingStreams s) s).write.jobs ≠ []) :
    runSync d s = defer d (.sync (pendingStreams s).length) ((syncTails (pendingStreams s) s).namingAll d.id) := by
  have hne : (syncTails (pendingStreams s) s).write.jobs.isEmpty = false := List.isEmpty_eq_false_iff.mpr hj
  simp only [runSync, Nat.not_lt.mpr hroom, if_false, hne, Bool.false_eq_true]
  rfl

/-- The queue holds a job after the sync of the tails. -/
theorem syncTails_jobs_of (h : pendingStreams s ≠ [] ∨ s.write.jobs ≠ []) :
    (syncTails (pendingStreams s) s).write.jobs ≠ [] := by
  by_cases hp : pendingStreams s = []
  · rw [hp]
    exact h.resolve_left (fun h => h hp)
  · exact syncTails_jobs hp

/-- One pending tail of the machine, synced. -/
theorem syncTails_one {n : Nat} {p : TailPos} (hp : n ∈ pendingStreams s) (ht : (streamOf s n).tail = .pos p) :
    syncTails [n] s = s.withSynced n p := by
  have hpend : 0 < pendingBytes (streamOf s n).tail := of_decide_eq_true (List.mem_filter.mp hp).2
  obtain ⟨-, q, hq, hlt⟩ := pending_pos hpend
  cases ht.symm.trans hq
  exact syncTail_pending ht hlt

end

/-- Settles O27: SYNC by its pending tails and its jobs. -/
theorem syncWaitsForEveryJob : Obligations.SyncWaitsForEveryJob := by
  intro s f h
  refine ⟨fun hp hj => ?_, fun hr => ?_, fun hp hj => ?_, fun n p hp hj ht hk => ?_⟩
  · exact completes_unchanged runSync h rfl rfl (runSync_nothing (s := takenState s f .sync) hp hj)
  · exact goesOn_unchanged runSync h rfl rfl (runSync_noRoom (s := takenState s f .sync) hr)
  · have hrun := runSync_defers (d := newDispatched s f .sync) (s := takenState s f .sync)
      (by rw [show pendingStreams (takenState s f .sync) = [] from hp]; exact Nat.zero_le _)
      (syncTails_jobs_of (.inr hj))
    rw [show pendingStreams (takenState s f .sync) = [] from hp] at hrun
    exact defers h rfl hrun rfl rfl rfl (lt_withDeferred rfl) rfl
  · have hmem : n ∈ pendingStreams s := by rw [hp]; exact List.mem_singleton_self n
    have hlen : (pendingStreams (takenState s f .sync)).length = 1 := congrArg List.length hp
    have hrun := runSync_defers (d := newDispatched s f .sync) (s := takenState s f .sync)
      (by rw [hlen]; show 1 ≤ 8 - s.write.jobs.length; omega)
      (syncTails_jobs_of (.inl (List.ne_nil_of_mem hmem)))
    have hsync : syncTails (pendingStreams (takenState s f .sync)) (takenState s f .sync) =
        (takenState s f .sync).withSynced n p := by
      rw [show pendingStreams (takenState s f .sync) = [n] from hp]
      exact syncTails_one (s := takenState s f .sync) hmem ht
    have hby : syncedBy (streamOf s n) n p = (portionJob (streamOf s n) n p, .pos (tailCarried p)) := if_pos hk
    rw [hlen, hsync, State.withSynced, show streamOf (takenState s f .sync) n = streamOf s n from rfl, hby] at hrun
    exact defers h rfl hrun rfl rfl rfl (lt_withDeferred rfl) rfl

/-! ### The row of a room wait's end -/

section

variable {s : State} {d : Dispatched} {need : Nat} (hw : waiting s = some d) (hp : d.phase = .waitRoom need)
include hw hp

theorem exec_roomWaitEnd_waits (h : programRoom s < need) : exec .programQueueRoomWaitEnd s = .next s := by
  show execProgramQueueRoomWaitEnd s = _
  unfold execProgramQueueRoomWaitEnd
  simp only [hw, hp, Nat.not_le.mpr h, if_false]

theorem exec_roomWaitEnd (h : need ≤ programRoom s) :
    exec .programQueueRoomWaitEnd s = .next (settle (choose (ifDeferred dispatchFrames s (afterRoom d s)))) := by
  show execProgramQueueRoomWaitEnd s = _
  unfold execProgramQueueRoomWaitEnd
  simp only [hw, hp, h, if_true]

variable (hroom : need ≤ programRoom s)
include hroom

/-- The command ends with its wait. -/
theorem ends_roomWait {o : Outcome} {u : State} (hrun : afterRoom d s = complete d o u)
    (hd : u.sequencer.deferred = s.sequencer.deferred) : Ends .programQueueRoomWaitEnd s d o u := by
  have hexec := exec_roomWaitEnd hw hp hroom
  rw [hrun] at hexec
  exact ends (hexec.trans (congrArg (fun x => Host.Outcome.next (settle (choose x)))
    (ifDeferred_complete dispatchFrames hd))) rfl rfl rfl rfl rfl rfl rfl rfl

/-- The command goes on to another wait. -/
theorem continues_roomWait {p : Phase} {u : State} (hrun : afterRoom d s = setPhase d p u)
    (hd : u.sequencer.deferred = s.sequencer.deferred) : Continues .programQueueRoomWaitEnd s d p u := by
  have hexec := exec_roomWaitEnd hw hp hroom
  rw [hrun] at hexec
  exact continues (hexec.trans (congrArg (fun x => Host.Outcome.next (settle (choose x)))
    (ifDeferred_not (le_of_eq (congrArg List.length hd))))) rfl rfl rfl rfl rfl rfl rfl rfl

/-- The command defers with its wait's end. -/
theorem defers_roomWait {k : DeferredKind} {u : State} (hrun : afterRoom d s = defer d k u)
    (hd : u.sequencer.deferred = s.sequencer.deferred) : DefersAs .programQueueRoomWaitEnd s d k u := by
  have hexec := exec_roomWaitEnd hw hp hroom
  rw [hrun] at hexec
  exact defersAs (hexec.trans (congrArg (fun x => Host.Outcome.next (settle (choose x)))
    (ifDeferred_deferring dispatchFrames hd)))

end

/-! ### The commands that wait for room -/

section

variable {d : Dispatched} {s : State}

theorem afterRoom_sync (hc : d.cmd = .sync) : afterRoom d s = runSync d s := by unfold afterRoom; rw [hc]

theorem afterRoom_commit {n : Nat} {attr : Byte} (hc : d.cmd = .commit n attr) :
    afterRoom d s = runCommit d n attr s := by
  unfold afterRoom; rw [hc]

theorem afterRoom_vaultWrite {k : Nat} {data : List Byte} (hc : d.cmd = .vaultWrite k data) :
    afterRoom d s = runVaultWrite d k data s := by unfold afterRoom; rw [hc]

theorem afterRoom_barrier (hc : lockCommand d.cmd = true ∨ d.cmd = .halt) :
    afterRoom d s = syncBarrier d s ∧ WholeBarrier d.cmd := by
  rcases hc with hl | hc
  · refine ⟨?_, wholeBarrier_lock hl⟩
    unfold afterRoom
    cases hc : d.cmd with
    | commit | sync | vaultWrite => simp [hc, lockCommand] at hl
    | _ => rfl
  · rw [hc]
    exact ⟨by unfold afterRoom; rw [hc], wholeBarrier_halt⟩

theorem commit_refused {n : Nat} {attr : Byte} {r : Result} (hj : judgeCommit s n = .refuse r) :
    runCommit d n attr s = complete d { result := r } s := by
  simp only [runCommit, hj]

/-- SEAL makes the job of its stream's tail and waits for the stream's jobs (Table 4-5). -/
theorem syncBarrier_seal {n seq : Nat} {p : TailPos} (hc : d.cmd = .sealStream n seq) (hj : s.write.jobs.length < 8)
    (hn : n ∈ pendingStreams s) (ht : (streamOf s n).tail = .pos p) :
    syncBarrier d s = setPhase d .waitBarrier (s.withSynced n p) := by
  have hscope : barrierScope d.cmd s = [n] := by
    rw [hc]
    show (pendingStreams s).filter (fun x => x = n) = [n]
    have hnodup : (pendingStreams s).Nodup := List.nodup_range.filter _
    rw [List.filter_eq, List.count_eq_one_of_mem hnodup hn]
    rfl
  have hstream : (syncedBy (streamOf s n) n p).1.stream = some n := by
    unfold syncedBy
    split <;> rfl
  have hwaits : barrierMet d.cmd (s.withSynced n p) = false := by
    rw [hc]
    simp [barrierMet, hasJobOf, State.withSynced, State.withJobs, hstream]
  have hroom : ¬ programRoom s < 1 := by unfold programRoom; omega
  unfold syncBarrier
  simp only [hscope, List.length_singleton, hroom, if_false, syncTails_one hn ht]
  exact drainBarrier_waits hwaits

end

/-- Settles O46: the wait's end runs the command's judgement afresh. -/
theorem roomWaitEndsWithRoom : Obligations.RoomWaitEndsWithRoom := by
  intro s d need hw hp
  refine ⟨exec_roomWaitEnd_waits hw hp, fun hroom => ⟨fun hc hn hj => ?_, fun n attr hc hd => ?_,
    fun n attr hc ht he hg => ?_, fun k data hc hcl => ?_, fun hc hn hj => ?_, fun hc hn hj => ?_,
    fun hc hlen hor => ?_, fun hc hlen hn => ?_, fun n seq p hc hj hn ht => ?_, fun k data hc hcl hk hg hj => ?_,
    fun n attr p hc ho hu hnew ht hcar => ⟨fun hin hk he hj q hq => ?_,
      fun hlt hout hnext hf hi he hj seq bytes rest hs hb hr => ?_⟩⟩⟩
  · exact ends_roomWait hw hp hroom ((afterRoom_sync hc).trans (runSync_nothing hn hj)) rfl
  · exact ends_roomWait hw hp hroom ((afterRoom_commit hc).trans (commit_refused (judgeCommit_undefined hd))) rfl
  · exact ends_roomWait hw hp hroom ((afterRoom_commit hc).trans (commit_refused (judgeCommit_guarded ht he hg))) rfl
  · exact ends_roomWait hw hp hroom ((afterRoom_vaultWrite hc).trans (runVaultWrite_closed hcl)) rfl
  · have hl : lockCommand d.cmd = true := by rw [hc]; rfl
    obtain ⟨hrun, hb⟩ := afterRoom_barrier (s := s) (.inl hl)
    have hend := ((hrun.trans (syncBarrier_drains hb hn)).trans (drainBarrier_whole_met hb hj)).trans
      (afterBarrier_lock hl)
    rw [hc] at hend
    exact ends_roomWait hw hp hroom hend rfl
  · obtain ⟨hrun, hb⟩ := afterRoom_barrier (s := s) (.inr hc)
    exact continues_roomWait hw hp hroom
      ((hrun.trans (syncBarrier_drains hb hn)).trans (drainBarrier_whole_waits hb hj)) rfl
  · exact ⟨_, pendingStreams_synced s, defers_roomWait hw hp hroom
      ((afterRoom_sync hc).trans (runSync_defers hlen (syncTails_jobs_of hor)))
      (congrArg (·.deferred) (syncTails_sequencer (pendingStreams s) s))⟩
  · obtain ⟨hrun, hb⟩ := afterRoom_barrier (s := s) hc
    exact ⟨_, pendingStreams_synced s, continues_roomWait hw hp hroom (hrun.trans (syncBarrier_syncs hb hlen hn))
      (congrArg (·.deferred) (syncTails_sequencer (pendingStreams s) s))⟩
  · exact continues_roomWait hw hp hroom
      ((by unfold afterRoom; rw [hc] : afterRoom d s = syncBarrier d s).trans (syncBarrier_seal hc hj hn ht)) rfl
  · have hfree : ¬ programRoom s < 1 := by unfold programRoom; omega
    exact defers_roomWait hw hp hroom ((afterRoom_vaultWrite hc).trans
      ((runVaultWrite_emits hcl hk hg).trans (if_neg hfree))) rfl
  · subst hq
    have hfit : FitsHere s n p := ⟨ho, hu, hnew, ht, hcar⟩
    exact defers_roomWait hw hp hroom ((afterRoom_commit hc).trans
      (hfit.eager_in hin he hj (remainderJob_portion hk) rfl rfl)) rfl
  · subst hs hb hr
    have hfit : FitsHere s n p := ⟨ho, hu, hnew, ht, hcar⟩
    exact ends_roomWait hw hp hroom ((afterRoom_commit hc).trans (hfit.lazy_out hlt hout hnext hf hi he hj)) rfl

end Sys2Proof.Machine

/-!
PROOFS. COMMIT in a new segment (R75, R77, R101, R103): the closing of the write segment, the allocation of an erased or
a stale segment, and a ring's reclaim.
-/

namespace Sys2Proof.Machine

open Sys2Proof

/-! ### Rows from the state their command leaves -/

section

variable {i : Instr} {s w : State} {f : CmdFrame} {c : Cmd} (h : Dispatches s f c) (hi : rowOf c = i)
include h hi

/-- A dispatched command that completes, seen from the state it leaves. -/
theorem completes_leaving {o : Outcome}
    (hw : runOf c (newDispatched s f c) (takenState s f c) = complete (newDispatched s f c) o w)
    (hs : w.sequencer = takenSequencer s f c) (he : w.events = roomEvents s) :
    Completes i s f c o { w with sequencer := s.sequencer, events := s.events } := by
  have hd := congrArg Sequencer.deferred hs
  refine completes h hi hw rfl rfl he rfl rfl rfl hd rfl rfl (x := w.sequencer.dispatched) ?_
  simp only [State.held, Held.taken, he, hs]
  rfl

theorem goesOn_leaving {p : Phase}
    (hw : runOf c (newDispatched s f c) (takenState s f c) = setPhase (newDispatched s f c) p w)
    (hs : w.sequencer = takenSequencer s f c) (he : w.events = roomEvents s) :
    GoesOn i s f c p { w with sequencer := s.sequencer, events := s.events } := by
  have hd := congrArg Sequencer.deferred hs
  refine goesOn h hi hw rfl rfl he rfl rfl rfl hd rfl rfl ?_
  simp only [setPhase, State.held, Held.taken, he, hs]
  rfl

end

/-! ### The Segment Map -/

section

variable {s : State} {g h : Nat} {e : SegEntry}

theorem segOf_setSeg_other (hne : h ≠ g) : segOf (setSeg g e s) h = segOf s h := storeGet_storePut_other hne _ _

/-- An entry that is not that of an unlisted segment is read back. -/
theorem segOf_setSeg_listed (he : e ≠ SegEntry.free) : segOf (setSeg g e s) g = e := storeGet_storePut_listed he _

theorem segOf_setSeg_self (hwf : storeWf (fun _ => SegEntry.free) 0 s.segments.map = true) :
    segOf (setSeg g e s) g = e := storeGet_storePut_self hwf

theorem ne_free_of_state {e : SegEntry} (h : e.state ≠ .freeErased) : e ≠ SegEntry.free := fun he => h (he ▸ rfl)

end

/-! ### The write segment is closed (R77) -/

/-- The tail once its write segment is closed. -/
def closedTail : Tail → Tail
  | .pos _ => .exhausted
  | t => t

/-- The closing pad's job, where there are pending bytes. -/
def closingJobs (t : Stream) (n : Nat) : List Job :=
  match t.tail with
  | .pos p => if p.unprog < p.offset then [closingJob n (incarnationOf t) (topGeneration t) p] else []
  | _ => []

/-- The Segment Map with a stream's write segment no longer open. -/
def closedSegments (s : State) (n : Nat) : Segments :=
  match writeEntry s (streamOf s n) with
  | some e => (updSeg e.segment (fun g => { g with isOpen := false }) s).segments
  | none => s.segments

section

variable {s : State} {n : Nat}

theorem closeWriteSegment_eq (n : Nat) (s : State) :
    closeWriteSegment n s = { s with
      segments := closedSegments s n
      streams := s.streams.set n { streamOf s n with tail := closedTail (streamOf s n).tail }
      write := { s.write with jobs := s.write.jobs ++ closingJobs (streamOf s n) n } } := by
  have hself : ∀ x, (streamOf s n).tail = x → closedTail x = x →
      s.streams.set n { streamOf s n with tail := closedTail x } = s.streams := by
    intro x hx hc
    rw [hc, ← hx]
    exact congrArg State.streams (setStream_self n s)
  unfold closeWriteSegment closedSegments closingJobs
  cases ht : (streamOf s n).tail with
  | pos p =>
    simp only [ht]
    by_cases hp : p.unprog < p.offset
    · simp only [if_pos hp]
      cases writeEntry s (streamOf s n) <;> rfl
    · simp only [if_neg hp, List.append_nil]
      cases writeEntry s (streamOf s n) <;> rfl
  | none =>
    simp only [ht]
    rw [hself _ ht rfl, List.append_nil]
    cases writeEntry s (streamOf s n) <;> rfl
  | exhausted =>
    simp only [ht]
    rw [hself _ ht rfl, List.append_nil]
    cases writeEntry s (streamOf s n) <;> rfl

theorem closingJobs_none (h : pendingBytes (streamOf s n).tail = 0) : closingJobs (streamOf s n) n = [] := by
  unfold closingJobs
  cases ht : (streamOf s n).tail with
  | pos p =>
    rw [ht] at h
    have : p.offset - p.unprog = 0 := h
    exact if_neg (by omega)
  | none => rfl
  | exhausted => rfl

theorem closingJobs_pad {p : TailPos} (ht : (streamOf s n).tail = .pos p) (hp : p.unprog < p.offset)
    (ho : p.offset ≤ 512) (hi : p.image.length = p.offset) :
    closingJobs (streamOf s n) n = [frameJob (streamOf s n) n p true] := by
  simp only [closingJobs, ht, if_pos hp, closingJob, tailJob_frame hi ho (Nat.le_of_lt hp)]

theorem closedSegments_pool : (closedSegments s n).pool = s.segments.pool := by
  unfold closedSegments
  split <;> rfl

/-- The entry of a segment after the write segment was closed. -/
def closedSeg (s : State) (n g : Nat) : SegEntry := storeGet (fun _ => SegEntry.free) (closedSegments s n).map g

theorem closedSeg_other {g : Nat} (h : ∀ e, writeEntry s (streamOf s n) = some e → e.segment ≠ g) :
    closedSeg s n g = segOf s g := by
  unfold closedSeg closedSegments
  cases hw : writeEntry s (streamOf s n) with
  | none => rfl
  | some e => exact segOf_setSeg_other (Ne.symm (h e hw))

theorem closedSeg_write {e : ChainEntry} (h : writeEntry s (streamOf s n) = some e)
    (hwf : storeWf (fun _ => SegEntry.free) 0 s.segments.map = true) :
    closedSeg s n e.segment = { segOf s e.segment with isOpen := false } := by
  unfold closedSeg closedSegments
  simp only [h]
  exact segOf_setSeg_self hwf

end

/-! ### The record in the segment taken (R101) -/

/-- The stream's entry with the segment taken, its record's sequence assigned, and this tail. -/
def takenStream (t : Stream) (gen g : Nat) (tail : Tail) : Stream :=
  { t with
    chain := t.chain ++ [{ segment := g, generation := gen, first := t.newest + 1, last := t.newest + 1,
                           isSealed := false, isRetired := false }]
    oldest := if t.chain.isEmpty then t.newest + 1 else t.oldest
    newest := t.newest + 1
    resumed := false
    tail := tail }

/-- A segment as the stream's open write segment. -/
def ownedSeg (e : SegEntry) (n gen : Nat) : SegEntry :=
  { e with state := .owned, owner := some n, generation := gen, isOpen := true }

section

variable {d : Dispatched} {s : State} {n gen g : Nat} {attr : Byte} {free : Bool}

/-- Steps 3 and 4 of R101, up to the record's copying. -/
theorem placeInNewSegment_eq (hn : n < s.streams.length) :
    placeInNewSegment d n attr gen g free s =
      copyRecord d n ((streamOf s n).newest + 1) free (recordBytes s n attr)
        ((updSeg g (fun e => ownedSeg e n gen) s).withStream n
          (takenStream (streamOf s n) gen g (.pos (markHeader ((streamOf s n).newest + 1) (tailAt g 0))))) := by
  have hof : ∀ t : Stream, streamOf (setStream n t (updSeg g (fun e => ownedSeg e n gen) s)) n = t := fun t =>
    (streamOf_setStream n n t _).trans (if_pos ⟨rfl, hn⟩)
  have hset : ∀ t t' : Stream, setStream n t' (setStream n t (updSeg g (fun e => ownedSeg e n gen) s)) =
      (updSeg g (fun e => ownedSeg e n gen) s).withStream n t' := by
    intro t t'
    simp only [setStream, State.withStream, List.set_set]
  unfold placeInNewSegment assignAndPlace
  dsimp only
  rw [show (fun e : SegEntry => { e with state := .owned, owner := some n, generation := gen, isOpen := true }) =
    fun e => ownedSeg e n gen from rfl]
  simp only [hof, hset, buildHeader, recordBytes]
  rfl

/-- A record below one frame is copied whole under LAZY. -/
theorem placeInNewSegment_within (hn : n < s.streams.length) (he : d.eager = false)
    (hlen : 16 + (stagedPayload s).length < 512) (hnew : (streamOf s n).newest < 4294967294)
    (ht : takesRecords (streamOf s n) = true) :
    placeInNewSegment d n attr gen g free s =
      complete d { result := .done, value := (streamOf s n).newest + 1, aux := (streamOf s n).durable }
        ((((updSeg g (fun e => ownedSeg e n gen) s).withStaging none).withStream n
          { takenStream (streamOf s n) gen g
              (.pos (tailWith (tailAt g 0) ((streamOf s n).newest + 1) (recordBytes s n attr)))
            with state := .opened }).withJobs (s.write.jobs ++ [])) := by
  have hbytes := recordBytes_length s n attr
  have hfill := fillTail_within (seq := (streamOf s n).newest + 1) (p := tailAt g 0) (recordBytes_ne_nil s n attr)
    (by show 0 + _ ≤ 512; omega)
  have hin : stride d.eager free n
      (incarnationOf (takenStream (streamOf s n) gen g (.pos (markHeader ((streamOf s n).newest + 1) (tailAt g 0)))))
      (topGeneration (takenStream (streamOf s n) gen g (.pos (markHeader ((streamOf s n).newest + 1) (tailAt g 0)))))
      ((streamOf s n).newest + 1) (recordBytes s n attr) (markHeader ((streamOf s n).newest + 1) (tailAt g 0)) =
        ⟨none, .pos (tailWith (tailAt g 0) ((streamOf s n).newest + 1) (recordBytes s n attr)), none⟩ := by
    rw [stride_within (by rw [hfill]; show 0 + _ < 512; omega), hfill, he, strideEnd_lazy]
  have hof := streamOf_withStream (s := updSeg g (fun e => ownedSeg e n gen) s) hn
    (takenStream (streamOf s n) gen g (.pos (markHeader ((streamOf s n).newest + 1) (tailAt g 0))))
  have hlen' : n < ((updSeg g (fun e => ownedSeg e n gen) s).withStream n
      (takenStream (streamOf s n) gen g
        (.pos (markHeader ((streamOf s n).newest + 1) (tailAt g 0))))).streams.length :=
    lt_of_lt_of_eq hn (List.length_set ..).symm
  have hopen : stateAfterPlacing ((streamOf s n).newest + 1) (streamOf s n).state = .opened :=
    stateAfterPlacing_opened ht (by omega)
  rw [placeInNewSegment_eq hn, copyRecord_done (x := ⟨none, _, none⟩) (congrArg Stream.tail hof)
    (by rw [hof]; exact hin) rfl,
    finishCommit_lazy he (by omega), strides_placed hlen']
  have hdurable : ∀ x, (streamOf (((updSeg g (fun e => ownedSeg e n gen) s).withStream n
      (takenStream (streamOf s n) gen g (.pos (markHeader ((streamOf s n).newest + 1) (tailAt g 0))))).strides d n
        ((streamOf s n).newest + 1) x) n).durable = (streamOf s n).durable := by
    intro x
    refine (congrArg Stream.durable (streamOf_withStream hlen' _)).trans ?_
    rw [hof]
    rfl
  rw [hdurable, hof, show (takenStream (streamOf s n) gen g
    (.pos (markHeader ((streamOf s n).newest + 1) (tailAt g 0)))).state = (streamOf s n).state from rfl, hopen]
  simp only [State.withStream, State.withStaging, State.withJobs, List.set_set]
  rfl

/-- A record that fills its first frame, behind a pad of the same event, waits for the next event (log 15). -/
theorem placeInNewSegment_filled (hn : n < s.streams.length) (hlen : 512 ≤ 16 + (stagedPayload s).length) :
    placeInNewSegment d n attr gen g false s =
      setPhase d (.placing ((streamOf s n).newest + 1) ((recordBytes s n attr).drop 512))
        (((updSeg g (fun e => ownedSeg e n gen) s).withStream n
          (takenStream (streamOf s n) gen g
            (.pos (tailFilled (tailAt g 0) ((streamOf s n).newest + 1) (recordBytes s n attr))))).withJobs
              (s.write.jobs ++ [])) := by
  have hbytes := recordBytes_length s n attr
  have hfill := fillTail_filled (seq := (streamOf s n).newest + 1) (p := tailAt g 0) (Nat.zero_le _)
    (recordBytes_ne_nil s n attr) (by show 512 ≤ 0 + _; omega)
  have hof := streamOf_withStream (s := updSeg g (fun e => ownedSeg e n gen) s) hn
    (takenStream (streamOf s n) gen g (.pos (markHeader ((streamOf s n).newest + 1) (tailAt g 0))))
  rw [placeInNewSegment_eq hn, copyRecord_left (x := ⟨none, _, some _⟩) (congrArg Stream.tail hof)
    (stride_waits (by rw [hfill]; exact le_refl 512)) rfl, hfill]
  unfold State.strides
  rw [hof]
  simp only [State.withStream, State.withJobs, List.set_set]
  rfl

/-! ### Allocation -/

theorem allocate_stale {gs : List Nat} (ha : availableSegs s = g :: gs) (hst : (segOf s g).state = .freeStale) :
    allocate d n attr gen free s =
      setPhase d (.allocating g gen) ((takeSegment g s).withRequest .sequencer (.erase g)) := by
  simp only [allocate, ha, hst, if_true]
  rfl

theorem allocate_erased {gs : List Nat} (ha : availableSegs s = g :: gs) (hst : (segOf s g).state = .freeErased) :
    allocate d n attr gen free s = placeInNewSegment d n attr gen g free (takeSegment g s) := by
  have hne : ¬ SegState.freeErased = SegState.freeStale := by decide
  simp only [allocate, ha, hst, hne, if_false]

theorem takeSegment_pool : (takeSegment g s).segments.pool = s.segments.pool.filter (fun x => x ≠ g) := rfl

theorem segOf_takeSegment_self : segOf (takeSegment g s) g = { segOf s g with state := .taken } :=
  segOf_setSeg_listed (ne_free_of_state (fun h => by cases h))

theorem segOf_takeSegment_other {h : Nat} (hne : h ≠ g) : segOf (takeSegment g s) h = segOf s h :=
  segOf_setSeg_other hne

theorem segOf_owned_self :
    segOf (updSeg g (fun e => ownedSeg e n gen) (takeSegment g s)) g = ownedSeg (segOf s g) n gen := by
  unfold updSeg
  rw [segOf_takeSegment_self]
  exact segOf_setSeg_listed (ne_free_of_state (fun h => by cases h))

theorem segOf_owned_other {h : Nat} (hne : h ≠ g) :
    segOf (updSeg g (fun e => ownedSeg e n gen) (takeSegment g s)) h = segOf s h :=
  (segOf_setSeg_other hne).trans (segOf_takeSegment_other hne)

end

/-! ### A dispatched command that completes and tells of something (R151) -/

theorem joinNotice_keeps (e : EventUnit) (n : Notice) :
    (joinNotice e n).mask = e.mask ∧ (joinNotice e n).holdClear = e.holdClear ∧
      (joinNotice e n).latched = e.latched ∧ (joinNotice e n).fresh = e.fresh := by
  unfold joinNotice
  split <;> exact ⟨rfl, rfl, rfl, rfl⟩

/-- What a notice leaves of the list and the lost counter depends on these alone. -/
theorem joinNotice_list {e e' : EventUnit} (hn : e'.notices = e.notices) (hl : e'.lost = e.lost) (n : Notice) :
    (joinNotice e' n).notices = (joinNotice e n).notices ∧ (joinNotice e' n).lost = (joinNotice e n).lost := by
  unfold joinNotice
  rw [hn]
  split
  · exact ⟨rfl, hl⟩
  · exact ⟨rfl, by rw [hl]⟩

/-- The event bits once the head has left the queue and an event was raised. -/
theorem roomOnly_raised (s : State) (b : Byte) :
    RoomOnly (s.events.latched ||| b) ((roomEvents s).latched ||| b) := by
  unfold roomEvents
  dsimp only
  split
  · rw [show s.events.latched ||| 0x02 ||| b = s.events.latched ||| b ||| 0x02 from by ac_rfl]
    exact roomOnly_or _
  · exact .refl _

section

variable {i : Instr} {s w : State} {f : CmdFrame} {c : Cmd} (h : Dispatches s f c) (hi : rowOf c = i)
include h hi

/-- Seen from the state it leaves, with its notice in the list. -/
theorem completes_telling {o : Outcome} {e : Event} {k : Nat} {nt : Notice}
    (hw : runOf c (newDispatched s f c) (takenState s f c) = complete (newDispatched s f c) o w)
    (hs : w.sequencer = takenSequencer s f c)
    (he : w.events = { roomEvents s with fresh := [(k, nt)], latched := (roomEvents s).latched ||| e.bit })
    (ho : o.result ≠ .writeProtected) :
    Completes i s f c o { w with
      sequencer := s.sequencer
      events := joinNotice { s.events with fresh := [], latched := s.events.latched ||| e.bit } nt } := by
  obtain ⟨hmask, hclear, hlatched, hfresh⟩ :=
    joinNotice_keeps { s.events with fresh := [], latched := s.events.latched ||| e.bit } nt
  have hroom := roomOnly_raised s e.bit
  have hd : w.sequencer.deferred = s.sequencer.deferred := (congrArg Sequencer.deferred hs).trans rfl
  have hnear : Near { w with
      sequencer := s.sequencer
      events := { s.events with fresh := [(k, nt)], latched := s.events.latched ||| e.bit } } w none :=
    ⟨rfl, ⟨0, (List.append_nil _).symm⟩, rfl, rfl, hd, rfl, rfl, by rw [he]; rfl, by rw [he]; rfl, by rw [he],
      by rw [he]; rfl, fun x hx => by unfold Raised; rw [he]; exact hroom.1 x hx,
      fun _ x hx hr => by unfold Raised at hr; rw [he] at hr; exact hroom.2 x hx hr,
      fun x hx => absurd hx.symm (Option.some_ne_none _)⟩
  have hcomplete := hnear.complete (newDispatched s f c) o
  have hset := hcomplete.settled
  obtain ⟨hheld, -, -, -, -, -⟩ := complete_spec (newDispatched s f c) o w
  have hevents : (complete (newDispatched s f c) o w).events = w.events := by
    simp [complete, postRecord, completionOf, ho]
  have hexec : exec i s = .next (settle (choose (complete (newDispatched s f c) o w))) := by
    refine hi ▸ (exec_rowOf c h.ready).trans (congrArg _ ?_)
    replace hw := (congrArg (runOf c _) (afterTake_eq s f c)).trans hw
    rw [dispatch_of h (by rw [hw, (complete_work ..).2.2, hd]), hw]
  refine ⟨_, hexec, ⟨?_, hset.posted, fun x hx hp => ?_, hset.entries, hset.work, hset.asked, fun x hx => ?_,
    fun hcalm => ?_⟩, fun hq ha hc => ?_⟩
  · rw [hset.held, hheld]
    simp only [State.held, Held.taken, he, hs, hmask, hclear]
    rfl
  · exact absurd ((congrArg Completion.result (Option.some.inj hx)).trans hp) ho
  · exact hset.bits x (by unfold Raised at hx ⊢; rw [hlatched] at hx; exact hx)
  · have hunlocked : NoLockedHead (complete (newDispatched s f c) o w) := hcomplete.unlocked hcalm.unlocked
    have hguard : guarded (complete (newDispatched s f c) o w) = false :=
      (guarded_congr hcomplete.guard).trans hcalm.unguarded
    obtain ⟨hcpl, hev⟩ := choose_calm hunlocked hguard
    obtain ⟨key, hkey⟩ := hcomplete.fresh
    have hcalm' : w.cpl.fresh = [] := hcalm.noCompletion
    have hflush : (settle (choose (complete (newDispatched s f c) o w))).events =
        joinNotice { w.events with fresh := [] } nt := by
      show (orderByKey (choose (complete (newDispatched s f c) o w)).events.fresh).foldl joinNotice
        { (choose (complete (newDispatched s f c) o w)).events with fresh := [] } = _
      rw [hev, hevents, he]
      rfl
    have hlist := joinNotice_list (e' := { w.events with fresh := [] })
      (e := { s.events with fresh := [], latched := s.events.latched ||| e.bit }) (by rw [he]; rfl) (by rw [he]; rfl) nt
    refine ⟨?_, by rw [hflush]; exact hlist.1, by rw [hflush]; exact hlist.2, fun _ x hx hr => ?_⟩
    · rw [settle_records, hcpl, hkey, hcomplete.records]
      simp only [hcalm', List.nil_append]
      rfl
    · unfold Raised at hr ⊢
      rw [hflush, (joinNotice_keeps _ _).2.2.1, he] at hr
      rw [hlatched]
      exact hroom.2 x hx hr
  · refine (close_spec _).bits _ ?_
    rw [hevents, he]
    exact or_keeps (room_raised h.ready hq ha hc)

end

/-! ### What an allocation leaves -/

theorem segOf_of {s w : State} {g : Nat} (h : w.segments = s.segments) : segOf w g = segOf s g := by
  unfold segOf
  rw [h]

/-- The record stands at the start of the segment taken, and nothing else was changed. -/
structure Allocated (c w : State) (n gen g : Nat) (attr : Byte) : Prop where
  taken : segOf w g = ownedSeg (segOf c g) n gen
  others : ∀ h, h ≠ g → segOf w h = segOf c h
  pool : w.segments.pool = c.segments.pool.filter (fun x => x ≠ g)
  streams : w.streams = c.streams.set n
    { takenStream (streamOf c n) gen g
        (.pos (tailWith (tailAt g 0) ((streamOf c n).newest + 1) (recordBytes c n attr))) with state := .opened }
  write : w.write = { staging := none, jobs := c.write.jobs }
  rest : w.medium = c.medium ∧ w.sequencer = c.sequencer ∧ w.events = c.events

section

variable {d : Dispatched} {c : State} {n gen g : Nat} {attr : Byte} {free : Bool} {gs : List Nat}

/-- A record below one frame, under LAZY, in an erased segment. -/
theorem allocate_lazy (hn : n < c.streams.length) (he : d.eager = false) (hlen : 16 + (stagedPayload c).length < 512)
    (hnew : (streamOf c n).newest < 4294967294) (ht : takesRecords (streamOf c n) = true)
    (ha : availableSegs c = g :: gs) (hst : (segOf c g).state = .freeErased) :
    ∃ w, allocate d n attr gen free c =
        complete d { result := .done, value := (streamOf c n).newest + 1, aux := (streamOf c n).durable } w ∧
      Allocated c w n gen g attr := by
  have hstream : streamOf (takeSegment g c) n = streamOf c n := rfl
  have hpay : stagedPayload (takeSegment g c) = stagedPayload c := rfl
  have htime : (takeSegment g c).time = c.time := rfl
  have hbytes : recordBytes (takeSegment g c) n attr = recordBytes c n attr := by
    simp only [recordBytes, buildHeader, hstream, hpay, htime]
  have hrun := placeInNewSegment_within (d := d) (s := takeSegment g c) (gen := gen) (g := g) (attr := attr)
    (free := free) hn he (hpay.symm ▸ hlen) (hstream.symm ▸ hnew) (hstream.symm ▸ ht)
  rw [hstream, hbytes] at hrun
  exact ⟨_, (allocate_erased ha hst).trans hrun, (segOf_of rfl).trans segOf_owned_self,
    fun _ hne => (segOf_of rfl).trans (segOf_owned_other hne), rfl, rfl,
    congrArg (fun l => ({ staging := none, jobs := l } : WritePath)) (List.append_nil _), by
      simp only [State.withJobs, State.withStream, State.withStaging, updSeg, setSeg_medium, setSeg_sequencer,
        setSeg_events, takeSegment, leavePool, and_self]⟩

end

/-! ### COMMIT with the write segment left for a new one -/

/-- The machine whose COMMIT is past step 7, its write segment closed (R75, R77). -/
def State.closing (s : State) (n : Nat) : State := closeWriteSegment n (s.owning n)

section

variable {d : Dispatched} {s : State} {n : Nat} {attr : Byte}

theorem closing_eq (n : Nat) (s : State) :
    s.closing n = { s.owning n with
      segments := closedSegments s n
      streams := s.streams.set n { streamOf s n with tail := closedTail (streamOf s n).tail }
      write := { (s.owning n).write with jobs := s.write.jobs ++ closingJobs (streamOf s n) n } } :=
  (closeWriteSegment_eq n (s.owning n)).trans (by
    have h : closedSegments (s.owning n) n = closedSegments s n := by
      unfold closedSegments
      rw [show writeEntry (s.owning n) (streamOf (s.owning n) n) = writeEntry s (streamOf s n) from rfl]
      cases writeEntry s (streamOf s n) <;> rfl
    rw [h]
    rfl)

/-- The write segment is closed, and the stream's tail with it; nothing else of the storage changes. -/
structure Closing (s c : State) (n : Nat) : Prop where
  seg : ∀ h, segOf c h = closedSeg s n h
  pool : c.segments.pool = s.segments.pool
  streams : c.streams = s.streams.set n { streamOf s n with tail := closedTail (streamOf s n).tail }
  write : c.write = { staging := s.write.staging.map (fun x => { x with owned := true })
                      jobs := s.write.jobs ++ closingJobs (streamOf s n) n }
  guard : c.guard = s.guard
  engine : c.engine = s.engine
  time : c.time = s.time
  rest : c.medium = s.medium ∧ c.sequencer = s.sequencer ∧ c.events = s.events

theorem closing_spec (s : State) (n : Nat) : Closing s (s.closing n) n := by
  rw [closing_eq]
  refine ⟨fun _ => rfl, closedSegments_pool, rfl, rfl, rfl, rfl, rfl, rfl, rfl, rfl⟩

theorem availableSegs_of {c : State} (hp : c.segments.pool = s.segments.pool) (hg : c.guard = s.guard) :
    availableSegs c = availableSegs s := by
  unfold availableSegs
  rw [hp]
  exact List.filter_congr fun g _ => by rw [locked_of_guard hg]

theorem stagedPayload_of {c : State}
    (h : c.write.staging = s.write.staging.map (fun x => { x with owned := true })) :
    stagedPayload c = stagedPayload s := by
  unfold stagedPayload
  rw [h, Option.map_map]
  rfl

end

section

variable {s c : State} {n : Nat} {attr : Byte}

theorem streams_set_other {w : State} {x : Stream} {m : Nat} (h : w.streams = s.streams.set n x) (hm : m ≠ n) :
    streamOf w m = streamOf s m := by
  unfold streamOf
  rw [h, List.getD_eq_getElem?_getD, List.getD_eq_getElem?_getD, List.getElem?_set_ne (Ne.symm hm)]

theorem streams_set_self {w : State} {x : Stream} (h : w.streams = s.streams.set n x) (hn : n < s.streams.length) :
    streamOf w n = x := by
  unfold streamOf
  rw [h]
  simp [List.getD_eq_getElem?_getD, hn]

theorem Closing.entry (h : Closing s c n) (hn : n < s.streams.length) :
    streamOf c n = { streamOf s n with tail := closedTail (streamOf s n).tail } := streams_set_self h.streams hn

theorem recordBytes_of (ht : c.time = s.time) (hp : stagedPayload c = stagedPayload s)
    (hnew : (streamOf c n).newest = (streamOf s n).newest) (hr : (streamOf c n).resumed = (streamOf s n).resumed) :
    recordBytes c n attr = recordBytes s n attr := by
  simp only [recordBytes, buildHeader, ht, hp, hnew, hr]

theorem Closing.bytes (h : Closing s c n) (hn : n < s.streams.length) :
    recordBytes c n attr = recordBytes s n attr := by
  have he := h.entry hn
  exact recordBytes_of h.time (stagedPayload_of (congrArg WritePath.staging h.write)) (by rw [he]) (by rw [he])

theorem Closing.takes (h : Closing s c n) (hn : n < s.streams.length) :
    takesRecords (streamOf c n) = takesRecords (streamOf s n) := by
  rw [h.entry hn]
  rfl

end

/-- A stale segment taken, its ERASE requested. -/
theorem allocate_requests {d : Dispatched} {c : State} {n gen g : Nat} {attr : Byte} {free : Bool} {gs : List Nat}
    (ha : availableSegs c = g :: gs) (hst : (segOf c g).state = .freeStale) :
    ∃ w, allocate d n attr gen free c = setPhase d (.allocating g gen) w ∧
      w.engine.request = some { who := .sequencer, op := .erase g } ∧ (segOf w g).state = .taken ∧
      w.segments.pool = c.segments.pool.filter (fun x => x ≠ g) ∧ w.write = c.write ∧ w.streams = c.streams ∧
      w.medium = c.medium ∧ w.sequencer = c.sequencer ∧ w.events = c.events :=
  ⟨_, allocate_stale ha hst, rfl, congrArg SegEntry.state segOf_takeSegment_self, rfl, rfl, rfl, rfl, rfl, rfl⟩

/-! ### The judgement of a record that needs a new segment -/

/-- The record does not fit the write segment, and no step of the judgement before Table 4-4 finds a fault. -/
structure NeedsNew (s : State) (n : Nat) (d : Definition) : Prop where
  accepts : CommitOpen s n
  defn : (streamOf s n).defn = some d
  length : n < s.streams.length
  below : (streamOf s n).newest < 4294967294
  full : spaceLeft (streamOf s n) < 16 + (stagedPayload s).length

section

variable {d : Dispatched} {s : State} {n g : Nat} {attr : Byte} {def' : Definition} {gs : List Nat} {b : Bool}
  (h : NeedsNew s n def')
include h

theorem NeedsNew.judge (hp : newPlacement s (streamOf s n) def' = .newSegment b)
    (hu : WriteUnlocked s n ∨ pendingBytes (streamOf s n).tail = 0) :
    judgeCommit s n = .place (.newSegment b) := by
  have hnew := h.below
  rw [judgeCommit_open h.accepts h.defn, if_neg (by omega)]
  exact (judgePlacement_new h.full hp).1 hu

omit h in
theorem commitJobs_new (eager : Bool) :
    commitJobs s n eager (.newSegment b) = (if 0 < pendingBytes (streamOf s n).tail then 1 else 0) +
      (16 + (stagedPayload s).length) / 512 +
        (if eager ∧ (16 + (stagedPayload s).length) % 512 ≠ 0 then 1 else 0) := by
  simp [commitJobs, startOffset]

/-- COMMIT goes on with its allocation, after a ring's reclaim where one is due. -/
theorem NeedsNew.allocates (hp : newPlacement s (streamOf s n) def' = .newSegment b)
    (hu : WriteUnlocked s n ∨ pendingBytes (streamOf s n).tail = 0)
    (hroom : commitJobs s n d.eager (.newSegment b) ≤ programRoom s) :
    runCommit d n attr s =
      allocate d n attr (topGeneration (streamOf s n) + 1) (pendingBytes (streamOf s n).tail = 0)
        (if b then reclaimOldest n (s.closing n) else s.closing n) := by
  simp only [runCommit, h.judge hp hu, Nat.not_lt.mpr hroom, if_false]
  rfl

/-- The closing leaves what the allocation looks at. -/
theorem NeedsNew.closing : Closing s (s.closing n) n ∧ n < (s.closing n).streams.length ∧
    availableSegs (s.closing n) = availableSegs s := by
  have hc := closing_spec s n
  refine ⟨hc, ?_, availableSegs_of hc.pool hc.guard⟩
  rw [hc.streams, List.length_set]
  exact h.length

variable (hq : ownedCount (streamOf s n) < def'.quota) (ha : availableSegs s = g :: gs) (hgs : 2 ≤ gs.length)
  (hw : ∀ e, writeEntry s (streamOf s n) = some e → e.segment ≠ g)
include hq ha hgs hw

omit h hw in
theorem newPlacement_first : newPlacement s (streamOf s n) def' = .newSegment false :=
  newPlacement_available hq (by rw [ha, List.length_cons]; omega)

/-- LAZY, below one frame, in an erased segment. -/
theorem NeedsNew.erased_lazy (hu : WriteUnlocked s n ∨ pendingBytes (streamOf s n).tail = 0)
    (hlen : 16 + (stagedPayload s).length < 512) (he : d.eager = false)
    (hroom : (if 0 < pendingBytes (streamOf s n).tail then 1 else 0) ≤ programRoom s)
    (hst : (segOf s g).state = .freeErased) :
    ∃ w, runCommit d n attr s =
        complete d { result := .done, value := (streamOf s n).newest + 1, aux := (streamOf s n).durable } w ∧
      segOf w g = ownedSeg (segOf s g) n (topGeneration (streamOf s n) + 1) ∧
      (∀ k, k ≠ g → segOf w k = closedSeg s n k) ∧
      w.segments.pool = s.segments.pool.filter (fun x => x ≠ g) ∧
      streamOf w n = { takenStream (streamOf s n) (topGeneration (streamOf s n) + 1) g
        (.pos (tailWith (tailAt g 0) ((streamOf s n).newest + 1) (recordBytes s n attr))) with state := .opened } ∧
      (∀ m, m ≠ n → streamOf w m = streamOf s m) ∧
      w.write = { staging := none, jobs := s.write.jobs ++ closingJobs (streamOf s n) n } ∧
      w.medium = s.medium ∧ w.sequencer = s.sequencer ∧ w.events = s.events := by
  obtain ⟨hc, hlt, havail⟩ := h.closing
  have hentry := hc.entry h.length
  have hbytes := hc.bytes (attr := attr) h.length
  have hseg : segOf (s.closing n) g = segOf s g := (hc.seg g).trans (closedSeg_other hw)
  have hjobs : commitJobs s n d.eager (.newSegment false) ≤ programRoom s := by
    rw [commitJobs_new, Nat.div_eq_of_lt hlen, he]
    simpa using hroom
  obtain ⟨w, hrun, hall⟩ := allocate_lazy (d := d) (gen := topGeneration (streamOf s n) + 1) (attr := attr)
    (free := pendingBytes (streamOf s n).tail = 0) hlt he
    (by rw [stagedPayload_of (congrArg WritePath.staging hc.write)]; exact hlen)
    (by rw [hentry]; exact h.below) ((hc.takes h.length).trans h.accepts.takes) (havail.trans ha)
    ((congrArg SegEntry.state hseg).trans hst)
  obtain ⟨hmed, hsequ, hev⟩ := hc.rest
  obtain ⟨hmed', hsequ', hev'⟩ := hall.rest
  rw [hentry] at hrun
  refine ⟨w, (h.allocates (newPlacement_first hq ha hgs) hu hjobs).trans hrun, ?_, fun k hk => ?_, ?_, ?_,
    fun m hm => ?_, ?_, hmed'.trans hmed, hsequ'.trans hsequ, hev'.trans hev⟩
  · rw [hall.taken, hseg]
  · rw [hall.others k hk, hc.seg]
  · rw [hall.pool, hc.pool]
  · rw [streams_set_self hall.streams hlt, hentry, hbytes]
    rfl
  · rw [streams_set_other hall.streams hm, streams_set_other hc.streams hm]
  · rw [hall.write, hc.write]

/-- A stale segment is taken, and its ERASE requested. -/
theorem NeedsNew.stale (hb : pendingBytes (streamOf s n).tail = 0) (hlen : 16 + (stagedPayload s).length < 512)
    (he : d.eager = false) (hst : (segOf s g).state = .freeStale) :
    ∃ w, runCommit d n attr s = setPhase d (.allocating g (topGeneration (streamOf s n) + 1)) w ∧
      w.engine.request = some { who := .sequencer, op := .erase g } ∧ (segOf w g).state = .taken ∧
      w.segments.pool = s.segments.pool.filter (fun x => x ≠ g) ∧
      w.write.staging = s.write.staging.map (fun x => { x with owned := true }) ∧ w.write.jobs = s.write.jobs ∧
      (streamOf w n).chain = (streamOf s n).chain ∧ (streamOf w n).newest = (streamOf s n).newest ∧
      w.medium = s.medium ∧ w.sequencer = s.sequencer ∧ w.events = s.events := by
  obtain ⟨hc, hlt, havail⟩ := h.closing
  have hentry := hc.entry h.length
  have hseg : segOf (s.closing n) g = segOf s g := (hc.seg g).trans (closedSeg_other hw)
  have hjobs : commitJobs s n d.eager (.newSegment false) ≤ programRoom s := by
    rw [commitJobs_new, Nat.div_eq_of_lt hlen, he, hb]
    simp
  obtain ⟨hmed, hsequ, hev⟩ := hc.rest
  obtain ⟨w, hrun, hreq, htaken, hpool, hwrite, hstreams, hmed', hsequ', hev'⟩ :=
    allocate_requests (d := d) (n := n) (gen := topGeneration (streamOf s n) + 1) (attr := attr)
      (free := pendingBytes (streamOf s n).tail = 0) (havail.trans ha) ((congrArg SegEntry.state hseg).trans hst)
  have hstream : streamOf w n = streamOf (s.closing n) n := by unfold streamOf; rw [hstreams]
  refine ⟨w, (h.allocates (newPlacement_first hq ha hgs) (.inr hb) hjobs).trans hrun, hreq, htaken, ?_, ?_, ?_, ?_, ?_,
    hmed'.trans hmed, hsequ'.trans hsequ, hev'.trans hev⟩
  · rw [hpool, hc.pool]
  · rw [hwrite, hc.write]
  · rw [hwrite, hc.write, closingJobs_none hb, List.append_nil]
  · rw [hstream, hentry]
  · rw [hstream, hentry]

end

/-- A record that fills its first frame behind a closing pad, in an erased segment. -/
theorem allocate_filled {d : Dispatched} {c : State} {n gen g : Nat} {attr : Byte} {gs : List Nat}
    (hn : n < c.streams.length) (hlen : 512 ≤ 16 + (stagedPayload c).length) (ha : availableSegs c = g :: gs)
    (hst : (segOf c g).state = .freeErased) :
    ∃ w, allocate d n attr gen false c =
        setPhase d (.placing ((streamOf c n).newest + 1) ((recordBytes c n attr).drop 512)) w ∧
      segOf w g = ownedSeg (segOf c g) n gen ∧ (∀ h, h ≠ g → segOf w h = segOf c h) ∧
      w.streams = c.streams.set n (takenStream (streamOf c n) gen g
        (.pos (tailFilled (tailAt g 0) ((streamOf c n).newest + 1) (recordBytes c n attr)))) ∧
      w.write = c.write ∧ w.medium = c.medium ∧ w.sequencer = c.sequencer ∧ w.events = c.events := by
  have hstream : streamOf (takeSegment g c) n = streamOf c n := rfl
  have hpay : stagedPayload (takeSegment g c) = stagedPayload c := rfl
  have hbytes : recordBytes (takeSegment g c) n attr = recordBytes c n attr :=
    recordBytes_of rfl hpay (by rw [hstream]) (by rw [hstream])
  have hrun := placeInNewSegment_filled (d := d) (s := takeSegment g c) (gen := gen) (g := g) (attr := attr) hn
    (hpay.symm ▸ hlen)
  rw [hstream, hbytes] at hrun
  refine ⟨_, (allocate_erased ha hst).trans hrun, (segOf_of rfl).trans segOf_owned_self,
    fun _ hne => (segOf_of rfl).trans (segOf_owned_other hne), rfl,
    congrArg (fun l => ({ staging := c.write.staging, jobs := l } : WritePath)) (List.append_nil _), ?_⟩
  simp only [State.withJobs, State.withStream, updSeg, setSeg_medium, setSeg_sequencer, setSeg_events, takeSegment,
    leavePool, and_self]

/-! ### A ring's reclaim (R103) -/

/-- The oldest segment is FREE_STALE at the pool's tail, its entry gone from the chain, and SPACE and RECLAIMED tell of
it. -/
structure Reclaimed (c c' : State) (n : Nat) (e x : ChainEntry) (es : List ChainEntry) : Prop where
  freed : segOf c' e.segment = { SegEntry.free with state := .freeStale, weak := (segOf c e.segment).weak }
  others : ∀ h, h ≠ e.segment → segOf c' h = segOf c h
  pool : c'.segments.pool = c.segments.pool ++ [e.segment]
  streams : c'.streams = c.streams.set n { streamOf c n with chain := x :: es, oldest := x.first }
  write : c'.write = c.write
  guard : c'.guard = c.guard
  events : c'.events = { c.events with
    fresh := c.events.fresh ++ [(noticeRank .reclaimed,
      { kind := .reclaimed, stream := n, segment := e.segment, value := e.last, value2 := x.first })]
    latched := c.events.latched ||| Event.bit .space }
  rest : c'.medium = c.medium ∧ c'.sequencer = c.sequencer

theorem raise_of {e : Event} {s : State} (h : s.events.holdClear = false) :
    raise e s = { s with events := { s.events with latched := s.events.latched ||| e.bit } } :=
  if_neg (ne_true_of_eq_false h)

theorem addNotice_of {n : Notice} {s : State} (h : s.events.holdClear = false) :
    addNotice n s = { s with events := { s.events with fresh := s.events.fresh ++ [(noticeRank n.kind, n)] } } :=
  if_neg (ne_true_of_eq_false h)

theorem reclaimOldest_spec {c : State} {n : Nat} {e x : ChainEntry} {es : List ChainEntry}
    (hc : (streamOf c n).chain = e :: x :: es) (hh : c.events.holdClear = false) :
    Reclaimed c (reclaimOldest n c) n e x es := by
  have heq : reclaimOldest n c = raise .space (addNotice
      { kind := .reclaimed, stream := n, segment := e.segment, value := e.last, value2 := x.first }
      (releaseSegment e.segment (setStream n { streamOf c n with chain := x :: es, oldest := x.first } c))) := by
    simp only [reclaimOldest, hc, List.head?_cons, Option.map_some, Option.getD_some, tailOf_cons]
  rw [heq, addNotice_of (by exact hh), raise_of (by exact hh)]
  refine ⟨segOf_setSeg_listed (ne_free_of_state fun h => by cases h), fun h hne => segOf_setSeg_other hne, rfl, rfl,
    rfl, rfl, rfl, rfl, rfl⟩

section

variable {d : Dispatched} {s : State} {n g : Nat} {attr : Byte} {def' : Definition} {gs : List Nat}
  (h : NeedsNew s n def')
include h

/-- Behind a closing pad, a record that fills its first frame (log 15). -/
theorem NeedsNew.erased_filled (hq : ownedCount (streamOf s n) < def'.quota) (ha : availableSegs s = g :: gs)
    (hgs : 2 ≤ gs.length) (hw : ∀ e, writeEntry s (streamOf s n) = some e → e.segment ≠ g) (hu : WriteUnlocked s n)
    (hb : 0 < pendingBytes (streamOf s n).tail) (hlen : 512 ≤ 16 + (stagedPayload s).length)
    (hlen' : 16 + (stagedPayload s).length < 1024) (hroom : s.write.jobs.length ≤ 5)
    (hst : (segOf s g).state = .freeErased) :
    ∃ w, runCommit d n attr s =
        setPhase d (.placing ((streamOf s n).newest + 1) ((recordBytes s n attr).drop 512)) w ∧
      w.write = { staging := s.write.staging.map (fun x => { x with owned := true })
                  jobs := s.write.jobs ++ closingJobs (streamOf s n) n } ∧
      segOf w g = ownedSeg (segOf s g) n (topGeneration (streamOf s n) + 1) ∧
      (∀ k, k ≠ g → segOf w k = closedSeg s n k) ∧
      streamOf w n = takenStream (streamOf s n) (topGeneration (streamOf s n) + 1) g
        (.pos (tailFilled (tailAt g 0) ((streamOf s n).newest + 1) (recordBytes s n attr))) ∧
      w.medium = s.medium ∧ w.sequencer = s.sequencer ∧ w.events = s.events := by
  obtain ⟨hc, hlt, havail⟩ := h.closing
  have hentry := hc.entry h.length
  have hbytes := hc.bytes (attr := attr) h.length
  have hseg : segOf (s.closing n) g = segOf s g := (hc.seg g).trans (closedSeg_other hw)
  have hjobs : commitJobs s n d.eager (.newSegment false) ≤ programRoom s := by
    have hquot : (16 + (stagedPayload s).length) / 512 ≤ 1 := by omega
    rw [commitJobs_new, if_pos hb]
    unfold programRoom
    split <;> omega
  obtain ⟨w, hrun, htaken, hothers, hstreams, hwrite, hmed', hsequ', hev'⟩ :=
    allocate_filled (d := d) (gen := topGeneration (streamOf s n) + 1) (attr := attr) hlt
      (by rw [stagedPayload_of (congrArg WritePath.staging hc.write)]; exact hlen) (havail.trans ha)
      ((congrArg SegEntry.state hseg).trans hst)
  obtain ⟨hmed, hsequ, hev⟩ := hc.rest
  have hall := h.allocates (d := d) (attr := attr) (newPlacement_first hq ha hgs) (.inl hu) hjobs
  rw [decide_eq_false (Nat.ne_of_gt hb)] at hall
  rw [hentry, hbytes] at hrun
  refine ⟨w, hall.trans hrun, hwrite.trans hc.write, ?_, fun k hk => ?_, ?_, hmed'.trans hmed, hsequ'.trans hsequ,
    hev'.trans hev⟩
  · rw [htaken, hseg]
  · rw [hothers k hk, hc.seg]
  · rw [streams_set_self hstreams hlt, hentry, hbytes]
    rfl

/-- A ring at its quota reclaims its oldest segment, and takes an erased one. -/
theorem NeedsNew.reclaims {e x : ChainEntry} {es : List ChainEntry} (hm : def'.mode = .ring)
    (hq : def'.quota ≤ ownedCount (streamOf s n)) (hchain : (streamOf s n).chain = e :: x :: es)
    (he : e.isSealed = false) (hwe : writeEntry s (streamOf s n) ≠ some e) (hj : hasJobInto s e.segment = false)
    (hr : s.engine.reloc = none) (ha : availableSegs s = g :: gs)
    (hgs : 2 ≤ gs.length + (if locked s e.segment then 0 else 1)) (hst : (segOf s g).state = .freeErased)
    (hne : e.segment ≠ g) (hw : ∀ k, writeEntry s (streamOf s n) = some k → k.segment ≠ g)
    (hb : pendingBytes (streamOf s n).tail = 0) (hlen : 16 + (stagedPayload s).length < 512) (hl : d.eager = false)
    (hh : s.events.holdClear = false) :
    ∃ w, runCommit d n attr s =
        complete d { result := .done, value := (streamOf s n).newest + 1, aux := (streamOf s n).durable } w ∧
      (streamOf w n).chain = x :: es ++
        [{ segment := g, generation := topGeneration (streamOf s n) + 1, first := (streamOf s n).newest + 1,
           last := (streamOf s n).newest + 1, isSealed := false, isRetired := false }] ∧
      (streamOf w n).oldest = x.first ∧ (streamOf w n).newest = (streamOf s n).newest + 1 ∧
      segOf w e.segment = { SegEntry.free with state := .freeStale, weak := (segOf w e.segment).weak } ∧
      segOf w g = ownedSeg (segOf s g) n (topGeneration (streamOf s n) + 1) ∧
      w.segments.pool = (s.segments.pool ++ [e.segment]).filter (fun k => k ≠ g) ∧
      (∀ k, k ≠ g → k ≠ e.segment → segOf w k = closedSeg s n k) ∧
      (∀ m, m ≠ n → streamOf w m = streamOf s m) ∧ w.medium = s.medium ∧ w.sequencer = s.sequencer ∧
      w.events = { s.events with
        fresh := s.events.fresh ++ [(noticeRank .reclaimed,
          { kind := .reclaimed, stream := n, segment := e.segment, value := e.last, value2 := x.first })]
        latched := s.events.latched ||| Event.bit .space } := by
  obtain ⟨hc, hlt, havail⟩ := h.closing
  have hentry := hc.entry h.length
  obtain ⟨hmed, hsequ, hev⟩ := hc.rest
  have hrec := reclaimOldest_spec (c := s.closing n) (by rw [hentry]; exact hchain) (by rw [hev]; exact hh)
  have hentry' := streams_set_self hrec.streams hlt
  rw [hentry] at hentry'
  have hreclaim : canReclaim s (streamOf s n) = true := by
    simp only [canReclaim, reclaimCandidate, hchain, hr, he, hj]
    simpa [hwe, allocatableAfter, ha] using (by split at hgs <;> simp_all)
  have hplace : newPlacement s (streamOf s n) def' = .newSegment true :=
    (newPlacement_ring hq hchain hm he hwe).trans (if_pos hreclaim)
  have hseg : segOf (reclaimOldest n (s.closing n)) g = segOf s g :=
    (hrec.others g (Ne.symm hne)).trans ((hc.seg g).trans (closedSeg_other hw))
  have hfirst : ∃ gs', availableSegs (reclaimOldest n (s.closing n)) = g :: gs' := by
    have hall : availableSegs (reclaimOldest n (s.closing n)) =
        (s.segments.pool ++ [e.segment]).filter (fun k => !locked s k) := by
      unfold availableSegs
      rw [hrec.pool, hc.pool]
      exact List.filter_congr fun k _ => by rw [locked_of_guard (hrec.guard.trans hc.guard)]
    have hpool : s.segments.pool.filter (fun k => !locked s k) = g :: gs := ha
    exact ⟨_, by rw [hall, List.filter_append, hpool, List.cons_append]⟩
  obtain ⟨gs', hfirst⟩ := hfirst
  have hlt' : n < (reclaimOldest n (s.closing n)).streams.length := by
    rw [hrec.streams, List.length_set]
    exact hlt
  have hjobs : commitJobs s n d.eager (.newSegment true) ≤ programRoom s := by
    rw [commitJobs_new, Nat.div_eq_of_lt hlen, hl, hb]
    simp
  obtain ⟨w, hrun, hall⟩ := allocate_lazy (d := d) (gen := topGeneration (streamOf s n) + 1) (attr := attr)
    (free := pendingBytes (streamOf s n).tail = 0) hlt' hl
    (by rw [stagedPayload_of (s := s) (by rw [hrec.write, hc.write])]; exact hlen)
    (by rw [hentry']; exact h.below) (by rw [hentry']; exact h.accepts.takes) hfirst
    ((congrArg SegEntry.state hseg).trans hst)
  obtain ⟨hmed', hsequ', hev'⟩ := hall.rest
  have hstream := streams_set_self hall.streams hlt'
  rw [hentry'] at hrun hstream
  have hfreed := (hall.others e.segment hne).trans hrec.freed
  refine ⟨w, (h.allocates (d := d) (attr := attr) hplace (.inr hb) hjobs).trans hrun, ?_, ?_, ?_, ?_, ?_, ?_,
    fun k hk hk' => ?_, fun m hm' => ?_, ?_, ?_, ?_⟩
  · rw [hstream]
    rfl
  · rw [hstream]
    rfl
  · rw [hstream]
    rfl
  · rw [hfreed]
  · rw [hall.taken, hseg]
  · rw [hall.pool, hrec.pool, hc.pool]
  · rw [hall.others k hk, hrec.others k hk', hc.seg]
  · rw [streams_set_other hall.streams hm', streams_set_other hrec.streams hm', streams_set_other hc.streams hm']
  · rw [hmed', hrec.rest.1, hmed]
  · rw [hsequ', hrec.rest.2, hsequ]
  · rw [hev', hrec.events, hev]

end

/-! ### At the dispatch -/

theorem NeedsNew.taken {s : State} {n : Nat} {d : Definition} (h : NeedsNew s n d) (f : CmdFrame) (c : Cmd) :
    NeedsNew (takenState s f c) n d :=
  ⟨⟨h.accepts.takes, h.accepts.staging, h.accepts.unguarded⟩, h.defn, h.length, h.below, h.full⟩

theorem tail_pending {t : Stream} {p : TailPos} (ht : t.tail = .pos p) (hp : p.unprog < p.offset) :
    0 < pendingBytes t.tail := by
  rw [ht]
  exact Nat.sub_pos_of_lt hp

theorem writeUnlocked_of {s : State} {n : Nat} {w : ChainEntry} (hw : writeEntry s (streamOf s n) = some w)
    (hl : locked s w.segment = false) : WriteUnlocked s n := fun _ he => Option.some.inj (hw.symm.trans he) ▸ hl

theorem write_ne {s : State} {n g : Nat} {w : ChainEntry} (hw : writeEntry s (streamOf s n) = some w)
    (hne : w.segment ≠ g) : ∀ e, writeEntry s (streamOf s n) = some e → e.segment ≠ g :=
  fun _ he => Option.some.inj (hw.symm.trans he) ▸ hne

/-- Settles O26: the judgement finds a new segment needed, and the allocation takes the pool's first one, behind the
closing of the write segment and a ring's reclaim. -/
theorem commitTakesANewSegment : Obligations.CommitTakesANewSegment := by
  refine ⟨fun s f n attr d g gs h ho hd hn hnew hfull hq ha hgs hb hlen hl hw => ⟨fun hst => ?_, fun hst => ?_⟩,
    fun s f n attr d p w g gs h ho hd hwf hn hnew hfull hq ha hgs hst hw hne hlock ht hp hoff hi hlen hl hj => ?_,
    fun s f n seq attr d p w g gs bytes h ho hwf hd hn hnew hfull hq ha hgs hst hw hne hlock ht hp hoff hi hlen hlen'
      hj hseq hbytes => ?_,
    fun s f n attr d e x es g gs h ho hd hn hnew hfull hm hq hc he hwe hj hr ha hgs hst hne hw hb hlen hl hh hfresh =>
      ?_⟩
  · have hneed : NeedsNew (takenState s f (.commit n attr)) n d := NeedsNew.taken ⟨ho, hd, hn, hnew, hfull⟩ ..
    obtain ⟨w, hrun, hseg, -, hpool, hstream, hothers, hwrite, hmed, hsequ, hev⟩ :=
      hneed.erased_lazy (d := newDispatched s f (.commit n attr)) (attr := attr) hq ha hgs hw (.inr hb) hlen
        (decide_eq_false hl) (by rw [show pendingBytes (streamOf (takenState s f (.commit n attr)) n).tail = 0 from hb]
                                 exact Nat.zero_le _) hst
    refine ⟨_, completes_leaving h rfl hrun hsequ hev, hseg, hpool, hstream.trans ?_, hothers, hwrite.trans ?_, hmed⟩
    · simp only [takenStream, List.isEmpty_iff]
      rfl
    · rw [show closingJobs (streamOf (takenState s f (.commit n attr)) n) n = [] from closingJobs_none hb,
        List.append_nil]
  · have hneed : NeedsNew (takenState s f (.commit n attr)) n d := NeedsNew.taken ⟨ho, hd, hn, hnew, hfull⟩ ..
    obtain ⟨w, hrun, hreq, htaken, hpool, hstaging, hjobs, hchain, hnewest, hmed, hsequ, hev⟩ :=
      hneed.stale (d := newDispatched s f (.commit n attr)) (attr := attr) hq ha hgs hw hb hlen (decide_eq_false hl) hst
    exact ⟨_, goesOn_leaving h rfl hrun hsequ hev, hreq, htaken, hpool, hstaging, hjobs, hchain, hnewest, hmed⟩
  · have hneed : NeedsNew (takenState s f (.commit n attr)) n d := NeedsNew.taken ⟨ho, hd, hn, hnew, hfull⟩ ..
    obtain ⟨u, hrun, hseg, hsegs, -, hstream, hothers, hwrite, hmed, hsequ, hev⟩ :=
      hneed.erased_lazy (d := newDispatched s f (.commit n attr)) (attr := attr) hq ha hgs (write_ne hw hne)
        (.inl (writeUnlocked_of hw hlock)) hlen (decide_eq_false hl)
        (by show _ ≤ 8 - s.write.jobs.length; split <;> omega) hst
    refine ⟨_, completes_leaving h rfl hrun hsequ hev, hwrite.trans ?_, (hsegs _ hne).trans (closedSeg_write hw hwf),
      congrArg SegEntry.state hseg, congrArg SegEntry.isOpen hseg, fun k hk hk' => ?_, congrArg Stream.tail hstream,
      hothers, hmed⟩
    · rw [show closingJobs (streamOf (takenState s f (.commit n attr)) n) n = [frameJob (streamOf s n) n p true] from
        closingJobs_pad ht hp hoff hi]
    · exact (hsegs k hk).trans (closedSeg_other (write_ne hw (Ne.symm hk')))
  · have hneed : NeedsNew (takenState s f (.commit n attr)) n d := NeedsNew.taken ⟨ho, hd, hn, hnew, hfull⟩ ..
    subst hseq hbytes
    obtain ⟨u, hrun, hwrite, hseg, hsegs, hstream, hmed, hsequ, hev⟩ :=
      hneed.erased_filled (d := newDispatched s f (.commit n attr)) (attr := attr) hq ha hgs (write_ne hw hne)
        (writeUnlocked_of hw hlock) (tail_pending ht hp) hlen hlen' hj hst
    refine ⟨_, goesOn_leaving h rfl hrun hsequ hev, (congrArg WritePath.jobs hwrite).trans ?_,
      congrArg WritePath.staging hwrite, (hsegs _ hne).trans (closedSeg_write hw hwf), congrArg SegEntry.state hseg,
      congrArg SegEntry.isOpen hseg, congrArg Stream.newest hstream, congrArg Stream.tail hstream, hmed⟩
    rw [show closingJobs (streamOf (takenState s f (.commit n attr)) n) n = [frameJob (streamOf s n) n p true] from
      closingJobs_pad ht hp hoff hi]
  · have hneed : NeedsNew (takenState s f (.commit n attr)) n d := NeedsNew.taken ⟨ho, hd, hn, hnew, hfull⟩ ..
    obtain ⟨u, hrun, hchain, hold, hnewest, hfreed, hseg, hpool, hsegs, hothers, hmed, hsequ, hev⟩ :=
      hneed.reclaims (d := newDispatched s f (.commit n attr)) (attr := attr) hm hq hc he hwe hj hr ha hgs hst hne hw hb
        hlen (decide_eq_false hl) hh
    have hev' : u.events = { roomEvents s with
        fresh := [(noticeRank .reclaimed,
          { kind := .reclaimed, stream := n, segment := e.segment, value := e.last, value2 := x.first })]
        latched := (roomEvents s).latched ||| Event.bit .space } := by
      rw [hev, show (takenState s f (.commit n attr)).events.fresh = [] from hfresh]
      rfl
    refine ⟨_, completes_telling h rfl hrun hsequ hev' (fun k => by cases k), hchain, hold, hnewest,
      congrArg SegEntry.state hfreed, congrArg SegEntry.owner hfreed, congrArg SegEntry.state hseg,
      congrArg SegEntry.generation hseg, hpool, fun k hk hk' hkw => ?_, hothers, hmed, ?_, fun hlt => ?_⟩
    · exact (hsegs k hk hk').trans (closedSeg_other fun w hw' => Ne.symm (hkw w hw'))
    · unfold Raised
      rw [(joinNotice_keeps _ _).2.2.1]
      exact or_and_self_byte ..
    · exact congrArg EventUnit.notices (if_pos hlt)

end Sys2Proof.Machine

/-!
PROOFS. SEAL up to the ledger frame it hands over (R132, R133), and the ends of the ledger programs of SEAL and VAULT
CLOSE (R131, R133, R138).
-/

namespace Sys2Proof.Machine

open Sys2Proof

/-! ### The groups of a set to seal (R133) -/

theorem groupsOf_cons {fuel : Nat} {es : List SealEntry} (h : es ≠ []) :
    groupsOf (fuel + 1) es = es.take 31 :: groupsOf fuel (es.drop 31) := by
  rw [groupsOf, if_neg (by simpa using h)]

theorem groupsOf_nil (fuel : Nat) : groupsOf fuel [] = [] := by
  cases fuel <;> rfl

/-- With enough fuel the groups are the set, 31 entries each but the last. -/
theorem groupsOf31 {fuel : Nat} {es : List SealEntry} (h : es.length ≤ fuel) : GroupsOf31 es (groupsOf fuel es) := by
  induction fuel generalizing es with
  | zero =>
    cases List.eq_nil_of_length_eq_zero (Nat.le_zero.mp h)
    exact ⟨rfl, fun _ hx => absurd hx List.not_mem_nil, fun _ hx => absurd hx List.not_mem_nil⟩
  | succ fuel ih =>
    by_cases hne : es = []
    · rw [hne, groupsOf_nil]
      exact ⟨rfl, fun _ hx => absurd hx List.not_mem_nil, fun _ hx => absurd hx List.not_mem_nil⟩
    have hpos : 0 < es.length := List.length_pos_of_ne_nil hne
    obtain ⟨hflat, hfull, hsize⟩ := ih (es := es.drop 31) (by rw [List.length_drop]; omega)
    have htake : es.take 31 ≠ [] ∧ (es.take 31).length ≤ 31 :=
      ⟨List.ne_nil_of_length_pos (by rw [List.length_take]; omega), List.length_take_le ..⟩
    rw [groupsOf_cons hne]
    refine ⟨by rw [List.flatten_cons, hflat, List.take_append_drop], fun x hx => ?_, fun x hx => ?_⟩
    · by_cases hlast : groupsOf fuel (es.drop 31) = []
      · rw [hlast] at hx
        exact absurd hx List.not_mem_nil
      · rw [List.dropLast_cons_of_ne_nil hlast] at hx
        rcases List.mem_cons.mp hx with rfl | hx
        · have hmore : es.drop 31 ≠ [] := fun hnil => hlast (by rw [hnil, groupsOf_nil])
          have : 0 < (es.drop 31).length := List.length_pos_of_ne_nil hmore
          rw [List.length_drop] at this
          rw [List.length_take]
          omega
        · exact hfull x hx
    · rcases List.mem_cons.mp hx with rfl | hx
      · exact htake
      · exact hsize x hx

/-! ### The write segment in the set -/

section

variable {s : State} {n : Nat} {set : List SealEntry} {e : ChainEntry}

theorem closeForSeal_closes (hw : writeEntry s (streamOf s n) = some e)
    (hm : set.any (fun x => x.segment = e.segment) = true) :
    closeForSeal n set s =
      setStream n { streamOf s n with tail := .exhausted }
        (updSeg e.segment (fun g => { g with isOpen := false }) s) := by
  simp only [closeForSeal, hw, hm, if_true]

theorem closeForSeal_keeps (h : ∀ e x, writeEntry s (streamOf s n) = some e → x ∈ set → x.segment ≠ e.segment) :
    closeForSeal n set s = s := by
  cases hw : writeEntry s (streamOf s n) with
  | none => simp only [closeForSeal, hw]
  | some e =>
    have hm : set.any (fun x => x.segment = e.segment) = false := eq_false_of_ne_true fun hm => by
      obtain ⟨x, hx, he⟩ := List.any_eq_true.mp hm
      exact h e x hw hx (of_decide_eq_true he)
    simp only [closeForSeal, hw, hm, Bool.false_eq_true, if_false]

/-- The closing does nothing, or closes the write segment. -/
theorem closeForSeal_cases (n : Nat) (set : List SealEntry) (s : State) :
    (∃ e, writeEntry s (streamOf s n) = some e ∧ set.any (fun x => x.segment = e.segment) = true) ∨
      ∀ e x, writeEntry s (streamOf s n) = some e → x ∈ set → x.segment ≠ e.segment := by
  by_cases h : ∃ e, writeEntry s (streamOf s n) = some e ∧ set.any (fun x => x.segment = e.segment) = true
  · exact .inl h
  · exact .inr fun e x hw hx hxe => h ⟨e, hw, List.any_eq_true.mpr ⟨x, hx, decide_eq_true hxe⟩⟩

/-- The write segment in the set is closed, and the stream has none then. -/
theorem closeForSeal_spec (hwf : storeWf (fun _ => SegEntry.free) 0 s.segments.map = true)
    (hw : writeEntry s (streamOf s n) = some e) (hm : set.any (fun x => x.segment = e.segment) = true) :
    streamOf (closeForSeal n set s) n = { streamOf s n with tail := .exhausted } ∧
      segOf (closeForSeal n set s) e.segment = { segOf s e.segment with isOpen := false } ∧
      writeEntry (closeForSeal n set s) (streamOf (closeForSeal n set s) n) = none ∧
      (∀ m, m ≠ n → streamOf (closeForSeal n set s) m = streamOf s m) ∧
      (∀ g, g ≠ e.segment → segOf (closeForSeal n set s) g = segOf s g) ∧
      closeForSeal n set s = { s with
        streams := (closeForSeal n set s).streams
        segments := { s.segments with map := (closeForSeal n set s).segments.map } } := by
  obtain ⟨hlast, hsealed, -⟩ := writeEntry_some hw
  have hlen : n < s.streams.length := by
    refine Nat.lt_of_not_le fun hle => ?_
    have hblank : streamOf s n = Stream.blank := by
      simp [streamOf, List.getD_eq_getElem?_getD, List.getElem?_eq_none hle]
    rw [hblank] at hlast
    exact absurd hlast.symm (Option.some_ne_none e)
  have hentry : streamOf (closeForSeal n set s) n = { streamOf s n with tail := .exhausted } := by
    rw [closeForSeal_closes hw hm]
    exact (streamOf_setStream ..).trans (if_pos ⟨rfl, hlen⟩)
  have hseg : segOf (closeForSeal n set s) e.segment = { segOf s e.segment with isOpen := false } := by
    rw [closeForSeal_closes hw hm]
    exact (segOf_of rfl).trans (segOf_setSeg_self hwf)
  refine ⟨hentry, hseg, ?_, fun m hne => ?_, fun g hne => ?_, ?_⟩
  · rw [hentry]
    simp only [writeEntry, hlast, hseg, Bool.and_false, Bool.false_eq_true, if_false]
  · rw [closeForSeal_closes hw hm]
    exact (streamOf_setStream ..).trans (if_neg fun h => hne h.1.symm)
  · rw [closeForSeal_closes hw hm]
    exact (segOf_of rfl).trans (segOf_setSeg_other hne)
  · rw [closeForSeal_closes hw hm]
    rfl

/-- The closing looks at the streams and the Segment Map alone. -/
theorem closeForSeal_taken (f : CmdFrame) (c : Cmd) :
    closeForSeal n set (takenState s f c) =
      { closeForSeal n set s with sequencer := takenSequencer s f c, events := roomEvents s } := by
  rcases closeForSeal_cases n set s with ⟨e, hw, hm⟩ | hno
  · rw [closeForSeal_closes (s := takenState s f c) hw hm, closeForSeal_closes hw hm]
    rfl
  · rw [closeForSeal_keeps (s := takenState s f c) hno, closeForSeal_keeps hno]

theorem closeForSeal_rest (n : Nat) (set : List SealEntry) (s : State) :
    closeForSeal n set s = { s with
      streams := (closeForSeal n set s).streams, segments := (closeForSeal n set s).segments } := by
  rcases closeForSeal_cases n set s with ⟨e, hw, hm⟩ | hno
  · rw [closeForSeal_closes hw hm]
    rfl
  · rw [closeForSeal_keeps hno]

end

/-- A dispatch row after which the command goes on with a request, beside what `v` holds. -/
theorem goesOn_requests {i : Instr} {s v : State} {f : CmdFrame} {c : Cmd} {p : Phase} {who : Requester} {op : Op}
    (h : Dispatches s f c) (hi : rowOf c = i) (hs : v.sequencer = s.sequencer) (he : v.events = s.events)
    (hw : runOf c (newDispatched s f c) (takenState s f c) = setPhase (newDispatched s f c) p
      (State.withRequest { v with sequencer := takenSequencer s f c, events := roomEvents s } who op)) :
    GoesOn i s f c p (v.withRequest who op) := by
  have hd : v.sequencer.deferred = s.sequencer.deferred := congrArg Sequencer.deferred hs
  refine goesOn h hi hw hd he rfl rfl rfl rfl hd.symm rfl rfl ?_
  simp only [setPhase, State.withRequest, State.held, Held.taken, hs, he]
  rfl

/-! ### SEAL's own execution (R132) -/

section

variable {d : Dispatched} {s : State} {n seq : Nat}

theorem runSeal_undefined (hc : d.cmd = .sealStream n seq) (h : (streamOf s n).defn = none) :
    runSeal d s = complete d { result := .noStream } s := by
  simp [runSeal, hc, h]

theorem runSeal_refused (hc : d.cmd = .sealStream n seq) (h : (streamOf s n).defn ≠ none)
    (hs : (streamOf s n).state = .archived ∨ (streamOf s n).state = .faulted) :
    runSeal d s = complete d { result := .refusedState } s := by
  simp [runSeal, hc, h, hs]

section

variable (hc : d.cmd = .sealStream n seq) (ht : takesRecords (streamOf s n) = true)
include hc ht

theorem runSeal_badParam (h : (streamOf s n).newest < seq ∨ holdsRecord (streamOf s n) = false) :
    runSeal d s = complete d { result := .badParam } s := by
  obtain ⟨hd, hs⟩ := takesRecords_accepts ht
  have hcond : (decide ((streamOf s n).newest < seq) || !holdsRecord (streamOf s n)) = true := by simpa using h
  simp only [runSeal, hc, Option.isNone_iff_eq_none, hd, hs, hcond, if_false, if_true]

theorem runSeal_barrier (h : seq ≤ (streamOf s n).newest) (hr : holdsRecord (streamOf s n) = true) :
    runSeal d s = syncBarrier d s := by
  obtain ⟨hd, hs⟩ := takesRecords_accepts ht
  have hcond : (decide ((streamOf s n).newest < seq) || !holdsRecord (streamOf s n)) = false := by
    simpa [hr] using h
  simp only [runSeal, hc, Option.isNone_iff_eq_none, hd, hs, hcond, Bool.false_eq_true, if_false]

end

/-- The tails that a SEAL's barrier syncs: its stream's own (Table 4-5). -/
theorem barrierScope_seal (hc : d.cmd = .sealStream n seq) :
    (n ∈ pendingStreams s → barrierScope d.cmd s = [n]) ∧ (n ∉ pendingStreams s → barrierScope d.cmd s = []) := by
  rw [hc]
  have hscope : barrierScope (.sealStream n seq) s = (pendingStreams s).filter (fun x => x = n) := rfl
  have hnodup : (pendingStreams s).Nodup := List.nodup_range.filter _
  rw [hscope, List.filter_eq]
  exact ⟨fun h => by rw [List.count_eq_one_of_mem hnodup h]; rfl, fun h => by rw [List.count_eq_zero.mpr h]; rfl⟩

section

variable (hc : d.cmd = .sealStream n seq)
include hc

theorem syncBarrier_seal_waits (hn : n ∈ pendingStreams s) (hj : s.write.jobs.length = 8) :
    syncBarrier d s = setPhase d (.waitRoom 1) s := by
  have hroom : programRoom s < 1 := by unfold programRoom; omega
  unfold syncBarrier
  simp only [(barrierScope_seal hc).1 hn, List.length_singleton, hroom, if_true]

theorem syncBarrier_seal_drains (hn : n ∉ pendingStreams s) : syncBarrier d s = drainBarrier d s := by
  unfold syncBarrier
  simp only [(barrierScope_seal hc).2 hn, List.length_nil, Nat.not_lt_zero, if_false, syncTails]

theorem barrierMet_seal : barrierMet d.cmd s = !hasJobOf s n := by rw [hc]; rfl

theorem afterBarrier_seal : afterBarrier d s = sealAfterBarrier d n seq s := by unfold afterBarrier; rw [hc]

end

/-! ### SEAL after its barrier (R132 steps 3 and 4, R133) -/

theorem sealAfterBarrier_faulted (h : (streamOf s n).state = .faulted) :
    sealAfterBarrier d n seq s = complete d { result := .refusedState } s := if_pos h

section

variable (h : (streamOf s n).state ≠ .faulted)
include h

theorem sealAfterBarrier_guarded (hg : guarded s = true) :
    sealAfterBarrier d n seq s = complete d { result := .writeProtected } s := by
  simp only [sealAfterBarrier, h, hg, if_false, if_true]

variable (hg : guarded s = false)
include hg

theorem sealAfterBarrier_nothing (hs : sealSet n seq (streamOf s n) = []) :
    sealAfterBarrier d n seq s = complete d { result := .done } s := by
  simp [sealAfterBarrier, h, hg, hs]

variable (hs : sealSet n seq (streamOf s n) ≠ [])
include hs

theorem sealAfterBarrier_ledgerFull (hu : 32 < s.vault.used + ((sealSet n seq (streamOf s n)).length + 30) / 31) :
    sealAfterBarrier d n seq s = complete d { result := .ledgerFull } s := by
  have hpos : 0 < (sealSet n seq (streamOf s n)).length := List.length_pos_of_ne_nil hs
  have hfull : 32 - s.vault.used < ((sealSet n seq (streamOf s n)).length + 30) / 31 := by omega
  simp [sealAfterBarrier, h, hg, hs, hfull]

/-- The first group goes to the engine as the next ledger frame. -/
theorem sealAfterBarrier_seals (hu : s.vault.used + ((sealSet n seq (streamOf s n)).length + 30) / 31 ≤ 32) :
    sealAfterBarrier d n seq s =
      setPhase d (.sealing (groupsOf (sealSet n seq (streamOf s n)).length (sealSet n seq (streamOf s n))) 0
          (sealSet n seq (streamOf s n)).length)
        ((closeForSeal n (sealSet n seq (streamOf s n)) s).withRequest .ledger
          (.program (systemProgram .ledger 2 s.vault.used (ledgerBytes (.seals
            ((groupsOf (sealSet n seq (streamOf s n)).length (sealSet n seq (streamOf s n))).headD [])))))) := by
  have hroom : ¬ 32 - s.vault.used < ((sealSet n seq (streamOf s n)).length + 30) / 31 := by omega
  simp only [sealAfterBarrier, h, hg, List.isEmpty_iff, hs, hroom, Bool.false_eq_true, if_false]
  unfold requestLedger State.withRequest
  rw [show (setPhase d (.sealing (groupsOf (sealSet n seq (streamOf s n)).length (sealSet n seq (streamOf s n))) 0
    (sealSet n seq (streamOf s n)).length) (closeForSeal n (sealSet n seq (streamOf s n)) s)).vault.used = s.vault.used
    from congrArg SealVault.used (closeForSeal_vault ..)]
  rfl

end

end

/-- Settles O36: SEAL judges, waits for its stream's jobs, judges again and hands over the first group. -/
theorem sealJudgesAndHandsOverTheLedgerFrame : Obligations.SealJudgesAndHandsOverTheLedgerFrame := by
  refine ⟨fun s f n seq h => ?_, fun s d n seq hw hp hc => ⟨fun hj => ?_, fun hj => ?_⟩, ?_⟩
  · have hbarrier : takesRecords (streamOf s n) = true → seq ≤ (streamOf s n).newest →
        holdsRecord (streamOf s n) = true → runSeal (newDispatched s f (.sealStream n seq))
          (takenState s f (.sealStream n seq)) = syncBarrier (newDispatched s f (.sealStream n seq))
            (takenState s f (.sealStream n seq)) :=
      fun ht hs hr => runSeal_barrier (s := takenState s f (.sealStream n seq)) rfl ht hs hr
    refine ⟨fun hd => ?_, fun hd hs => ?_, fun ht hor => ?_, fun ht hs hr hn hj => ?_, fun ht hs hr hn hj => ?_,
      fun ht hs hr hn hj => ?_, fun ht hs hr hj hn p htail => ?_⟩
    · exact completes_unchanged runSeal h rfl rfl (runSeal_undefined rfl hd)
    · exact completes_unchanged runSeal h rfl rfl (runSeal_refused rfl hd hs)
    · exact completes_unchanged runSeal h rfl rfl (runSeal_badParam rfl ht hor)
    · exact goesOn_unchanged runSeal h rfl rfl ((hbarrier ht hs hr).trans
        (syncBarrier_seal_waits (d := newDispatched s f (.sealStream n seq)) rfl hn hj))
    · exact goesOn_unchanged runSeal h rfl rfl (((hbarrier ht hs hr).trans
        (syncBarrier_seal_drains (d := newDispatched s f (.sealStream n seq)) rfl hn)).trans
          (drainBarrier_waits ((barrierMet_seal rfl).trans
            (congrArg not (show hasJobOf (takenState s f (.sealStream n seq)) n = true from hj)))))
    · have hfault : (streamOf (takenState s f (.sealStream n seq)) n).state ≠ .faulted :=
        fun hf => (takesRecords_accepts ht).2 (.inr hf)
      have hrun := ((hbarrier ht hs hr).trans
        (syncBarrier_seal_drains (d := newDispatched s f (.sealStream n seq)) rfl hn)).trans
          ((drainBarrier_met ((barrierMet_seal (d := newDispatched s f (.sealStream n seq))
            (s := takenState s f (.sealStream n seq)) rfl).trans
              (congrArg not (show hasJobOf (takenState s f (.sealStream n seq)) n = false from hj)))).trans
                (afterBarrier_seal rfl))
      refine ⟨fun hg => ?_, fun hg hset => ?_, fun hg hset hu => ?_, fun hg hset hu => ?_⟩
      · exact completes_unchanged runSeal h rfl rfl (hrun.trans (sealAfterBarrier_guarded hfault hg))
      · exact completes_unchanged runSeal h rfl rfl (hrun.trans (sealAfterBarrier_nothing hfault hg hset))
      · exact completes_unchanged runSeal h rfl rfl (hrun.trans (sealAfterBarrier_ledgerFull hfault hg hset hu))
      · have hseals := hrun.trans (sealAfterBarrier_seals hfault hg hset hu)
        rw [closeForSeal_taken] at hseals
        have hrest := closeForSeal_rest n (sealSet n seq (streamOf s n)) s
        exact ⟨_, groupsOf31 (le_refl _), goesOn_requests h rfl ((congrArg State.sequencer hrest).trans rfl)
          ((congrArg State.events hrest).trans rfl) hseals⟩
    · exact goesOn h rfl ((hbarrier ht hs hr).trans
        (syncBarrier_seal (s := takenState s f (.sealStream n seq)) rfl hj hn htail))
        rfl rfl rfl rfl rfl rfl rfl rfl rfl rfl
  · exact exec_barrierEnd_waits hw hp ((barrierMet_seal hc).trans (by rw [hj]; rfl))
  · have hexec := exec_barrierEnd hw hp ((barrierMet_seal (s := s) hc).trans (by rw [hj]; rfl))
    rw [afterBarrier_seal hc] at hexec
    refine ⟨fun hf => ?_, fun hf hg => ?_, fun hf hg hs => ?_, fun hf hg hs hu => ?_, fun hf hg hs hu => ?_⟩
    · rw [sealAfterBarrier_faulted hf] at hexec
      exact ends hexec rfl rfl rfl rfl rfl rfl rfl rfl
    · rw [sealAfterBarrier_guarded hf hg] at hexec
      exact ends hexec rfl rfl rfl rfl rfl rfl rfl rfl
    · rw [sealAfterBarrier_nothing hf hg hs] at hexec
      exact ends hexec rfl rfl rfl rfl rfl rfl rfl rfl
    · rw [sealAfterBarrier_ledgerFull hf hg hs hu] at hexec
      exact ends hexec rfl rfl rfl rfl rfl rfl rfl rfl
    · rw [sealAfterBarrier_seals hf hg hs hu] at hexec
      exact ⟨_, groupsOf31 (le_refl _), continues hexec rfl rfl rfl rfl rfl rfl rfl rfl⟩
  · rintro s u n set rfl hwf
    exact ⟨fun e x hw hx hxe => closeForSeal_spec hwf hw (List.any_eq_true.mpr ⟨x, hx, decide_eq_true hxe⟩),
      closeForSeal_keeps⟩

/-! ### The end of a ledger program (R46, R47) -/

section

variable {s v : State} {p : Program} {r : ProgramResult}

/-- LEDGER_PROGRAM_END tells the DISPATCHED command of its frame. -/
theorem exec_ledgerProgramEnd (h : Performs s .ledger (.program p))
    (hv : ledgerProgrammed r.failed (programEnded p r s) = v) (hd : v.sequencer.deferred = s.sequencer.deferred) :
    exec (.ledgerProgramEnd r) s = .next (settle (choose v)) := by
  show execLedgerProgramEnd r s = _
  unfold execLedgerProgramEnd
  rw [h.inProgress]
  exact congrArg _ (endEvent_of h.awake h.clear hv (Nat.le_of_eq (congrArg _ hd)))

/-- The machine whose program has ended, its ledger frame used. -/
def State.frameUsed (s : State) (p : Program) (r : ProgramResult) : State := useLedgerFrame (programEnded p r s)

theorem frameUsed_vault (h : s.vault.used < 32) :
    (s.frameUsed p r).vault = { s.vault with used := s.vault.used + 1 } := by
  have hmin : min 32 (s.vault.used + 1) = s.vault.used + 1 := Nat.min_eq_right h
  show { s.vault with used := min 32 (s.vault.used + 1) } = _
  rw [hmin]

theorem frameUsed_vault_last (h : 31 ≤ s.vault.used) : (s.frameUsed p r).vault = { s.vault with used := 32 } := by
  have hmin : min 32 (s.vault.used + 1) = 32 := Nat.min_eq_left (by omega)
  show { s.vault with used := min 32 (s.vault.used + 1) } = _
  rw [hmin]

/-! ### A passed group (R133) -/

/-- The machine with a passed group SEALED. -/
def State.groupSealed (s : State) (n : Nat) (group : List SealEntry) : State :=
  let u := updStream n (markSealed group) (sealSegments group s)
  { u with vault := { u.vault with sealedSet := u.vault.sealedSet ++ group.map (fun x => x.segment) } }

theorem sealSegments_rest (group : List SealEntry) (s : State) :
    sealSegments group s = { s with segments := (sealSegments group s).segments } := by
  induction group generalizing s with
  | nil => rfl
  | cons x xs ih =>
    rw [sealSegments, ih]
    rfl

/-- A segment of the group is SEALED and no longer open. -/
theorem sealSegments_sealed {group : List SealEntry} {g : Nat} (h : g ∈ group.map (fun x => x.segment)) (s : State) :
    (segOf (sealSegments group s) g).state = .segSealed ∧ (segOf (sealSegments group s) g).isOpen = false := by
  have keeps : ∀ (xs : List SealEntry) (u : State),
      (segOf u g).state = .segSealed ∧ (segOf u g).isOpen = false →
      (segOf (sealSegments xs u) g).state = .segSealed ∧ (segOf (sealSegments xs u) g).isOpen = false := by
    intro xs
    induction xs with
    | nil => exact fun u hu => hu
    | cons x xs ih =>
      intro u hu
      refine ih _ ?_
      by_cases hx : g = x.segment
      · subst hx
        unfold updSeg
        rw [segOf_setSeg_listed (ne_free_of_state fun h => by cases h)]
        exact ⟨rfl, rfl⟩
      · unfold updSeg
        rw [segOf_setSeg_other hx]
        exact hu
  induction group generalizing s with
  | nil => exact absurd h List.not_mem_nil
  | cons x xs ih =>
    rcases List.mem_cons.mp h with rfl | h
    · refine keeps xs _ ?_
      unfold updSeg
      rw [segOf_setSeg_listed (ne_free_of_state fun h => by cases h)]
      exact ⟨rfl, rfl⟩
    · exact ih h _

theorem groupSealed_segments (n : Nat) (group : List SealEntry) (s : State) :
    (s.groupSealed n group).segments = (sealSegments group s).segments := rfl

theorem groupSealed_seg {n : Nat} {group : List SealEntry} {x : SealEntry} (h : x ∈ group) (s : State) :
    (segOf (s.groupSealed n group) x.segment).state = .segSealed ∧
      (segOf (s.groupSealed n group) x.segment).isOpen = false := by
  rw [segOf_of (groupSealed_segments n group s)]
  exact sealSegments_sealed (List.mem_map.mpr ⟨x, h, rfl⟩) s

/-- The entries of the group are SEALED in the chain. -/
theorem groupSealed_chain {n : Nat} {group : List SealEntry} (s : State) :
    ∀ e ∈ (streamOf (s.groupSealed n group) n).chain, group.any (fun x => x.segment = e.segment) = true →
      e.isSealed = true := by
  intro e he hg
  have hof : streamOf (s.groupSealed n group) n =
      if n < s.streams.length then markSealed group (streamOf s n) else streamOf s n := by
    have hrest := sealSegments_rest group s
    have hstreams : streamOf (sealSegments group s) n = streamOf s n := by rw [hrest]; rfl
    have hlen : (sealSegments group s).streams.length = s.streams.length := by rw [hrest]
    refine (streamOf_setStream ..).trans ?_
    rw [hstreams, hlen]
    simp only [true_and]
  rw [hof] at he
  split at he
  · obtain ⟨x, hx, hxe⟩ := List.mem_map.mp he
    by_cases hany : group.any (fun y => y.segment = x.segment) = true
    · rw [if_pos hany] at hxe
      rw [← hxe]
    · rw [if_neg hany] at hxe
      rw [← hxe] at hg
      exact absurd hg hany
  · rename_i hn
    have hblank : streamOf s n = Stream.blank := by
      simp [streamOf, List.getD_eq_getElem?_getD, List.getElem?_eq_none (Nat.le_of_not_lt hn)]
    rw [hblank] at he
    exact absurd he List.not_mem_nil

theorem groupSealed_rest (n : Nat) (group : List SealEntry) (s : State) :
    s.groupSealed n group = { s with
      segments := (s.groupSealed n group).segments
      streams := (s.groupSealed n group).streams
      vault := { s.vault with sealedSet := s.vault.sealedSet ++ group.map (fun x => x.segment) } } := by
  unfold State.groupSealed updStream setStream
  rw [sealSegments_rest]

end

/-! ### The DISPATCHED command's part (R133, R138) -/

section

variable {d : Dispatched} {s : State} {n programmed total : Nat} {group : List SealEntry}
  {rest : List (List SealEntry)}

theorem sealProgrammed_again (hu : (useLedgerFrame s).vault.used < 32) :
    sealProgrammed d n (group :: rest) programmed total true s =
      setPhase d (.sealing (group :: rest) (programmed + 1) total) ((useLedgerFrame s).withRequest .ledger
        (.program (systemProgram .ledger 2 (useLedgerFrame s).vault.used (ledgerBytes (.seals group))))) := by
  simp only [sealProgrammed, if_true, if_pos hu]
  rfl

theorem sealProgrammed_stops (hu : ¬ (useLedgerFrame s).vault.used < 32) :
    sealProgrammed d n (group :: rest) programmed total true s =
      complete d { result := .medium } (useLedgerFrame s) := by
  simp only [sealProgrammed, if_true, if_neg hu]

theorem sealProgrammed_done :
    sealProgrammed d n [group] programmed total false s =
      complete d { result := .done, value := total, aux := programmed + 1 }
        ((useLedgerFrame s).groupSealed n group) := by
  simp only [sealProgrammed, Bool.false_eq_true, if_false]
  rfl

theorem groupSealed_used (n : Nat) (group : List SealEntry) (s : State) :
    (s.groupSealed n group).vault.used = s.vault.used := by rw [groupSealed_rest]

/-- After a passed group the next one follows, where a frame is left for it. -/
theorem sealProgrammed_next {next : List SealEntry} :
    sealProgrammed d n (group :: next :: rest) programmed total false s =
      if (useLedgerFrame s).vault.used < 32 then
        setPhase d (.sealing (next :: rest) (programmed + 1) total)
          (((useLedgerFrame s).groupSealed n group).withRequest .ledger
            (.program (systemProgram .ledger 2 (useLedgerFrame s).vault.used (ledgerBytes (.seals next)))))
      else complete d { result := .medium } ((useLedgerFrame s).groupSealed n group) := by
  rw [← groupSealed_used n group (useLedgerFrame s)]
  simp only [sealProgrammed, Bool.false_eq_true, if_false]
  rfl

theorem closingProgrammed_done :
    closingProgrammed d false s = complete d { result := .done, value := s.vault.used }
      { useLedgerFrame s with vault := { (useLedgerFrame s).vault with closed := true } } := rfl

theorem closingProgrammed_fails :
    closingProgrammed d true s =
      if (useLedgerFrame s).vault.used < 32 then
        setPhase d .closing ((useLedgerFrame s).withRequest .ledger
          (.program (systemProgram .ledger 2 (useLedgerFrame s).vault.used (ledgerBytes .closing))))
      else complete d { result := .medium } (useLedgerFrame s) := rfl

end

/-! ### The row's end -/

/-- The event of a ledger program's end, whose command goes on with the next frame. -/
structure LedgerGoesOn (s t : State) (d : Dispatched) (phase : Phase) (op : Op) (u : State) : Prop where
  dispatched : t.sequencer.dispatched = some { d with phase := phase }
  asked : Asked t { who := .ledger, op := op }
  held : t.held = { u.held with dispatched := some { d with phase := phase } }

/-- The event of a ledger program's end, whose command completes. -/
structure LedgerEnds (s t : State) (d : Dispatched) (o : Outcome) (u : State) : Prop where
  dispatched : t.sequencer.dispatched = none
  posted : Posts s t (completionOf d.tag d.opcode (cmdDetail d.cmd) d.abortLate o)
  held : t.held = { u.held with dispatched := none }
  entries : ∀ n, SameEntry (streamOf u n) (streamOf t n)

section

variable {s u : State} {d : Dispatched} {p : Program} {r : ProgramResult} (h : Performs s .ledger (.program p))
include h

theorem ledger_goesOn {phase : Phase} {op : Op} (hd : u.sequencer.deferred = s.sequencer.deferred)
    (hv : ledgerProgrammed r.failed (programEnded p r s) = setPhase d phase (u.withRequest .ledger op)) :
    ∃ t, exec (.ledgerProgramEnd r) s = .next t ∧ LedgerGoesOn s t d phase op u := by
  have hc := close_spec (setPhase d phase (u.withRequest .ledger op))
  exact ⟨_, exec_ledgerProgramEnd h hv hd, congrArg Held.dispatched hc.held, hc.asked _ rfl, hc.held⟩

theorem ledger_ends {o : Outcome} (hd : u.sequencer.deferred = s.sequencer.deferred) (hcpl : u.cpl = s.cpl)
    (hv : ledgerProgrammed r.failed (programEnded p r s) = complete d o u) :
    ∃ t, exec (.ledgerProgramEnd r) s = .next t ∧ LedgerEnds s t d o u := by
  obtain ⟨hposts, hheld, -, hentries, -, -⟩ := close_complete d o s u (congrArg CompletionQueue.records hcpl)
  exact ⟨_, exec_ledgerProgramEnd h hv ((complete_work d o u).2.2.trans hd), congrArg Held.dispatched hheld, hposts,
    hheld, hentries⟩

end

/-- What the rest of the machine is after a ledger program's end: the medium and the two result flags alone differ. -/
theorem frameUsed_groupSealed_rest (s : State) (p : Program) (r : ProgramResult) (n : Nat) (group : List SealEntry) :
    ((s.frameUsed p r).groupSealed n group).sequencer.deferred = s.sequencer.deferred ∧
      ((s.frameUsed p r).groupSealed n group).cpl = s.cpl ∧
      ((s.frameUsed p r).groupSealed n group).medium = s.medium.endProgram p r ∧
      ((s.frameUsed p r).groupSealed n group).vault = { (s.frameUsed p r).vault with
        sealedSet := s.vault.sealedSet ++ group.map (fun x => x.segment) } := by
  rw [groupSealed_rest]
  exact ⟨rfl, rfl, rfl, rfl⟩

theorem ledgerProgrammed_sealing {s : State} {d : Dispatched} {n seq programmed total : Nat}
    {groups : List (List SealEntry)} {failed : Bool} (hd : s.sequencer.dispatched = some d)
    (hp : d.phase = .sealing groups programmed total) (hc : d.cmd = .sealStream n seq) :
    ledgerProgrammed failed s = sealProgrammed d n groups programmed total failed s := by
  simp only [ledgerProgrammed, hd, hp, hc]

theorem ledgerProgrammed_closing {s : State} {d : Dispatched} {failed : Bool} (hd : s.sequencer.dispatched = some d)
    (hp : d.phase = .closing) : ledgerProgrammed failed s = closingProgrammed d failed s := by
  simp only [ledgerProgrammed, hd, hp]

theorem SameEntry.chain {a b : Stream} (h : SameEntry a b) : b.chain = a.chain := by
  unfold SameEntry at h
  rw [h]

/-- Settles O37: a frame that failed or passed is used; the command goes on, completes, or stops for want of a frame. -/
theorem ledgerProgramsSealOrClose : Obligations.LedgerProgramsSealOrClose := by
  refine ⟨fun s d p r n seq group rest programmed total h hd hp hc => ?_, fun s d p r h hd hp => ?_⟩
  · have hrun : ∀ failed, ledgerProgrammed failed (programEnded p r s) =
        sealProgrammed d n (group :: rest) programmed total failed (programEnded p r s) :=
      fun failed => ledgerProgrammed_sealing (s := programEnded p r s) hd hp hc
    refine ⟨fun hf hu => ?_, fun hf hu => ?_, ?_, ?_, ?_⟩
    · have hvault := frameUsed_vault (s := s) (p := p) (r := r) (by omega)
      have hv := (hrun true).trans (sealProgrammed_again (by
        show (s.frameUsed p r).vault.used < 32
        rw [hvault]
        exact Nat.succ_lt_succ hu))
      rw [show (useLedgerFrame (programEnded p r s)).vault.used = s.vault.used + 1 from congrArg SealVault.used hvault,
        ← hf] at hv
      obtain ⟨t, hexec, ht⟩ := ledger_goesOn h (u := s.frameUsed p r) rfl hv
      refine ⟨t, hexec, ht.dispatched, ht.asked, (congrArg Held.vault ht.held).trans hvault,
        congrArg Held.medium ht.held, (congrArg Held.lastFail ht.held).trans hf, congrArg Held.prevFail ht.held⟩
    · have hvault := frameUsed_vault_last (s := s) (p := p) (r := r) hu
      have hv := (hrun true).trans (sealProgrammed_stops (by
        show ¬ (s.frameUsed p r).vault.used < 32
        rw [hvault]
        exact Nat.lt_irrefl 32))
      rw [← hf] at hv
      obtain ⟨t, hexec, ht⟩ := ledger_ends h (u := s.frameUsed p r) rfl rfl hv
      exact ⟨t, hexec, ht.dispatched, ht.posted, (congrArg Held.vault ht.held).trans hvault,
        congrArg Held.medium ht.held⟩
    · rintro rfl rfl hu
      have hvault := frameUsed_vault (s := s) (p := p) (r := .pass) hu
      obtain ⟨hdef, hcpl, hmed, hvault'⟩ := frameUsed_groupSealed_rest s p .pass n group
      obtain ⟨t, hexec, ht⟩ := ledger_ends h (u := (s.frameUsed p .pass).groupSealed n group) hdef hcpl
        ((hrun false).trans sealProgrammed_done)
      have hseg : ∀ g, segOf t g = segOf ((s.frameUsed p .pass).groupSealed n group) g :=
        fun g => segOf_of (congrArg Held.segments ht.held)
      refine ⟨t, hexec, ht.dispatched, ht.posted, (congrArg Held.vault ht.held).trans ?_, fun x hx => ?_, ?_,
        (congrArg Held.medium ht.held).trans hmed⟩
      · rw [show ({ ((s.frameUsed p .pass).groupSealed n group).held with dispatched := none } : Held).vault =
          ((s.frameUsed p .pass).groupSealed n group).vault from rfl, hvault', hvault]
      · rw [hseg]
        exact groupSealed_seg hx _
      · rw [(ht.entries n).chain]
        exact groupSealed_chain _
    · rintro next more rfl rfl hu
      have hvault := frameUsed_vault (s := s) (p := p) (r := .pass) (by omega)
      have hused : (useLedgerFrame (programEnded p .pass s)).vault.used = s.vault.used + 1 :=
        congrArg SealVault.used hvault
      obtain ⟨hdef, hcpl, hmed, hvault'⟩ := frameUsed_groupSealed_rest s p .pass n group
      have hv := (hrun false).trans (sealProgrammed_next.trans (if_pos (by rw [hused]; omega)))
      rw [hused] at hv
      obtain ⟨t, hexec, ht⟩ := ledger_goesOn h (u := (s.frameUsed p .pass).groupSealed n group) hdef hv
      have hseg : ∀ g, segOf t g = segOf ((s.frameUsed p .pass).groupSealed n group) g :=
        fun g => segOf_of (congrArg Held.segments ht.held)
      refine ⟨t, hexec, ht.dispatched, ht.asked, (congrArg Held.vault ht.held).trans (hvault'.trans ?_),
        fun x hx => ?_, (congrArg Held.medium ht.held).trans hmed⟩
      · rw [hvault]
      · rw [hseg]
        exact (groupSealed_seg hx _).1
    · rintro rfl hne hu
      obtain ⟨next, more, rfl⟩ := List.exists_cons_of_ne_nil hne
      have hvault := frameUsed_vault_last (s := s) (p := p) (r := .pass) hu
      have hused : (useLedgerFrame (programEnded p .pass s)).vault.used = 32 := congrArg SealVault.used hvault
      obtain ⟨hdef, hcpl, hmed, hvault'⟩ := frameUsed_groupSealed_rest s p .pass n group
      have hv := (hrun false).trans (sealProgrammed_next.trans (if_neg (by rw [hused]; omega)))
      obtain ⟨t, hexec, ht⟩ := ledger_ends h (u := (s.frameUsed p .pass).groupSealed n group) hdef hcpl hv
      have hseg : ∀ g, segOf t g = segOf ((s.frameUsed p .pass).groupSealed n group) g :=
        fun g => segOf_of (congrArg Held.segments ht.held)
      refine ⟨t, hexec, ht.dispatched, ht.posted, (congrArg Held.vault ht.held).trans (hvault'.trans ?_),
        fun x hx => ?_, (congrArg Held.medium ht.held).trans hmed⟩
      · rw [hvault]
      · rw [hseg]
        exact (groupSealed_seg hx _).1
  · have hrun : ∀ failed, ledgerProgrammed failed (programEnded p r s) =
        closingProgrammed d failed (programEnded p r s) :=
      fun failed => ledgerProgrammed_closing (s := programEnded p r s) hd hp
    refine ⟨?_, fun hf hu => ?_, fun hf hu => ?_⟩
    · rintro rfl hu
      have hvault := frameUsed_vault (s := s) (p := p) (r := .pass) hu
      obtain ⟨t, hexec, ht⟩ := ledger_ends h
        (u := { s.frameUsed p .pass with vault := { (s.frameUsed p .pass).vault with closed := true } }) rfl rfl
        ((hrun false).trans closingProgrammed_done)
      refine ⟨t, hexec, ht.dispatched, ht.posted, (congrArg Held.vault ht.held).trans ?_, congrArg Held.medium ht.held⟩
      show { (s.frameUsed p .pass).vault with closed := true } = _
      rw [hvault]
    · have hvault := frameUsed_vault (s := s) (p := p) (r := r) (by omega)
      have hused : (useLedgerFrame (programEnded p r s)).vault.used = s.vault.used + 1 :=
        congrArg SealVault.used hvault
      have hv := (hrun true).trans (closingProgrammed_fails.trans (if_pos (by rw [hused]; omega)))
      rw [hused, ← hf] at hv
      obtain ⟨t, hexec, ht⟩ := ledger_goesOn h (u := s.frameUsed p r) rfl hv
      exact ⟨t, hexec, ht.dispatched, ht.asked, (congrArg Held.vault ht.held).trans hvault⟩
    · have hvault := frameUsed_vault_last (s := s) (p := p) (r := r) hu
      have hused : (useLedgerFrame (programEnded p r s)).vault.used = 32 := congrArg SealVault.used hvault
      have hv := (hrun true).trans (closingProgrammed_fails.trans (if_neg (by rw [hused]; omega)))
      rw [← hf] at hv
      obtain ⟨t, hexec, ht⟩ := ledger_ends h (u := s.frameUsed p r) rfl rfl hv
      exact ⟨t, hexec, ht.dispatched, ht.posted, (congrArg Held.vault ht.held).trans hvault⟩

end Sys2Proof.Machine

/-!
PROOFS. A portion programmed into an erased frame, read back (R48 to R53, R118): its bytes, its margin, and the class of
the READ.
-/

namespace Sys2Proof.Machine

open Sys2Proof

/-! ### The bytes and the margin after the program -/

section

variable {m : Medium} {p : Program}

theorem Medium.bytes_eq_of {m : Medium} {seg frame lo hi : Nat} {bs : List Byte} (hl : bs.length = hi - lo)
    (h : ∀ i (hi : i < bs.length), m.byte (Config.address seg frame (lo + i)) = bs[i]) :
    m.bytes seg frame lo hi = bs := by
  refine List.ext_getElem (by simp [Medium.bytes, hl]) fun i hi' hj => ?_
  simp only [Medium.bytes, List.getElem_map, List.getElem_range', Nat.one_mul]
  exact h i hj

theorem Medium.bytes_congr {m m' : Medium} {seg frame lo hi : Nat}
    (h : ∀ o, lo ≤ o → o < hi → m'.byte (Config.address seg frame o) = m.byte (Config.address seg frame o)) :
    m'.bytes seg frame lo hi = m.bytes seg frame lo hi := by
  refine List.map_congr_left fun o ho => ?_
  obtain ⟨hlo, hhi⟩ := List.mem_range'_1.mp ho
  exact h o hlo (by omega)

theorem Medium.bytes_length (m : Medium) (seg frame lo hi : Nat) : (m.bytes seg frame lo hi).length = hi - lo := by
  simp [Medium.bytes]

theorem Medium.bytes_drop (m : Medium) (seg frame k hi : Nat) :
    (m.bytes seg frame 0 hi).drop k = m.bytes seg frame k hi := by
  unfold Medium.bytes
  rw [← List.map_drop, List.drop_range', Nat.mul_one, Nat.zero_add, Nat.sub_zero]

/-- A portion that starts the frame reads as it was programmed. -/
theorem programmed_bytes (hw : m.wf = true) (hlo : p.lo = 0) (hhi : p.hi ≤ 512) (hl : p.bytes.length = p.hi) :
    (m.endProgram p .pass).bytes p.segment p.frame 0 p.hi = p.bytes := by
  refine Medium.bytes_eq_of hl fun i hi => ?_
  have h := Medium.byte_portion_self hw p p.bytes (some (programEntry p true)) p.label hi (by omega) hhi
  have ha : Config.address p.segment p.frame 0 + i = Config.address p.segment p.frame i := by
    unfold Config.address
    omega
  rw [hlo, ha] at h
  rw [Nat.zero_add]
  exact h

/-- What lies in the frame behind it is as it was. -/
theorem programmed_bytes_beyond (hlo : p.lo = 0) :
    (m.endProgram p .pass).bytes p.segment p.frame p.hi 512 = m.bytes p.segment p.frame p.hi 512 := by
  refine Medium.bytes_congr fun o ho _ => Medium.byte_portion_other p _ _ _ (.inr ?_)
  simp only [Config.address, hlo]
  omega

/-- The margin of an erased frame after its portion 0. -/
theorem programmed_margin (hw : m.wf = true) (hp : p.portion = 0) (hm : m.margin p.segment p.frame = erasedMargin) :
    (m.endProgram p .pass).margin p.segment p.frame = { label := p.label, entries := [programEntry p true] } := by
  unfold Medium.endProgram Medium.portion
  rw [hm, hp]
  exact storeGet_storePut_self ((Medium.wf_iff _).mp (Medium.wf_write hw ..)).2

end

/-! ### The READ -/

theorem worse_clean (g : Grade) : worse .clean g = g := by cases g <;> rfl

/-- The class of a READ of a frame with one portion. -/
theorem rangeGrade_one (q : PortionRead) (lo hi : Nat) (hq : q.lo = 0) :
    rangeGrade [q] false lo hi = if lo < q.hi ∧ 0 < hi then q.grade else .clean := by
  simp only [rangeGrade, Bool.false_and, Bool.false_eq_true, if_false, List.foldl_cons, List.foldl_nil, hq, worse_clean,
    and_comm (a := 0 < hi)]

/-- Noise that counts errors in portion 0, or fails its check code, and nothing else. -/
structure OnlyErrors (noise : ReadNoise) (errors : Nat) (fails : Bool) : Prop where
  first : noise.portions.getD 0 noNoise = { noNoise with errors := errors, checkFails := fails }
  second : noise.portions.getD 1 noNoise = noNoise
  label : noise.labelZeroBits = none ∧ noise.labelCheckFails = false ∧ noise.labelAsRead = none

theorem onlyErrors_quiet : OnlyErrors quiet 0 false := ⟨rfl, rfl, rfl, rfl, rfl⟩

theorem onlyErrors_of (errors : Nat) (fails : Bool) (data : List Byte) :
    OnlyErrors { quiet with portions := [{ noNoise with errors := errors, checkFails := fails }], data := data } errors
      fails := ⟨rfl, rfl, rfl, rfl, rfl⟩

/-- An erased frame reads erased. -/
theorem readFrame_erased {m : Medium} {seg frame lo hi : Nat} (hm : m.margin seg frame = erasedMargin) :
    frameErased (readFrame m seg frame lo hi quiet) = true := by
  have hb : bitsProgrammed false none = false := rfl
  simp [frameErased, readFrame, readLabel, hm, erasedMargin, quiet, noNoise, hb]

section

variable {m : Medium} {p : Program} {noise : ReadNoise} {errors : Nat} {fails : Bool}
  (hm : m.margin p.segment p.frame = { label := p.label, entries := [programEntry p true] })
  (hn : OnlyErrors noise errors fails)
include hm hn

/-- The one portion as it is read: its bytes where the errors were corrected, else the raw ones. -/
theorem readPortions_one (hpos : 0 < p.hi) (hhi : p.hi ≤ 512) :
    readPortions m p.segment p.frame noise 4 0 0 =
      ([{ lo := 0, hi := p.hi, grade := gradeOf false errors fails, damaged := p.damaged, pad := p.pad,
          bytes := if gradeOf false errors fails = .broken then rawBytes m p.segment p.frame noise 0 p.hi
            else m.bytes p.segment p.frame 0 p.hi }], false) := by
  have hyes : bitsProgrammed true none = true := rfl
  have hno : bitsProgrammed false none = false := rfl
  have hrest : readPortions m p.segment p.frame noise 3 1 p.hi = ([], false) := by
    simp only [readPortions, hm, hn.second]
    exact if_neg (by simp [hno, noNoise])
  have hcontent : portionContent m p.segment p.frame 0 (some (programEntry p true))
      { noNoise with errors := errors, checkFails := fails } (rawBytes m p.segment p.frame noise 0) =
        { endOffset := p.hi, damaged := p.damaged, pad := p.pad
          bytes := if gradeOf false errors fails = .broken then rawBytes m p.segment p.frame noise 0 p.hi
            else m.bytes p.segment p.frame 0 p.hi } := by
    simp only [portionContent, portionGrade, programEntry, noNoise, Bool.not_true, Option.getD_none,
      Bool.false_eq_true, if_false]
    split <;> rfl
  rw [readPortions]
  simp only [hm, hn.first, List.getElem?_cons_zero, hcontent, hpos, hhi, hrest, and_self, if_true]
  exact if_pos hyes

/-- The label is valid where the portion is not BROKEN (R118). -/
theorem readLabel_one {l : Label} {ps : List PortionRead} (hl : p.label = some l) (hc : l.checkGood = true)
    (hf : l.frameIndex = p.frame) :
    (firstGrade ps ≠ .broken → readLabel m p.segment p.frame noise ps = .valid l) ∧
      (firstGrade ps = .broken → ∀ x, readLabel m p.segment p.frame noise ps ≠ .valid x) := by
  obtain ⟨hz, hk, ha⟩ := hn.label
  refine ⟨fun hg => ?_, fun hg x hx => (readLabel_valid hx).1 hg⟩
  have hyes : bitsProgrammed true none = true := rfl
  have hunseen : (noise.portions.getD 0 noNoise).unseen = false := by rw [hn.first]; rfl
  simp only [readLabel, hm, hl, hz, hk, hunseen, hg, hc, hf, Option.isSome_some, hyes, ne_eq, not_false_eq_true,
    decide_true, Bool.not_false, Bool.and_self, and_self, if_true]
  rw [← hc, ← hf]

theorem readFrame_one {l : Label} {lo hi : Nat} (hpos : 0 < p.hi) (hhi : p.hi ≤ 512) (hl : p.label = some l)
    (hc : l.checkGood = true) (hf : l.frameIndex = p.frame) {q : PortionRead}
    (hq : q = { lo := 0, hi := p.hi, grade := gradeOf false errors fails, damaged := p.damaged, pad := p.pad,
                bytes := if gradeOf false errors fails = .broken then rawBytes m p.segment p.frame noise 0 p.hi
                  else m.bytes p.segment p.frame 0 p.hi }) :
    (readFrame m p.segment p.frame lo hi noise).portions = [q] ∧
      (readFrame m p.segment p.frame lo hi noise).implausible = false ∧
      (readFrame m p.segment p.frame lo hi noise).entryZero = true ∧
      (readFrame m p.segment p.frame lo hi noise).grade =
        (if lo < p.hi ∧ 0 < hi then gradeOf false errors fails else .clean) ∧
      (readFrame m p.segment p.frame lo hi noise).bytes =
        ((q.bytes ++ rawBytes m p.segment p.frame noise p.hi 512).take hi).drop lo ∧
      (gradeOf false errors fails ≠ .broken → (readFrame m p.segment p.frame lo hi noise).label = .valid l) ∧
      (gradeOf false errors fails = .broken → ∀ x, (readFrame m p.segment p.frame lo hi noise).label ≠ .valid x) := by
  have hps : readPortions m p.segment p.frame noise 4 0 0 = ([q], false) := by
    rw [readPortions_one hm hn hpos hhi, hq]
  have hlo : q.lo = 0 := by rw [hq]
  have hend : q.hi = p.hi := by rw [hq]
  have hgrade : q.grade = gradeOf false errors fails := by rw [hq]
  have hlabel := readLabel_one (ps := [q]) hm hn hl hc hf
  refine ⟨by simp [hps], by simp [hps], ?_, ?_, ?_, fun hg => ?_, fun hg => ?_⟩
  · have hyes : bitsProgrammed true none = true := rfl
    simp only [readFrame, hm, hn.first]
    exact hyes
  · simp only [readFrame, hps, rangeGrade_one q lo hi hlo, hend, hgrade]
  · simp only [readFrame, hps, portionsBytes, portionsEnd, List.flatMap_cons, List.flatMap_nil, List.append_nil,
      List.foldl_cons, List.foldl_nil, hend]
  · simp only [readFrame, hps]
    exact hlabel.1 (by rw [← hgrade] at hg; exact hg)
  · simp only [readFrame, hps]
    exact hlabel.2 (by rw [← hgrade] at hg; exact hg)

end

/-- The raw bytes of a frame of which nothing was read over. -/
theorem rawBytes_stored (m : Medium) (seg frame k : Nat) :
    rawBytes m seg frame quiet k 512 = m.bytes seg frame k 512 := by
  have hlen := m.bytes_length seg frame 0 512
  unfold rawBytes
  rw [show quiet.data ++ m.bytes seg frame quiet.data.length 512 = m.bytes seg frame 0 512 from rfl,
    List.take_of_length_le (by omega), Medium.bytes_drop]

/-- The raw bytes of a frame read over whole. -/
theorem rawBytes_data {m : Medium} {noise : ReadNoise} (hd : noise.data.length = 512) (seg frame : Nat) {lo hi : Nat}
    (hhi : hi ≤ 512) : rawBytes m seg frame noise lo hi = (noise.data.take hi).drop lo := by
  unfold rawBytes
  rw [List.take_append_of_le_length (by omega)]

/-- Settles O28: the margin and the bytes the program left are those the READ finds. -/
theorem programmedPortionReadsBack : Obligations.ProgrammedPortionReadsBack := by
  intro m p l lo hi hw hp hlo hpos hhi hlen hl hc hf herased
  have hmargin := programmed_margin hw hp herased
  have hbytes := programmed_bytes hw hlo hhi hlen
  refine ⟨readFrame_erased herased, ?_, fun errors fails data f hread => ?_⟩
  · obtain ⟨hps, himp, hzero, hgrade, hb, hlabel, -⟩ :=
      readFrame_one (lo := lo) (hi := hi) hmargin onlyErrors_quiet hpos hhi hl hc hf rfl
    have hclean : gradeOf false 0 false = .clean := rfl
    have hne : ¬ Grade.clean = .broken := by decide
    rw [hclean, if_neg hne, hbytes] at hps hb
    rw [hclean, ite_self] at hgrade
    rw [rawBytes_stored, programmed_bytes_beyond hlo] at hb
    have hlabel := hlabel (by decide)
    revert hps himp hzero hgrade hb hlabel
    cases readFrame (m.endProgram p .pass) p.segment p.frame lo hi quiet
    rintro rfl rfl rfl rfl rfl rfl
    rfl
  · obtain ⟨hps, -, -, hgrade, hb, hlabel, hbroken⟩ :=
      readFrame_one (lo := lo) (hi := hi) hmargin (onlyErrors_of errors fails data) hpos hhi hl hc hf rfl
    rw [← hread] at hps hgrade hb hlabel hbroken
    refine ⟨?_, fun hor hd => ?_⟩
    · rintro rfl he g rfl
      have hgr : gradeOf false errors false =
          if errors = 0 then Grade.clean else if errors ≤ 2 then .minor else .major :=
        if_neg (by simpa using he)
      have hne : gradeOf false errors false ≠ .broken := by
        rw [hgr]
        split
        · decide
        · split <;> decide
      rw [if_neg hne, hbytes, hgr] at hps
      exact ⟨hlabel hne, hgrade.trans (by rw [hgr]), hps⟩
    · have hgr : gradeOf false errors fails = .broken := if_pos (by simpa using hor)
      rw [if_pos hgr] at hps hb
      rw [rawBytes_data hd _ _ hhi] at hps hb
      rw [rawBytes_data hd _ _ (le_refl 512), List.take_of_length_le (le_of_eq hd), List.drop_zero,
        List.take_append_drop] at hb
      rw [hgr, List.drop_zero] at hps
      exact ⟨hbroken hgr, hgrade.trans (by rw [hgr]), hb, hps⟩

end Sys2Proof.Machine

/-!
PROOFS. The end of a program job (R60, R105): what the release of the deferred commands posts, and the job that leaves
the queue or begins a relocation.
-/

namespace Sys2Proof.Machine

open Sys2Proof

/-! ### The deferred commands that no job names any more -/

/-- The Program Queue and the deferred commands are as they were. -/
def SameJobs (s t : State) : Prop := t.write.jobs = s.write.jobs ∧ t.sequencer.deferred = s.sequencer.deferred

section

variable {s t u : State}

theorem SameJobs.refl (s : State) : SameJobs s s := ⟨rfl, rfl⟩

theorem SameJobs.trans (h : SameJobs s t) (k : SameJobs t u) : SameJobs s u := ⟨k.1.trans h.1, k.2.trans h.2⟩

theorem SameWork.jobs (h : SameWork s t) : SameJobs s t := h.2

theorem enterFull_jobs (n : Nat) (r : FullReason) (s : State) : SameJobs s (enterFull n r s) := by
  unfold enterFull
  dsimp only
  split
  · exact .refl s
  · have hset : SameJobs s (setStream n { streamOf s n with state := .full r } s) := ⟨rfl, rfl⟩
    exact (hset.trans (raise_work ..).jobs).trans (addNotice_work ..).jobs

theorem postDeferred_jobs (d : Deferred) (s : State) : SameJobs s (postDeferred d s) := by
  have hp : ∀ k c, SameJobs s (postRecord k c s) := fun k c => (postRecord_work k c s).jobs
  unfold postDeferred
  dsimp only
  split
  · split
    · exact (hp ..).trans (enterFull_jobs ..)
    · exact hp ..
  · exact hp ..
  · exact hp ..

theorem postAll_jobs (ds : List Deferred) (s : State) : SameJobs s (postAll ds s) := by
  induction ds generalizing s with
  | nil => exact .refl s
  | cons d ds ih => exact (postDeferred_jobs d s).trans (ih _)

/-- What a deferred command posts, in the state its jobs have left. -/
def deferredCompletion (s : State) (d : Deferred) : Completion :=
  completionOf d.tag d.opcode (deferredDetail d.kind) d.abortLate (deferredOutcome s d)

theorem SameEntry.durable {a b : Stream} (h : SameEntry a b) : b.durable = a.durable := by
  unfold SameEntry at h
  rw [h]

theorem deferredCompletion_of (h : ∀ n, (streamOf t n).durable = (streamOf s n).durable) (d : Deferred) :
    deferredCompletion t d = deferredCompletion s d := by
  unfold deferredCompletion deferredOutcome
  cases d.kind with
  | commit n seq => simp only [h n]
  | sync k => rfl
  | vaultWrite k => rfl

theorem postDeferred_posts (d : Deferred) (s : State) :
    (d.id + 1, deferredCompletion s d) ∈ (postDeferred d s).cpl.fresh := by
  have hp := postRecord_fresh (d.id + 1) (deferredCompletion s d) s
  unfold postDeferred
  dsimp only
  split
  · split
    · exact (enterFull_posting ..).1.completions.subset hp
    · exact hp
  · exact hp
  · exact hp

theorem postAll_posts {ds : List Deferred} {d : Deferred} (h : d ∈ ds) (s : State) :
    (d.id + 1, deferredCompletion s d) ∈ (postAll ds s).cpl.fresh := by
  induction ds generalizing s with
  | nil => exact absurd h List.not_mem_nil
  | cons x ds ih =>
    rcases List.mem_cons.mp h with rfl | hd
    · exact (postAll_posting ds _).1.completions.subset (postDeferred_posts d s)
    · rw [← deferredCompletion_of fun n => ((postDeferred_posting x s).1.entries n).durable]
      exact ih hd _

/-- The deferred commands that a job still names stay. -/
theorem releaseDeferred_jobs (s : State) : (releaseDeferred s).write.jobs = s.write.jobs ∧
    (releaseDeferred s).sequencer.deferred = s.sequencer.deferred.filter (fun d => stillNamed s d.id) :=
  postAll_jobs _ { s with sequencer :=
    { s.sequencer with deferred := s.sequencer.deferred.filter (fun d => stillNamed s d.id) } }

/-- A deferred command that no job names any more posts (R31). -/
theorem releaseDeferred_posts {d : Deferred} (h : d ∈ s.sequencer.deferred) (hn : stillNamed s d.id = false) :
    (d.id + 1, deferredCompletion s d) ∈ (releaseDeferred s).cpl.fresh :=
  postAll_posts (List.mem_filter.mpr ⟨h, by rw [hn]; rfl⟩) { s with sequencer :=
    { s.sequencer with deferred := s.sequencer.deferred.filter (fun d => stillNamed s d.id) } }

end

/-- An event that has ended in `t` with the release of the deferred commands that the jobs of `u` no longer name, with
which the head job is not locked. -/
structure Releases (u t : State) : Prop where
  held : t.held = u.held
  jobs : t.write.jobs = u.write.jobs
  deferred : t.sequencer.deferred = u.sequencer.deferred.filter (fun d => stillNamed u d.id)
  entries : ∀ n, SameEntry (streamOf u n) (streamOf t n)
  posts : ∀ d ∈ u.sequencer.deferred, stillNamed u d.id = false → Posts u t (deferredCompletion u d)

theorem noLockedHead_of {s t : State} (hg : t.guard = s.guard) (hj : t.write.jobs = s.write.jobs) (h : NoLockedHead s) :
    NoLockedHead t := by
  intro j hm
  rw [hj] at hm
  have hl : locked t j.segment = locked s j.segment := by unfold locked; rw [hg]
  exact hl.trans (h j hm)

theorem releases {u : State} (hu : NoLockedHead u) : Releases u (settle (choose (releaseDeferred u))) := by
  have hp := (releaseDeferred_posting u).1
  have hc := close_spec (releaseDeferred u)
  obtain ⟨hjobs, hdef⟩ := releaseDeferred_jobs u
  have hw := hc.work (noLockedHead_of (failing_releaseDeferred u).guard hjobs hu)
  exact ⟨hc.held.trans hp.held, hw.2.1.trans hjobs, hw.2.2.trans hdef, fun n => (hp.entries n).trans (hc.entries n),
    fun d hd hn => posts_of_fresh hp.records (releaseDeferred_posts hd hn)⟩

/-! ### PROGRAM_JOB_END -/

section

variable {s v : State} {j : Job} {js : List Job} {p : Program} {r : ProgramResult}

theorem exec_programJobEnd (h : Performs s .job (.program p)) (hv : jobEnded r (programEnded p r s) = v)
    (hd : v.sequencer.deferred.length ≤ s.sequencer.deferred.length) :
    exec (.programJobEnd r) s = .next (settle (choose v)) := by
  show execProgramJobEnd r s = _
  unfold execProgramJobEnd
  rw [h.inProgress]
  exact congrArg _ (endEvent_of h.awake h.clear hv hd)

/-- The medium and the two result flags stay as the program's end left them. -/
theorem programmed_of {t : State} (h : t.held.medium = s.medium.endProgram p r) (hl : t.held.lastFail = r.failed)
    (hp : t.held.prevFail = s.engine.lastFail) : Programmed s t p r := ⟨h, hl, hp⟩

/-- The machine whose head job has left the queue, its slot done where it was one of the vault's. -/
def State.jobDone (s : State) (j : Job) (r : ProgramResult) : State :=
  slotDone j r.failed (dropHead (programEnded (jobProgram j) r s))

/-- What the head job leaves, beside the vault. -/
structure JobDone (s u : State) (j : Job) (js : List Job) (r : ProgramResult) : Prop where
  rest : u = { s with medium := u.medium, vault := u.vault, engine := u.engine, write := u.write }
  jobs : u.write = { s.write with jobs := js }
  engine : u.engine = { s.engine with op := none, lastFail := r.failed, prevFail := s.engine.lastFail }
  medium : u.medium = s.medium.endProgram (jobProgram j) r
  user : j.segment ≠ 3 → u.vault = s.vault
  slot : j.segment = 3 → j.frame ∈ u.vault.written ∧
    u.vault.failed = if r.failed then s.vault.failed ++ [j.frame] else s.vault.failed

theorem jobDone_spec (hj : s.write.jobs = j :: js) : JobDone s (s.jobDone j r) j js r := by
  have hw : (dropHead (programEnded (jobProgram j) r s)).write = { s.write with jobs := js } := by
    show { s.write with jobs := s.write.jobs.drop 1 } = _
    rw [hj, List.drop_one, List.tail_cons]
  unfold State.jobDone slotDone
  split
  · rename_i h3
    refine ⟨rfl, hw, rfl, rfl, fun h => absurd h3 h, fun _ => ⟨?_, rfl⟩⟩
    show j.frame ∈ if s.vault.written.contains j.frame then s.vault.written else s.vault.written ++ [j.frame]
    split
    · rename_i hc
      exact List.contains_iff_mem.mp hc
    · exact List.mem_append_right _ List.mem_cons_self
  · rename_i h3
    exact ⟨rfl, hw, rfl, rfl, fun _ => rfl, fun h => absurd h h3⟩

theorem JobDone.released {u : State} (h : JobDone s u j js r) {id : Nat} :
    stillNamed u id = js.any (fun k => k.released.contains id) := by
  unfold stillNamed
  rw [h.jobs]

theorem JobDone.unlocked {u : State} (h : JobDone s u j js r) (hn : NoLockedHead (s.withJobs js)) : NoLockedHead u :=
  noLockedHead_of (s := s.withJobs js) (by rw [h.rest]; rfl) (by rw [h.jobs]; rfl) hn

/-! ### A job that passes -/

/-- The machine whose passed head job has advanced its stream's durable-through. -/
def State.jobPassing (s : State) (j : Job) : State := advanceDurable j (s.jobDone j .pass)

theorem jobEnded_passes (hj : s.write.jobs = j :: js) :
    jobEnded .pass (programEnded (jobProgram j) .pass s) = releaseDeferred (s.jobPassing j) := by
  have hj' : (programEnded (jobProgram j) .pass s).write.jobs = j :: js := hj
  simp only [jobEnded, hj', ProgramResult.failed, Bool.false_eq_true, if_false]
  rfl

theorem advanceDurable_rest (j : Job) (s : State) :
    advanceDurable j s = { s with streams := (advanceDurable j s).streams } := by
  unfold advanceDurable
  split <;> rfl

theorem advanceDurable_self {n : Nat} (hj : j.stream = some n) (hn : n < s.streams.length) :
    (streamOf (advanceDurable j s) n).durable = j.seqs.foldl Nat.max (streamOf s n).durable := by
  unfold advanceDurable
  rw [hj]
  simp only [updStream]
  rw [streamOf_setStream, if_pos ⟨rfl, hn⟩]

theorem advanceDurable_other {n : Nat} (hj : j.stream ≠ some n) :
    streamOf (advanceDurable j s) n = streamOf s n := by
  unfold advanceDurable
  split
  · rename_i m hm
    simp only [updStream]
    rw [streamOf_setStream, if_neg]
    rintro ⟨rfl, -⟩
    exact hj hm
  · rfl

theorem JobDone.streams {u : State} (h : JobDone s u j js r) : u.streams = s.streams := by rw [h.rest]

theorem JobDone.entry {u : State} (h : JobDone s u j js r) (n : Nat) : streamOf u n = streamOf s n := by
  unfold streamOf
  rw [h.streams]

theorem JobDone.deferred {u : State} (h : JobDone s u j js r) :
    u.sequencer.deferred = s.sequencer.deferred := by rw [h.rest]

theorem JobDone.cpl {u : State} (h : JobDone s u j js r) : u.cpl = s.cpl := by rw [h.rest]

/-- What the event of a passed job releases. -/
theorem exec_jobPassed (h : Performs s .job (.program (jobProgram j))) (hj : s.write.jobs = j :: js)
    (hn : NoLockedHead (s.withJobs js)) :
    ∃ t, exec (.programJobEnd .pass) s = .next t ∧ Releases (s.jobPassing j) t := by
  have hu := jobDone_spec (r := .pass) hj
  have hrest := advanceDurable_rest j (s.jobDone j .pass)
  have hdef : (s.jobPassing j).sequencer.deferred = s.sequencer.deferred := by
    unfold State.jobPassing; rw [hrest]; exact hu.deferred
  refine ⟨_, exec_programJobEnd h (jobEnded_passes hj) ?_, releases ?_⟩
  · rw [(releaseDeferred_jobs _).2, hdef]
    exact List.length_filter_le ..
  · refine noLockedHead_of (s := s.jobDone j .pass) ?_ ?_ (hu.unlocked hn) <;>
      exact (by unfold State.jobPassing; rw [hrest])

/-! ### A job of the vault that fails (R47) -/

/-- The machine whose failed vault job has left the queue, the commands it named spoiled. -/
def State.slotFailing (s : State) (j : Job) (r : ProgramResult) : State := spoilNamed [j] (s.jobDone j r)

theorem jobEnded_failsSlot {left : Leftover} (hj : s.write.jobs = j :: js) (h3 : j.segment = 3) :
    jobEnded (.fail left) (programEnded (jobProgram j) (.fail left) s) =
      releaseDeferred (s.slotFailing j (.fail left)) := by
  have hj' : (programEnded (jobProgram j) (.fail left) s).write.jobs = j :: js := hj
  simp only [jobEnded, hj', ProgramResult.failed, if_true, jobFailed, h3]
  rfl

theorem exec_slotFailed {left : Leftover} (h : Performs s .job (.program (jobProgram j))) (hj : s.write.jobs = j :: js)
    (h3 : j.segment = 3) (hn : NoLockedHead (s.withJobs js)) :
    ∃ t, exec (.programJobEnd (.fail left)) s = .next t ∧ Releases (s.slotFailing j (.fail left)) t := by
  have hu := jobDone_spec (r := .fail left) hj
  refine ⟨_, exec_programJobEnd h (jobEnded_failsSlot hj h3) ?_,
    releases (noLockedHead_of rfl rfl (hu.unlocked hn))⟩
  rw [(releaseDeferred_jobs _).2]
  refine (List.length_filter_le ..).trans (le_of_eq ?_)
  show (List.map _ (s.jobDone j (.fail left)).sequencer.deferred).length = _
  rw [List.length_map, hu.deferred]

end

/-! ### A relocation takes a target (R105, R106) -/

section

variable {s t : State} {x : Reloc} {g h : Nat} {gs : List Nat}

/-- The relocation with its next target, at its first step. -/
def targeted (s : State) (x : Reloc) (g : Nat) : Reloc :=
  { x with
    target := g, tried := x.tried + 1, damagedFrames := 0
    stage := if (segOf s g).state = .freeStale then .eraseTarget
             else copyStage s { x with target := g, tried := x.tried + 1, damagedFrames := 0 } 0 }

theorem takeTarget_takes (ht : x.tried < 2) (ha : availableSegs s = g :: gs) :
    takeTarget x s = setReloc (some (targeted s x g)) (takeSegment g s) := by
  unfold takeTarget
  rw [if_neg (Nat.not_le.mpr ht), ha]
  rfl

theorem copyStage_reads {i : Nat} (h : i < x.frame ∨ 0 < x.portion) : copyStage s x i = .readFrame i := if_pos h

/-- Frame f is copied from the failed job alone where that was its portion 0 (R107). -/
theorem copyStage_copies {i : Nat} {j : Job} {js : List Job} (hj : s.write.jobs = j :: js) (hi : x.frame ≤ i)
    (hp : x.portion = 0) : copyStage s x i = .copyFrame i (mergedCopy x.target j none) := by
  unfold copyStage
  rw [if_neg (by omega), hj]

theorem segOf_updSeg_other {f : SegEntry → SegEntry} (hne : h ≠ g) : segOf (updSeg g f s) h = segOf s h :=
  segOf_setSeg_other hne

theorem segOf_updSeg_listed {f : SegEntry → SegEntry} (hf : f (segOf s g) ≠ SegEntry.free) :
    segOf (updSeg g f s) g = f (segOf s g) := segOf_setSeg_listed hf

theorem taking_sequencer (w : State) (x : Option Reloc) (g : Nat) :
    (setReloc x (takeSegment g w)).sequencer = w.sequencer := rfl

/-- The event of the machine `w` has ended in `t` with this target taken. -/
structure TakesTarget (w t : State) (x : Reloc) (g : Nat) : Prop where
  held : t.held = { w.held with
    reloc := some (targeted w x g), segments := (takeSegment g w).segments }
  taken : (segOf t g).state = .taken
  failing : (segOf t g).failing = (segOf w g).failing
  others : ∀ m, m ≠ g → segOf t m = segOf w m
  bits : ∀ e, Raised w e → Raised t e
  work : NoLockedHead w → SameWork w t

theorem takesTarget (w : State) (x : Reloc) (g : Nat) :
    TakesTarget w (settle (choose (setReloc (some (targeted w x g)) (takeSegment g w)))) x g := by
  have hc := close_spec (setReloc (some (targeted w x g)) (takeSegment g w))
  have hseg : ∀ m, segOf (settle (choose (setReloc (some (targeted w x g)) (takeSegment g w)))) m =
    segOf (takeSegment g w) m := fun m => segOf_of (congrArg Held.segments hc.held)
  exact
    { held := hc.held
      taken := by rw [hseg, segOf_takeSegment_self]
      failing := by rw [hseg, segOf_takeSegment_self]
      others := fun m hm => by rw [hseg, segOf_takeSegment_other hm]
      bits := fun e he => hc.bits _ he
      work := hc.work }

end

/-! ### A job that fails into a user segment (R105) -/

section

variable {s : State} {j : Job} {js : List Job} {g : Nat} {gs : List Nat} {left : Leftover}

/-- The relocation a failed job begins, before it has a target. -/
def relocationOf (j : Job) : Reloc :=
  { segment := j.segment, frame := j.frame, portion := j.portion, stream := j.stream.getD 0xFF, target := 0,
    tried := 0, stage := .eraseTarget, damagedFrames := 0 }

/-- The machine whose failed job's segment is failing. -/
def State.failed (s : State) (j : Job) (left : Leftover) : State :=
  updSeg j.segment (fun e => { e with failing := true }) (programEnded (jobProgram j) (.fail left) s)

theorem failed_failing : (segOf (s.failed j left) j.segment).failing = true := by
  unfold State.failed
  rw [segOf_updSeg_listed (fun he => Bool.noConfusion (congrArg SegEntry.failing he))]

theorem failed_state (g : Nat) : (segOf (s.failed j left) g).state = (segOf s g).state := by
  unfold State.failed
  by_cases hg : g = j.segment
  · subst hg
    rw [segOf_updSeg_listed (fun he => Bool.noConfusion (congrArg SegEntry.failing he))]
    rfl
  · rw [segOf_updSeg_other hg]
    rfl

theorem failed_work : SameWork s (s.failed j left) := ⟨rfl, rfl, rfl⟩

theorem failed_unlocked (h : NoLockedHead s) : NoLockedHead (s.failed j left) := noLockedHead_of rfl rfl h

/-- The event of a failed job, whose relocation takes its first target. -/
theorem exec_jobFailed (h : Performs s .job (.program (jobProgram j))) (hj : s.write.jobs = j :: js)
    (h3 : j.segment ≠ 3) (ha : availableSegs s = g :: gs) :
    ∃ t, exec (.programJobEnd (.fail left)) s = .next t ∧
      TakesTarget (s.failed j left) t (relocationOf j) g := by
  have hj' : (programEnded (jobProgram j) (.fail left) s).write.jobs = j :: js := hj
  have ha' : availableSegs (s.failed j left) = g :: gs := ha
  have hv : jobEnded (.fail left) (programEnded (jobProgram j) (.fail left) s) =
      setReloc (some (targeted (s.failed j left) (relocationOf j) g)) (takeSegment g (s.failed j left)) := by
    simp only [jobEnded, hj', ProgramResult.failed, if_true, jobFailed, if_neg h3]
    exact takeTarget_takes (x := relocationOf j) Nat.zero_lt_two ha'
  exact ⟨_, exec_programJobEnd h hv (by rw [taking_sequencer]; exact le_refl _), takesTarget ..⟩

end

/-- Settles O47: a job leaves the queue and releases the commands it named, or begins a relocation (R60, R105). -/
theorem programJobEndsByItsResult : Obligations.ProgramJobEndsByItsResult := by
  unfold Obligations.ProgramJobEndsByItsResult
  refine ⟨?_, ?_, ?_⟩
  · intro s j js hperf hj hn
    obtain ⟨t, hexec, ht⟩ := exec_jobPassed hperf hj hn
    have hu := jobDone_spec (r := .pass) hj
    have hrest : s.jobPassing j = _ := advanceDurable_rest j (s.jobDone j .pass)
    have hjobs : (s.jobPassing j).write.jobs = js := by rw [hrest, hu.jobs]
    have hdef : (s.jobPassing j).sequencer.deferred = s.sequencer.deferred := by rw [hrest]; exact hu.deferred
    have hnamed : ∀ id, stillNamed (s.jobPassing j) id = js.any (fun k => k.released.contains id) := fun id => by
      unfold stillNamed; rw [hjobs]
    have hvault : t.vault = (s.jobDone j .pass).vault := (congrArg Held.vault ht.held).trans (by rw [hrest]; rfl)
    refine ⟨t, hexec, programmed_of ?_ ?_ ?_, ht.jobs.trans hjobs, fun n hjn hlen => ?_, fun n hjn => ?_, fun h3 => ?_,
      fun h3 => ?_, ?_, fun d hd hfree hgood => ?_⟩
    · rw [ht.held, hrest]; exact hu.medium
    · rw [ht.held, hrest]; exact congrArg Engine.lastFail hu.engine
    · rw [ht.held, hrest]; exact congrArg Engine.prevFail hu.engine
    · rw [(ht.entries n).durable]
      refine (advanceDurable_self hjn (by rw [hu.streams]; exact hlen)).trans ?_
      rw [hu.entry]
    · rw [(ht.entries n).durable]
      refine (congrArg Stream.durable (advanceDurable_other hjn)).trans ?_
      rw [hu.entry]
    · rw [ht.held, hrest]
      simp only [State.held, hu.user h3, hu.engine, hu.medium, hu.jobs]
      rw [hu.rest]
      rfl
    · rw [hvault]
      exact hu.slot h3
    · rw [ht.deferred, hdef]
      exact List.filter_congr fun d _ => hnamed d.id
    · obtain ⟨a, b, hab⟩ := ht.posts d (by rw [hdef]; exact hd) ((hnamed d.id).trans hfree)
      have hposts : Posts s t (deferredCompletion (s.jobPassing j) d) :=
        ⟨a, b, hab.trans (by rw [show (s.jobPassing j).cpl = s.cpl by rw [hrest]; exact hu.cpl])⟩
      unfold deferredCompletion deferredOutcome at hposts
      refine ⟨fun m seq hk => ?_, fun k hk => ?_, fun k hk => ?_⟩ <;>
        simp only [hk, hgood, Bool.false_eq_true, if_false, Bool.not_false, deferredDetail] at hposts
      · rw [(ht.entries m).durable]
        exact hposts
      · exact hposts
      · exact hposts
  · intro s j js n g gs left hperf hj hn h3 ha
    obtain ⟨t, hexec, ht⟩ := exec_jobFailed (left := left) hperf hj h3 ha
    refine ⟨t, hexec, programmed_of (congrArg Held.medium ht.held) (congrArg Held.lastFail ht.held)
      (congrArg Held.prevFail ht.held), ⟨(targeted (s.failed j left) (relocationOf j) g).stage, ?_, fun hst => ?_,
        fun hst hlate => ?_, fun hst hf hp => ?_⟩, ?_, ht.taken, congrArg (fun x => x.segments.pool) ht.held,
      fun hl => failed_work.trans (ht.work (failed_unlocked hl))⟩
    · refine (congrArg Held.reloc ht.held).trans ?_
      simp only [targeted, relocationOf, hn, Option.getD_some]
    · exact if_pos ((failed_state g).trans hst)
    · refine (if_neg fun he => hst ((failed_state g).symm.trans he)).trans (copyStage_reads hlate)
    · refine (if_neg fun he => hst ((failed_state g).symm.trans he)).trans
        ((copyStage_copies (s := s.failed j left) hj (le_of_eq hf) hp).trans ?_)
      simp only [mergedCopy, jobProgram, hp]
    · by_cases hg : j.segment = g
      · rw [← hg] at ht
        exact ht.failing.trans failed_failing
      · rw [ht.others _ hg, failed_failing]
  · intro s j js left hperf hj h3 hn
    obtain ⟨t, hexec, ht⟩ := exec_slotFailed (left := left) hperf hj h3 hn
    have hu := jobDone_spec (r := .fail left) hj
    have hvault : t.vault = (s.jobDone j (.fail left)).vault := congrArg Held.vault ht.held
    have hreloc : (s.jobDone j (.fail left)).engine.reloc = s.engine.reloc := by rw [hu.engine]
    obtain ⟨hwritten, hfailed⟩ := hu.slot h3
    refine ⟨t, hexec, programmed_of ?_ ?_ ?_, ht.jobs.trans (congrArg WritePath.jobs hu.jobs), hvault ▸ hwritten, ?_,
      ?_, fun d hd hnames hfree k hk => ?_⟩
    · rw [ht.held]; exact hu.medium
    · rw [ht.held]; exact congrArg Engine.lastFail hu.engine
    · rw [ht.held]; exact congrArg Engine.prevFail hu.engine
    · rw [hvault, hfailed]
      exact List.mem_append_right _ List.mem_cons_self
    · exact (congrArg Held.reloc ht.held).trans hreloc
    · have hmem : { d with spoiled := true } ∈ (s.slotFailing j (.fail left)).sequencer.deferred := by
        refine List.mem_map.mpr ⟨d, by rw [hu.deferred]; exact hd, ?_⟩
        simp only [List.any_cons, hnames, List.any_nil, Bool.or_false, if_true]
      obtain ⟨a, b, hab⟩ := ht.posts _ hmem (hu.released.trans hfree)
      refine ⟨a, b, hab.trans ?_⟩
      rw [show (s.slotFailing j (.fail left)).cpl = s.cpl from hu.cpl]
      simp only [deferredCompletion, deferredOutcome, hk, deferredDetail, if_true, Bool.not_true]

end Sys2Proof.Machine

/-!
PROOFS. The steps of a relocation (R106 to R108): its target's erase, its READs of S, its copies, and what the idle
engine is given next.
-/

namespace Sys2Proof.Machine

open Sys2Proof

/-! ### The row at the end of a relocation's operation -/

section

variable {s v : State} {x : Reloc}

theorem exec_relocationEraseEnd {g : Nat} {r : EraseResult} (h : Performs s .relocation (.erase g))
    (hx : s.engine.reloc = some x)
    (hv : (if r.failed then targetEraseFailed x (eraseEnded g r s) else beginCopy x (eraseEnded g r s)) = v)
    (hd : v.sequencer.deferred.length ≤ s.sequencer.deferred.length) :
    exec (.relocationEraseEnd r) s = .next (settle (choose v)) := by
  show execRelocationEraseEnd r s = _
  unfold execRelocationEraseEnd
  rw [h.inProgress]
  have hx' : (eraseEnded g r s).engine.reloc = some x := hx
  exact congrArg _ (endEvent_of h.awake h.clear (by simp only [hx']; exact hv) hd)

theorem exec_relocationReadEnd {seg i lo hi : Nat} {noise : ReadNoise}
    (h : Performs s .relocation (.read seg i lo hi)) (hx : s.engine.reloc = some x)
    (hv : copyAfterRead x i (readFrame s.medium seg i lo hi noise) s.withIdle = v)
    (hd : v.sequencer.deferred.length ≤ s.sequencer.deferred.length) :
    exec (.relocationReadEnd noise) s = .next (settle (choose v)) := by
  show execRelocationReadEnd noise s = _
  unfold execRelocationReadEnd
  rw [h.inProgress]
  have hx' : (engineIdle s).engine.reloc = some x := hx
  exact congrArg _ (endEvent_of h.awake h.clear (by simp only [hx']; exact hv) hd)

theorem exec_relocationCopyEnd {p : Program} {r : ProgramResult} (h : Performs s .relocation (.program p))
    (hx : s.engine.reloc = some x)
    (hv : (if r.failed then abandonTarget x (programEnded p r s) else copyPassed x p.frame p (programEnded p r s)) = v)
    (hd : v.sequencer.deferred.length ≤ s.sequencer.deferred.length) :
    exec (.relocationCopyEnd r) s = .next (settle (choose v)) := by
  show execRelocationCopyEnd r s = _
  unfold execRelocationCopyEnd
  rw [h.inProgress]
  have hx' : (programEnded p r s).engine.reloc = some x := hx
  exact congrArg _ (endEvent_of h.awake h.clear (by simp only [hx']; exact hv) hd)

/-! ### The next step is rank 1 (R56) -/

/-- The next step of a relocation is started by an idle engine where the catalogue writer asks for nothing; a write only
where the device is not guarded. -/
theorem choose_relocation {op : Op} (ha : isAwake s = true) (ho : s.engine.op = none) (hx : s.engine.reloc = some x)
    (hop : relocOp x = some op) (hq : s.catalogue.queue = []) (hg : opWrites op = true → guarded s = false) :
    (choose s).engine.op = some { who := .relocation, op := op } := by
  have hc : candidates s = candidate .relocation op 4 x.stream ::
      (sequencerCandidate true s ++ catalogueCandidate forErase systemKind 0xFF s ++
        catalogueCandidate forCommand systemKind 0xFF s ++ sequencerCandidate false s ++ jobCandidate s) := by
    simp [candidates, rankOne, catalogueCandidate, hq, hx, hop]
  unfold choose chooseWork
  rw [if_pos (by simp [ha, ho]), hc]
  unfold tryCandidates
  cases hw : opWrites op with
  | false => simp only [candidate, hw, Bool.false_eq_true, if_false]; rfl
  | true =>
    have hl : lockedOut (candidate .relocation op 4 x.stream) s = false := rfl
    simp only [candidate, hw, if_true, hg hw, Bool.false_eq_true, if_false] at hl ⊢
    rw [hl]
    rfl

end

/-- A relocation's event ends in `t` with its next step: the machine `u` with the relocation at that stage. -/
structure StepsTo (u t : State) (x : Reloc) : Prop where
  held : t.held = { u.held with reloc := some x }
  starts : ∀ op, relocOp x = some op → u.catalogue.queue = [] → (opWrites op = true → guarded u = false) →
    t.engine.op = some { who := .relocation, op := op }
  work : NoLockedHead u → SameWork u t

theorem stepsTo {u : State} (ha : isAwake u = true) (ho : u.engine.op = none) (x : Reloc) :
    StepsTo u (settle (choose (setReloc (some x) u))) x := by
  have hc := close_spec (setReloc (some x) u)
  exact ⟨hc.held, fun op hop hq hg => choose_relocation (s := setReloc (some x) u) ha ho rfl hop hq hg, hc.work⟩

section

variable {s : State} {x : Reloc}

theorem step_awake {u : State} (hp : u.pins = s.pins) (hw : u.power = s.power) (ha : isAwake s = true) :
    isAwake u = true := by rw [← ha]; exact isAwake_congr hw hp

/-- The target's erase has passed: frame 0 is next (R106). -/
theorem exec_targetErased {g : Nat} (h : Performs s .relocation (.erase g)) (hx : s.engine.reloc = some x) :
    ∃ t, exec (.relocationEraseEnd .pass) s = .next t ∧
      StepsTo (clearWeak x.target (eraseEnded g .pass s)) t { x with stage := copyStage s x 0 } := by
  have hv : (if EraseResult.pass.failed = true then targetEraseFailed x (eraseEnded g .pass s)
      else beginCopy x (eraseEnded g .pass s)) =
      setReloc (some { x with stage := copyStage s x 0 }) (clearWeak x.target (eraseEnded g .pass s)) := rfl
  have ha : isAwake (clearWeak x.target (eraseEnded g .pass s)) = true := step_awake rfl rfl h.awake
  exact ⟨_, exec_relocationEraseEnd h hx hv (le_refl _), stepsTo ha rfl _⟩

/-- A READ of S has ended: its copy is next (R107). -/
theorem exec_sourceRead {seg i lo hi : Nat} {noise : ReadNoise} {p : Program}
    (h : Performs s .relocation (.read seg i lo hi)) (hx : s.engine.reloc = some x)
    (hp : copyAfterRead x i (readFrame s.medium seg i lo hi noise) s.withIdle =
      setReloc (some { x with stage := .copyFrame i p }) s.withIdle) :
    ∃ t, exec (.relocationReadEnd noise) s = .next t ∧
      StepsTo s.withIdle t { x with stage := .copyFrame i p } := by
  have ha : isAwake s.withIdle = true := step_awake rfl rfl h.awake
  exact ⟨_, exec_relocationReadEnd h hx hp (le_refl _), stepsTo ha rfl _⟩

/-- A copy below frame f has passed: the next frame is next (R107). -/
theorem exec_copyPassed {p : Program} (h : Performs s .relocation (.program p)) (hx : s.engine.reloc = some x)
    (hp : p.frame < x.frame) :
    ∃ t, exec (.relocationCopyEnd .pass) s = .next t ∧ StepsTo (programEnded p .pass s) t
      { x with damagedFrames := x.damagedFrames + bitOf p.damaged, stage := copyStage s x (p.frame + 1) } := by
  have hv : (if ProgramResult.pass.failed = true then abandonTarget x (programEnded p .pass s)
      else copyPassed x p.frame p (programEnded p .pass s)) = setReloc (some { x with
        damagedFrames := x.damagedFrames + bitOf p.damaged, stage := copyStage s x (p.frame + 1) })
        (programEnded p .pass s) := by
    simp only [ProgramResult.failed, Bool.false_eq_true, if_false, copyPassed, if_pos hp]
    rfl
  have ha : isAwake (programEnded p .pass s) = true := step_awake rfl rfl h.awake
  exact ⟨_, exec_relocationCopyEnd h hx hv (le_refl _), stepsTo ha rfl _⟩

end

end Sys2Proof.Machine

namespace Sys2Proof.Machine

open Sys2Proof

/-! ### A segment is retired (R102, R108, R111) -/

section

variable {u v w : State} {g : Nat}

/-- A retirement may have been recorded: the entry of the segment in its mark, the catalogue, RESTRICTED and its events
alone differ. -/
structure Recorded (u w : State) (g : Nat) : Prop where
  rest : w = { u with segments := w.segments, catalogue := w.catalogue, power := w.power, events := w.events }
  entry : (segOf u g).state = .retired → ∃ b, segOf w g = { segOf u g with mountOnly := b }
  others : ∀ m, m ≠ g → segOf w m = segOf u m
  pool : w.segments.pool = u.segments.pool
  awake : isAwake u = true → isAwake w = true
  bits : ∀ e, Raised u e → Raised w e
  holdClear : w.events.holdClear = u.events.holdClear

theorem Recorded.trans (h : Recorded u v g) (k : Recorded v w g) : Recorded u w g where
  rest := by rw [k.rest, h.rest]
  entry hst := by
    obtain ⟨b, hb⟩ := h.entry hst
    obtain ⟨c, hc⟩ := k.entry (by rw [hb]; exact hst)
    exact ⟨c, by rw [hc, hb]⟩
  others m hm := (k.others m hm).trans (h.others m hm)
  pool := k.pool.trans h.pool
  awake := fun ha => k.awake (h.awake ha)
  bits := fun e he => k.bits e (h.bits e he)
  holdClear := k.holdClear.trans h.holdClear

/-- A change of the catalogue and of the events, or an entry into RESTRICTED. -/
theorem recorded_of (hr : w = { u with catalogue := w.catalogue, power := w.power, events := w.events })
    (ha : isAwake u = true → isAwake w = true) (hb : ∀ e, Raised u e → Raised w e)
    (hc : w.events.holdClear = u.events.holdClear) : Recorded u w g where
  rest := by rw [hr]
  entry _ := ⟨(segOf u g).mountOnly, segOf_of (by rw [hr])⟩
  others _ _ := segOf_of (by rw [hr])
  pool := by rw [hr]
  awake := ha
  bits := hb
  holdClear := hc

theorem raise_rest (e : Event) (u : State) : raise e u = { u with events := (raise e u).events } := by
  unfold raise
  split <;> rfl

theorem addNotice_rest (n : Notice) (u : State) : addNotice n u = { u with events := (addNotice n u).events } := by
  unfold addNotice addNoticeAt
  split <;> rfl

theorem tellMedia_rest (n : Notice) (u : State) : tellMedia n u = { u with events := (tellMedia n u).events } := by
  unfold tellMedia
  rw [raise_rest, addNotice_rest]

theorem tellMedia_posting (n : Notice) (u : State) : Posting u (tellMedia n u) :=
  (addNotice_posting ..).trans (raise_posting ..)

theorem recorded_tellMedia (n : Notice) : Recorded u (tellMedia n u) g :=
  recorded_of (by rw [tellMedia_rest])
    (fun ha => (isAwake_congr (by rw [tellMedia_rest]) (by rw [tellMedia_rest])).trans ha)
    (fun _ he => raised_mono (tellMedia_posting n u) he) (congrArg Held.holdClear (tellMedia_held n u))

theorem recorded_catalogue (c : Catalogue) : Recorded u { u with catalogue := c } g :=
  recorded_of rfl id (fun _ => id) rfl

theorem isAwake_wornOut (ha : isAwake u = true) :
    isAwake { u with power := { u.power with state := .awake (.restricted .wornOut) } } = true := by
  unfold isAwake at ha ⊢
  exact Bool.and_eq_true_iff.mpr ⟨(Bool.and_eq_true_iff.mp ha).1, rfl⟩

theorem recorded_enterWornOut (why : Nat) : Recorded u (enterWornOut why u) g := by
  unfold enterWornOut
  split
  · exact recorded_of rfl id (fun _ => id) rfl
  · exact Recorded.trans (v := { u with power := { u.power with state := .awake (.restricted .wornOut) } })
      (recorded_of rfl isAwake_wornOut (fun _ => id) rfl) (recorded_tellMedia _)

theorem recorded_holdForMount : Recorded u (holdForMount g u) g where
  rest := rfl
  entry hst := ⟨true, segOf_updSeg_listed (ne_free_of_state fun he => SegState.noConfusion (hst.symm.trans he))⟩
  others _ hm := segOf_updSeg_other hm
  pool := rfl
  awake := id
  bits _ := id
  holdClear := rfl

theorem recorded (g : Nat) (byRelocation : Bool) (u : State) : Recorded u (recordRetirement g byRelocation u) g := by
  unfold recordRetirement
  split
  · split
    · rw [requestVersion_eq]
      exact (recorded_catalogue _).trans (recorded_catalogue _)
    · exact recorded_holdForMount.trans (recorded_enterWornOut 1)
  · split
    · exact recorded_catalogue _
    · exact recorded_holdForMount
  · exact recorded_holdForMount
  · exact recorded_holdForMount

/-- A segment has been retired and its retirement recorded. -/
structure Retires (u w : State) (g : Nat) : Prop where
  rest : w = { u with segments := w.segments, catalogue := w.catalogue, power := w.power, events := w.events }
  retired : (segOf w g).state = .retired
  owner : (segOf w g).owner = (segOf u g).owner
  others : ∀ m, m ≠ g → segOf w m = segOf u m
  pool : w.segments.pool = u.segments.pool.filter (fun x => x ≠ g)
  awake : isAwake u = true → isAwake w = true
  bits : ∀ e, Raised u e → Raised w e
  holdClear : w.events.holdClear = u.events.holdClear

theorem segOf_retireSegment_self :
    segOf (retireSegment g u) g = { segOf u g with state := .retired, failing := false, isOpen := false } := by
  have hne : ({ segOf u g with state := .retired, failing := false, isOpen := false } : SegEntry) ≠ SegEntry.free :=
    ne_free_of_state fun he => SegState.noConfusion he
  exact segOf_setSeg_listed hne

theorem segOf_retireSegment_other {m : Nat} (hm : m ≠ g) : segOf (retireSegment g u) m = segOf u m :=
  segOf_setSeg_other (e := { segOf u g with state := .retired, failing := false, isOpen := false }) hm

theorem Recorded.retires (h : Recorded (retireSegment g u) w g) : Retires u w g where
  rest := by rw [h.rest]; rfl
  retired := by
    obtain ⟨b, hb⟩ := h.entry (by rw [segOf_retireSegment_self])
    rw [hb, segOf_retireSegment_self]
  owner := by
    obtain ⟨b, hb⟩ := h.entry (by rw [segOf_retireSegment_self])
    rw [hb, segOf_retireSegment_self]
  others m hm := (h.others m hm).trans (segOf_retireSegment_other hm)
  pool := h.pool
  awake := h.awake
  bits := h.bits
  holdClear := h.holdClear

theorem retires_retireErased (g : Nat) (byRelocation : Bool) (u : State) :
    Retires u (retireErased g byRelocation u) g ∧
      (u.events.holdClear = false → Raised (retireErased g byRelocation u) .media) := by
  have h := recorded g byRelocation (retireSegment g u)
  exact ⟨(h.trans (recorded_tellMedia _)).retires, fun hc => tellMedia_raised (h.holdClear.trans hc)⟩

/-- The available segments are those that were, but the retired one. -/
theorem Retires.available (h : Retires u w g) (hg : g ∉ u.segments.pool) : availableSegs w = availableSegs u := by
  have hguard : w.guard = u.guard := by rw [h.rest]
  refine availableSegs_of ?_ hguard
  rw [h.pool]
  exact List.filter_eq_self.mpr fun x hx => decide_eq_true fun he => hg (he ▸ hx)

theorem ne_of_available {h : Nat} {hs : List Nat} (hg : g ∉ u.segments.pool) (ha : availableSegs u = h :: hs) :
    h ≠ g := by
  rintro rfl
  have hm : h ∈ availableSegs u := by rw [ha]; exact List.mem_cons_self
  exact hg (List.mem_filter.mp hm).1

end

section

variable {s : State} {x : Reloc} {h : Nat} {hs : List Nat}

/-- The target's erase has failed: it is retired and another is taken (R102, R106). -/
theorem exec_targetEraseFailed {frames : List FrameContent} (hp : Performs s .relocation (.erase x.target))
    (hx : s.engine.reloc = some x) (ht : x.tried < 2) (hg : x.target ∉ s.segments.pool)
    (ha : availableSegs s = h :: hs) :
    ∃ w t, exec (.relocationEraseEnd (.fail frames)) s = .next t ∧
      Retires (eraseEnded x.target (.fail frames) s) w x.target ∧ (s.events.holdClear = false → Raised w .media) ∧
      TakesTarget w t x h := by
  obtain ⟨hw, hm⟩ := retires_retireErased x.target true (eraseEnded x.target (.fail frames) s)
  generalize hv : retireErased x.target true (eraseEnded x.target (.fail frames) s) = w at hw hm
  have hnew : (if (EraseResult.fail frames).failed = true then
      targetEraseFailed x (eraseEnded x.target (.fail frames) s) else
      beginCopy x (eraseEnded x.target (.fail frames) s)) =
      setReloc (some (targeted w x h)) (takeSegment h w) := by
    show takeTarget x (retireErased x.target true (eraseEnded x.target (.fail frames) s)) = _
    rw [hv]
    exact takeTarget_takes ht ((hw.available hg).trans ha)
  refine ⟨w, _, exec_relocationEraseEnd hp hx hnew ?_, hw, hm, takesTarget w x h⟩
  rw [taking_sequencer, hw.rest]
  exact le_refl _

end

/-- Settles O48: each event of a relocation ends with its next step, at its next frame or its next target. -/
theorem relocationCopiesFrameByFrame : Obligations.RelocationCopiesFrameByFrame := by
  unfold Obligations.RelocationCopiesFrameByFrame
  refine ⟨?_, ?_, ?_, ?_, ?_⟩
  · intro s x g hperf hx htarget hst hlate
    obtain ⟨t, hexec, ht⟩ := exec_targetErased hperf hx
    have hseg : segOf t g = { segOf s g with weak := false } := by
      rw [segOf_of (congrArg Held.segments ht.held), clearWeak, htarget, segOf_updSeg_listed]
      · rfl
      · exact ne_free_of_state fun he => SegState.noConfusion (hst.symm.trans he)
    rw [copyStage_reads hlate] at ht
    exact ⟨t, hexec, congrArg Held.medium ht.held, congrArg Held.reloc ht.held, by rw [hseg]; exact hst,
      by rw [hseg], fun hq => ht.starts _ rfl hq (fun hw => Bool.noConfusion hw), fun hn => ht.work hn⟩
  · rintro s x i op j js hperf hx hj hp hg hq (⟨rfl, hf, rfl, hst⟩ | ⟨p, rfl, hf, hgood, rfl⟩) q rfl
    · obtain ⟨t, hexec, ht⟩ := exec_targetErased hperf hx
      rw [copyStage_copies hj (le_of_eq hf) hp, ← hf] at ht
      exact ⟨t, hexec, congrArg Held.reloc ht.held, ht.starts _ rfl hq (fun _ => hg), fun hn => ht.work hn⟩
    · obtain ⟨t, hexec, ht⟩ := exec_copyPassed hperf hx (by omega)
      rw [copyStage_copies hj (le_of_eq hf.symm) hp, hf, hgood] at ht
      exact ⟨t, hexec, congrArg Held.reloc ht.held, ht.starts _ rfl hq (fun _ => hg), fun hn => ht.work hn⟩
  · rintro s x g h hs frames hperf hx rfl ht hg ha
    obtain ⟨w, t, hexec, hw, hm, htake⟩ := exec_targetEraseFailed (frames := frames) hperf hx ht hg ha
    refine ⟨t, hexec, ?_, ?_, htake.taken, ⟨_, congrArg Held.reloc htake.held⟩, fun hc => htake.bits _ (hm hc)⟩
    · refine (congrArg Held.medium htake.held).trans ?_
      rw [hw.rest]
      rfl
    · rw [htake.others _ (ne_of_available hg ha).symm]
      exact hw.retired
  · rintro s x seg i lo hi noise p hperf hx hp
    have hstep : copyAfterRead x i (readFrame s.medium seg i lo hi noise) s.withIdle =
        setReloc (some { x with stage := .copyFrame i p }) s.withIdle := by
      rcases hp with ⟨hi, rfl⟩ | ⟨hi, j, js, hj, rfl⟩
      · simp only [copyAfterRead, if_pos hi]
      · have hj' : s.withIdle.write.jobs = j :: js := hj
        simp only [copyAfterRead, if_neg (Nat.not_lt.mpr hi), hj']
    obtain ⟨t, hexec, ht⟩ := exec_sourceRead hperf hx hstep
    exact ⟨t, hexec, congrArg Held.medium ht.held, congrArg Held.reloc ht.held,
      fun hq hg => ht.starts _ rfl hq (fun _ => hg), fun hn => ht.work hn⟩
  · intro s x p hperf hx hf hlate
    obtain ⟨t, hexec, ht⟩ := exec_copyPassed hperf hx hf
    rw [copyStage_reads hlate] at ht
    exact ⟨t, hexec, ⟨congrArg Held.medium ht.held, congrArg Held.lastFail ht.held, congrArg Held.prevFail ht.held⟩,
      congrArg Held.reloc ht.held, fun hn => ht.work hn⟩

end Sys2Proof.Machine

/-!
PROOFS. The ends of a relocation (R107 to R110): its last copy, the retirement's catalogue version, the next target, and
the giving up.
-/

namespace Sys2Proof.Machine

open Sys2Proof

/-! ### The release of deferred commands keeps every tail -/

section

variable {s t u : State}

/-- Every stream has its tail. -/
def SameTails (s t : State) : Prop := ∀ n, (streamOf t n).tail = (streamOf s n).tail

theorem SameTails.refl (s : State) : SameTails s s := fun _ => rfl

theorem SameTails.trans (h : SameTails s t) (k : SameTails t u) : SameTails s u := fun n => (k n).trans (h n)

theorem SameWork.tails (h : SameWork s t) : SameTails s t := fun n => by
  unfold streamOf
  rw [h.1]

/-- An entry replaced by one with its tail. -/
theorem sameTails_setStream {n : Nat} {x : Stream} (h : x.tail = (streamOf s n).tail) :
    SameTails s (setStream n x s) := by
  intro m
  rw [streamOf_setStream]
  split
  · rename_i hm
    rw [h, hm.1]
  · rfl

theorem enterFull_tails (n : Nat) (r : FullReason) (s : State) : SameTails s (enterFull n r s) := by
  unfold enterFull
  dsimp only
  split
  · exact .refl s
  · have hset : SameTails s (setStream n { streamOf s n with state := .full r } s) := sameTails_setStream rfl
    exact (hset.trans (raise_work ..).tails).trans (addNotice_work ..).tails

theorem postDeferred_tails (d : Deferred) (s : State) : SameTails s (postDeferred d s) := by
  have hp : ∀ k c, SameTails s (postRecord k c s) := fun k c => (postRecord_work k c s).tails
  unfold postDeferred
  dsimp only
  split
  · split
    · exact (hp _ _).trans (enterFull_tails _ _ _)
    · exact hp _ _
  · exact hp _ _
  · exact hp _ _

theorem postAll_tails (ds : List Deferred) (s : State) : SameTails s (postAll ds s) := by
  induction ds generalizing s with
  | nil => exact .refl s
  | cons d ds ih => exact (postDeferred_tails d s).trans (ih _)

theorem releaseDeferred_tails (s : State) : SameTails s (releaseDeferred s) :=
  postAll_tails _ { s with sequencer :=
    { s.sequencer with deferred := s.sequencer.deferred.filter (fun d => stillNamed s d.id) } }

/-- With no deferred command nothing is released. -/
theorem releaseDeferred_nil (h : s.sequencer.deferred = []) : releaseDeferred s = s := by
  unfold releaseDeferred
  simp only [h, List.filter_nil, postAll]
  rw [← h]

theorem releaseDeferred_length (s : State) :
    (releaseDeferred s).sequencer.deferred.length ≤ s.sequencer.deferred.length := by
  rw [(releaseDeferred_jobs s).2]
  exact List.length_filter_le ..

end

/-! ### The jobs are retargeted (R109) -/

section

variable {r : Reloc} {js : List Job}

theorem retargetJobs_length (r : Reloc) (k : Nat) (js : List Job) : (retargetJobs r k js).length = js.length := by
  induction js generalizing k with
  | nil => rfl
  | cons j js ih =>
    unfold retargetJobs
    (repeat' split) <;> simp [ih]

/-- No job is aimed at S any more. -/
theorem retargetJobs_segment (h : r.target ≠ r.segment) (k : Nat) :
    ∀ j ∈ retargetJobs r k js, j.segment ≠ r.segment := by
  induction js generalizing k with
  | nil => intro j hj; exact absurd hj List.not_mem_nil
  | cons j js ih =>
    unfold retargetJobs
    split
    · split
      · exact List.forall_mem_cons.mpr ⟨h, ih _⟩
      · exact List.forall_mem_cons.mpr ⟨h, ih _⟩
    · rename_i hj
      exact List.forall_mem_cons.mpr ⟨hj, ih _⟩

/-- How many frames are damaged does not matter to the jobs. -/
theorem retargetJobs_damaged (d k : Nat) : retargetJobs { r with damagedFrames := d } k js = retargetJobs r k js := by
  induction js generalizing k with
  | nil => rfl
  | cons j js ih =>
    unfold retargetJobs
    simp only [ih]

theorem retargetTail_pos (q : TailPos) :
    (q.segment ≠ r.segment → retargetTail r js (.pos q) = .pos q) ∧
      (q.segment = r.segment → q.frame ≠ r.frame →
        retargetTail r js (.pos q) = .pos { q with segment := r.target }) ∧
      (q.segment = r.segment → q.frame = r.frame → retargetTail r js (.pos q) = .pos { q with
        segment := r.target
        portions := 1 + js.countP (fun k => decide (k.segment = r.segment ∧ k.frame = r.frame)) }) := by
  refine ⟨fun h => by simp only [retargetTail, if_neg h], fun h hf => ?_, fun h hf => ?_⟩
  · simp only [retargetTail, if_pos h, if_neg hf]
  · simp only [retargetTail, if_pos h, if_pos hf, List.countP_eq_length_filter, Bool.decide_and]

end

/-! ### A relocation is finished (R107 steps 3 to 7) -/

section

variable {u : State} {r : Reloc} {j : Job} {js : List Job}

theorem advanceDurable_length (j : Job) (u : State) : (advanceDurable j u).streams.length = u.streams.length := by
  unfold advanceDurable
  split
  · exact List.length_set
  · rfl

theorem advanceDurable_tails (j : Job) (u : State) : SameTails u (advanceDurable j u) := by
  unfold advanceDurable
  split
  · exact sameTails_setStream rfl
  · exact .refl u

/-- The machine whose failed job counts as passed, its jobs and the stream's tail retargeted. -/
def State.finishing (u : State) (r : Reloc) (j : Job) (js : List Job) : State :=
  setReloc none (updStream r.stream (fun t => { t with tail := retargetTail r js t.tail })
    (advanceDurable j (u.withJobs (retargetJobs r 1 js))))

/-- The notices of a finished relocation. -/
def retiredNotice (r : Reloc) : Notice :=
  { kind := .retired, stream := r.stream, segment := r.segment, value := 2, value2 := 0 }

def relocatedNotice (r : Reloc) : Notice :=
  { kind := .relocated, stream := r.stream, segment := r.segment, value := r.target, value2 := r.damagedFrames }

theorem finishRelocation_eq (hj : u.write.jobs = j :: js) : finishRelocation r u =
    tellMedia (relocatedNotice r) (addNotice (retiredNotice r) (releaseDeferred (u.finishing r j js))) := by
  simp only [finishRelocation, hj]
  rfl

theorem finishing_rest : u.finishing r j js = { u with
    streams := (u.finishing r j js).streams
    write := { u.write with jobs := retargetJobs r 1 js }
    engine := { u.engine with reloc := none } } := by
  unfold State.finishing
  rw [advanceDurable_rest]
  rfl

theorem finishing_streams : (u.finishing r j js).streams =
    (updStream r.stream (fun t => { t with tail := retargetTail r js t.tail })
      (advanceDurable j (u.withJobs (retargetJobs r 1 js)))).streams := rfl

theorem finishing_durable {n : Nat} (hn : j.stream = some n) (hlen : n < u.streams.length) :
    (streamOf (u.finishing r j js) n).durable = j.seqs.foldl Nat.max (streamOf u n).durable := by
  have hadv := advanceDurable_self (s := u.withJobs (retargetJobs r 1 js)) hn hlen
  show (streamOf (setStream _ _ _) n).durable = _
  rw [streamOf_setStream]
  split
  · rename_i hm
    rw [hm.1]
    exact hadv
  · exact hadv

theorem finishing_tail (hlen : r.stream < u.streams.length) :
    (streamOf (u.finishing r j js) r.stream).tail = retargetTail r js (streamOf u r.stream).tail := by
  show (streamOf (setStream _ _ _) r.stream).tail = _
  rw [streamOf_setStream, if_pos ⟨rfl, by rw [advanceDurable_length]; exact hlen⟩]
  exact congrArg (retargetTail r js) (advanceDurable_tails j (u.withJobs (retargetJobs r 1 js)) r.stream)

theorem twoNotices_events {v : State} {a b : Notice} (hc : v.events.holdClear = false) :
    (tellMedia b (addNotice a v)).events.notices = v.events.notices ∧
      (tellMedia b (addNotice a v)).events.fresh =
        v.events.fresh ++ [(noticeRank a.kind, a), (noticeRank b.kind, b)] := by
  rw [addNotice_of hc]
  unfold tellMedia
  rw [addNotice_of (by exact hc), raise_of (by exact hc)]
  exact ⟨rfl, List.append_assoc ..⟩

theorem joinNotice_room {e : EventUnit} {n : Notice} (h : e.notices.length < 8) :
    joinNotice e n = { e with notices := e.notices ++ [n] } := if_pos h

/-- A finished relocation leaves `v`. -/
structure Finished (u v : State) (r : Reloc) (j : Job) (js : List Job) : Prop where
  held : v.held = { u.held with reloc := none }
  guard : v.guard = u.guard
  jobs : v.write.jobs = retargetJobs r 1 js
  deferred : v.sequencer.deferred.length ≤ u.sequencer.deferred.length
  durable : ∀ n, j.stream = some n → n < u.streams.length →
    (streamOf v n).durable = j.seqs.foldl Nat.max (streamOf u n).durable
  tail : r.stream < u.streams.length → (streamOf v r.stream).tail = retargetTail r js (streamOf u r.stream).tail
  raised : u.events.holdClear = false → Raised v .media
  told : u.events.holdClear = false → u.events.fresh = [] → u.sequencer.deferred = [] →
    v.events.notices = u.events.notices ∧ orderByKey v.events.fresh = [retiredNotice r, relocatedNotice r]

theorem finished (hj : u.write.jobs = j :: js) : Finished u (finishRelocation r u) r j js := by
  have hrest := finishing_rest (u := u) (r := r) (j := j) (js := js)
  have hrel := (releaseDeferred_posting (u.finishing r j js)).1
  have hjobs := (releaseDeferred_jobs (u.finishing r j js)).1
  have htails := releaseDeferred_tails (u.finishing r j js)
  have hlength := releaseDeferred_length (u.finishing r j js)
  have hnil := releaseDeferred_nil (s := u.finishing r j js)
  have hguard := (failing_releaseDeferred (u.finishing r j js)).guard
  generalize hv : releaseDeferred (u.finishing r j js) = v at hrel hjobs htails hlength hnil hguard
  have hwork : SameWork v (tellMedia (relocatedNotice r) (addNotice (retiredNotice r) v)) :=
    (addNotice_work ..).trans (tellMedia_work ..)
  have hheld : (tellMedia (relocatedNotice r) (addNotice (retiredNotice r) v)).held = v.held :=
    (tellMedia_held ..).trans (addNotice_held ..)
  have hentry : ∀ n, streamOf (tellMedia (relocatedNotice r) (addNotice (retiredNotice r) v)) n = streamOf v n :=
    fun n => by unfold streamOf; rw [hwork.1]
  have hclear : v.events.holdClear = u.events.holdClear :=
    (congrArg Held.holdClear hrel.held).trans (by rw [hrest]; rfl)
  rw [finishRelocation_eq hj, hv]
  exact
    { held := by rw [hheld, hrel.held, hrest]; rfl
      guard := by rw [tellMedia_rest, addNotice_rest, hguard, hrest]
      jobs := by rw [hwork.2.1, hjobs, hrest]
      deferred := by rw [hwork.2.2]; exact hlength.trans (le_of_eq (by rw [hrest]))
      durable := fun n hn hlen => by rw [hentry, (hrel.entries n).durable]; exact finishing_durable hn hlen
      tail := fun hlen => by rw [hentry, htails]; exact finishing_tail hlen
      raised := fun hc =>
        tellMedia_raised ((congrArg Held.holdClear (addNotice_held (retiredNotice r) v)).trans (hclear.trans hc))
      told := fun hc hfresh hdef => by
        have hve : v.events = u.events := by rw [hnil (by rw [hrest]; exact hdef), hrest]
        obtain ⟨hn, hf⟩ := twoNotices_events (a := retiredNotice r) (b := relocatedNotice r) (hclear.trans hc)
        exact ⟨by rw [hn, hve], by rw [hf, hve, hfresh]; rfl⟩ }

/-- A list of two notices joins a Notice List that has room for them. -/
theorem flushNotices_two {v : State} {a b : Notice} (hf : orderByKey v.events.fresh = [a, b])
    (hl : v.events.notices.length ≤ 6) : (settle v).events.notices = v.events.notices ++ [a, b] := by
  show ((orderByKey v.events.fresh).foldl joinNotice { v.events with fresh := [] }).notices = _
  rw [hf]
  simp only [List.foldl_cons, List.foldl_nil]
  rw [joinNotice_room (e := { v.events with fresh := [] }) (show v.events.notices.length < 8 by omega), joinNotice_room]
  · exact List.append_assoc ..
  · show (v.events.notices ++ [a]).length < 8
    rw [List.length_append, List.length_singleton]
    omega

end

/-! ### The last copy has passed (R107 steps 1 and 2) -/

section

variable {s u : State} {x : Reloc} {p : Program}

/-- The machine whose chain has T in the place of S. -/
def State.replacing (s : State) (x : Reloc) : State :=
  updStream x.stream
    (fun t => { t with
      chain := t.chain.map (fun e => if e.segment = x.segment then { e with segment := x.target } else e) })
    (updSeg x.target (fun e => { e with
      state := .owned, owner := some x.stream, generation := (segOf s x.segment).generation
      isOpen := (segOf s x.segment).isOpen }) s)

/-- The machine whose target has taken the place of S, which is RETIRED and no stream's any more. -/
def State.handedOver (s : State) (x : Reloc) : State :=
  updSeg x.segment (fun e => { e with owner := none, generation := 0 }) (retireSegment x.segment (s.replacing x))

theorem completeCopy_eq (x : Reloc) (s : State) : completeCopy x s =
    if (recordRetirement x.segment true (s.handedOver x)).catalogue.queue.contains (.retire x.segment true) then
      setReloc (some { x with stage := .retiring }) (recordRetirement x.segment true (s.handedOver x))
    else finishRelocation x (recordRetirement x.segment true (s.handedOver x)) := rfl

theorem replacing_rest (s : State) (x : Reloc) :
    s.replacing x = { s with segments := (s.replacing x).segments, streams := (s.replacing x).streams } := rfl

theorem replacing_segments (s : State) (x : Reloc) :
    (s.replacing x).segments = (updSeg x.target (fun e => { e with
      state := .owned, owner := some x.stream, generation := (segOf s x.segment).generation
      isOpen := (segOf s x.segment).isOpen }) s).segments := rfl

theorem replacing_target (s : State) (x : Reloc) : (segOf (s.replacing x) x.target).state = .owned ∧
    (segOf (s.replacing x) x.target).owner = some x.stream ∧
    (segOf (s.replacing x) x.target).generation = (segOf s x.segment).generation := by
  rw [segOf_of (replacing_segments s x), segOf_updSeg_listed]
  · exact ⟨rfl, rfl, rfl⟩
  · exact ne_free_of_state fun he => SegState.noConfusion he

theorem replacing_entry (s : State) (x : Reloc) (n : Nat) :
    (streamOf (s.replacing x) n).durable = (streamOf s n).durable ∧
    (streamOf (s.replacing x) n).tail = (streamOf s n).tail ∧
    (streamOf (s.replacing x) x.stream).chain = (streamOf s x.stream).chain.map
      (fun e => if e.segment = x.segment then { e with segment := x.target } else e) := by
  have hset : ∀ m, streamOf (s.replacing x) m =
      if x.stream = m ∧ x.stream < s.streams.length then { streamOf s x.stream with
        chain := (streamOf s x.stream).chain.map
          (fun e => if e.segment = x.segment then { e with segment := x.target } else e) }
      else streamOf s m := fun m => streamOf_setStream x.stream m _ (updSeg x.target _ s)
  rw [hset, hset]
  refine ⟨?_, ?_, ?_⟩
  · split
    · rename_i hm
      rw [← hm.1]
    · rfl
  · split
    · rename_i hm
      rw [← hm.1]
    · rfl
  · by_cases hlen : x.stream < s.streams.length
    · rw [if_pos ⟨rfl, hlen⟩]
    · rw [if_neg fun h => hlen h.2]
      have hblank : streamOf s x.stream = Stream.blank := List.getD_eq_default _ _ (Nat.not_lt.mp hlen)
      rw [hblank]
      rfl

theorem replacing_length (s : State) (x : Reloc) : (s.replacing x).streams.length = s.streams.length :=
  List.length_set

/-- What the hand-over leaves, beside the segments and the streams. -/
structure HandedOver (s w : State) (x : Reloc) : Prop where
  rest : w = { s with
    segments := w.segments, streams := (s.replacing x).streams, catalogue := w.catalogue, power := w.power
    events := w.events }
  retired : (segOf w x.segment).state = .retired
  unowned : (segOf w x.segment).owner = none
  target : (segOf w x.target).state = .owned ∧ (segOf w x.target).owner = some x.stream ∧
    (segOf w x.target).generation = (segOf s x.segment).generation
  awake : isAwake s = true → isAwake w = true
  holdClear : w.events.holdClear = s.events.holdClear
  bits : ∀ e, Raised s e → Raised w e

theorem handedOver_source (s : State) (x : Reloc) :
    segOf (s.handedOver x) x.segment = { segOf (s.replacing x) x.segment with
      state := .retired, failing := false, isOpen := false, owner := none, generation := 0 } := by
  unfold State.handedOver
  rw [segOf_updSeg_listed, segOf_retireSegment_self]
  rw [segOf_retireSegment_self]
  exact ne_free_of_state fun he => SegState.noConfusion he

theorem handedOver_rest (s : State) (x : Reloc) : s.handedOver x = { s with
    segments := (s.handedOver x).segments, streams := (s.replacing x).streams } := by
  have hv : s.handedOver x = { s.replacing x with segments := (s.handedOver x).segments } := rfl
  exact hv.trans rfl

theorem handedOver (hne : x.target ≠ x.segment) :
    HandedOver s (recordRetirement x.segment true (s.handedOver x)) x := by
  have h := recorded x.segment true (s.handedOver x)
  have hsource := handedOver_source s x
  have htarget : segOf (s.handedOver x) x.target = segOf (s.replacing x) x.target :=
    (segOf_updSeg_other hne).trans (segOf_retireSegment_other hne)
  have hrest := handedOver_rest s x
  generalize hv : s.handedOver x = v at h hsource htarget hrest
  obtain ⟨b, hb⟩ := h.entry (by rw [hsource])
  exact
    { rest := by rw [h.rest, hrest]
      retired := by rw [hb, hsource]
      unowned := by rw [hb, hsource]
      target := by rw [h.others _ hne, htarget]; exact replacing_target s x
      awake := fun ha => h.awake ((isAwake_congr (by rw [hrest]) (by rw [hrest])).trans ha)
      holdClear := h.holdClear.trans (by rw [hrest])
      bits := fun e he => h.bits e (by unfold Raised at he ⊢; rw [hrest]; exact he) }

theorem recordRetirement_ready {g : Nat} {b : Bool} (hs : s.power.state = .awake .ready)
    (hr : s.catalogue.retired.length < 40) :
    recordRetirement g b s = (listRetired g s).withVersion (.retire g b) := by
  have ha : awakeOf s = some .ready := by unfold awakeOf; rw [hs]
  unfold recordRetirement
  rw [ha]
  simp only [if_pos hr, requestVersion_eq]

theorem recordRetirement_restricted {g : Nat} {b : Bool} {c : Cause}
    (hs : s.power.state = .awake (.restricted c)) :
    (recordRetirement g b s).catalogue.queue = s.catalogue.queue := by
  have ha : awakeOf s = some (.restricted c) := by unfold awakeOf; rw [hs]
  unfold recordRetirement
  rw [ha]
  cases c with
  | catalogueLost => dsimp only; split <;> rfl
  | wornOut => rfl

/-- The relocation whose last copy has passed. -/
def copied (x : Reloc) (p : Program) : Reloc := { x with damagedFrames := x.damagedFrames + bitOf p.damaged }

theorem copyPassed_last (hf : x.frame ≤ p.frame) :
    copyPassed x p.frame p s = completeCopy (copied x p) s := by
  unfold copyPassed
  dsimp only
  rw [if_neg (Nat.not_lt.mpr hf)]
  rfl

/-- The event of the last copy, with the body it ends in. -/
theorem exec_lastCopy {v : State} (h : Performs s .relocation (.program p)) (hx : s.engine.reloc = some x)
    (hf : x.frame ≤ p.frame) (hv : completeCopy (copied x p) (programEnded p .pass s) = v)
    (hd : v.sequencer.deferred.length ≤ s.sequencer.deferred.length) :
    exec (.relocationCopyEnd .pass) s = .next (settle (choose v)) :=
  exec_relocationCopyEnd h hx ((copyPassed_last hf).trans hv) hd

end

/-- What the last copy's hand-over shows in the state in which its event ends. -/
structure Replaced (s t : State) (x : Reloc) : Prop where
  retired : (segOf t x.segment).state = .retired ∧ (segOf t x.segment).owner = none
  target : (segOf t x.target).state = .owned ∧ (segOf t x.target).owner = some x.stream ∧
    (segOf t x.target).generation = (segOf s x.segment).generation

section

variable {s w t : State} {x : Reloc} {p : Program}

theorem HandedOver.replaced (h : HandedOver (programEnded p .pass s) w x) (ht : t.segments = w.segments) :
    Replaced s t x := by
  constructor
  · rw [segOf_of ht]
    exact ⟨h.retired, h.unowned⟩
  · rw [segOf_of ht]
    exact h.target

theorem HandedOver.programmed (h : HandedOver (programEnded p .pass s) w x) (hm : t.medium = w.medium)
    (hl : t.engine.lastFail = w.engine.lastFail) (hp : t.engine.prevFail = w.engine.prevFail) :
    Programmed s t p .pass :=
  ⟨hm.trans (by rw [h.rest]; rfl), hl.trans (by rw [h.rest]; rfl), hp.trans (by rw [h.rest]; rfl)⟩

/-- In READY the relocation waits for the version of its retirement (R107). -/
theorem exec_lastCopy_ready (h : Performs s .relocation (.program p)) (hx : s.engine.reloc = some x)
    (hf : x.frame ≤ p.frame) (hne : x.target ≠ x.segment) (hs : s.power.state = .awake .ready)
    (hr : s.catalogue.retired.length < 40) :
    ∃ w t, exec (.relocationCopyEnd .pass) s = .next t ∧
      HandedOver (programEnded p .pass s) w (copied x p) ∧
      w.catalogue.retired = s.catalogue.retired ++ [x.segment] ∧
      w.catalogue.queue = s.catalogue.queue ++ [.retire x.segment true] ∧
      Closed (setReloc (some { copied x p with stage := .retiring }) w) t := by
  have hw := handedOver (s := programEnded p .pass s) (x := copied x p) hne
  have heq := recordRetirement_ready (s := (programEnded p .pass s).handedOver (copied x p)) (g := x.segment)
    (b := true) (by rw [handedOver_rest]; exact hs) (by rw [handedOver_rest]; exact hr)
  have hcat := congrArg State.catalogue (handedOver_rest (programEnded p .pass s) (copied x p))
  have hv := completeCopy_eq (copied x p) (programEnded p .pass s)
  have hseg : (copied x p).segment = x.segment := rfl
  rw [hseg] at hw hv
  generalize (programEnded p .pass s).handedOver (copied x p) = v at hw hv heq hcat
  have hqueue :
      (recordRetirement x.segment true v).catalogue.queue = s.catalogue.queue ++ [.retire x.segment true] := by
    rw [heq]
    exact congrArg (fun c => c.queue ++ [VersionFor.retire x.segment true]) hcat
  have hlist : (recordRetirement x.segment true v).catalogue.retired = s.catalogue.retired ++ [x.segment] := by
    rw [heq]
    exact congrArg (fun c => c.retired ++ [x.segment]) hcat
  generalize recordRetirement x.segment true v = w at hw hv hqueue hlist
  rw [hqueue, if_pos (by simp)] at hv
  refine ⟨w, _, exec_lastCopy h hx hf hv ?_, hw, hlist, hqueue, close_spec _⟩
  show w.sequencer.deferred.length ≤ _
  rw [hw.rest]
  exact le_refl _

end

/-! ### The event that finishes a relocation -/

section

variable {u v : State} {r : Reloc} {j : Job} {js : List Job}

/-- The event has ended in `t`: the relocation is over and the Program Queue resumes. -/
structure Resumed (u t : State) (r : Reloc) (j : Job) (js : List Job) (c : Catalogue) : Prop where
  held : t.held = { u.held with reloc := none, catalogue := c }
  jobs : t.write.jobs = retargetJobs r 1 js
  durable : ∀ n, j.stream = some n → n < u.streams.length →
    (streamOf t n).durable = j.seqs.foldl Nat.max (streamOf u n).durable
  tail : r.stream < u.streams.length → (streamOf t r.stream).tail = retargetTail r js (streamOf u r.stream).tail
  raised : u.events.holdClear = false → Raised t .media
  told : u.events.holdClear = false → u.events.fresh = [] → u.events.notices.length ≤ 6 → guarded u = false →
    u.sequencer.deferred = [] → t.events.notices = u.events.notices ++ [retiredNotice r, relocatedNotice r]

theorem resumed (hf : Finished u v r j js) (c : Catalogue) (hn : NoLockedHead (u.withJobs (retargetJobs r 1 js))) :
    Resumed u (settle (choose { v with catalogue := c })) r j js c := by
  have hc := close_spec { v with catalogue := c }
  have hlock : NoLockedHead { v with catalogue := c } :=
    noLockedHead_of (s := u.withJobs (retargetJobs r 1 js)) hf.guard hf.jobs hn
  have hwork := hc.work hlock
  have hentry : ∀ n, streamOf (settle (choose { v with catalogue := c })) n = streamOf v n := fun n => by
    unfold streamOf
    rw [hwork.1]
  exact
    { held := by rw [hc.held]; exact congrArg (fun h : Held => { h with catalogue := c }) hf.held
      jobs := hwork.2.1.trans hf.jobs
      durable := fun n hj hlen => by rw [hentry]; exact hf.durable n hj hlen
      tail := fun hlen => by rw [hentry]; exact hf.tail hlen
      raised := fun hclear => hc.bits _ (hf.raised hclear)
      told := fun hclear hfresh hlen hg hdef => by
        obtain ⟨hnotices, hkeys⟩ := hf.told hclear hfresh hdef
        have hev := (choose_calm hlock ((guarded_congr (s := u) hf.guard).trans hg)).2
        have hnot : (choose { v with catalogue := c }).events.notices = u.events.notices := by
          rw [hev]; exact hnotices
        rw [flushNotices_two (a := retiredNotice r) (b := relocatedNotice r) (by rw [hev]; exact hkeys)
          (by rw [hnot]; exact hlen), hnot] }

end

section

variable {s : State} {x : Reloc} {p : Program} {j : Job} {js : List Job}

theorem locked_jobs_of {u : State} (hg : u.guard = s.guard) {ks : List Job} (hn : NoLockedHead (s.withJobs ks)) :
    NoLockedHead (u.withJobs ks) := noLockedHead_of (s := s.withJobs ks) hg rfl hn

/-- In RESTRICTED no version is awaited and the relocation is finished in the event of its last copy (R107). -/
theorem exec_lastCopy_restricted {c : Cause} (h : Performs s .relocation (.program p)) (hx : s.engine.reloc = some x)
    (hf : x.frame ≤ p.frame) (hne : x.target ≠ x.segment) (hs : s.power.state = .awake (.restricted c))
    (hj : s.write.jobs = j :: js) (hq : VersionFor.retire x.segment true ∉ s.catalogue.queue)
    (hn : NoLockedHead (s.withJobs (retargetJobs x 1 js))) :
    ∃ w t, exec (.relocationCopyEnd .pass) s = .next t ∧
      HandedOver (programEnded p .pass s) w (copied x p) ∧ Resumed w t (copied x p) j js w.catalogue := by
  have hw := handedOver (s := programEnded p .pass s) (x := copied x p) hne
  have hqueue := recordRetirement_restricted (s := (programEnded p .pass s).handedOver (copied x p)) (g := x.segment)
    (b := true) (c := c) (by rw [handedOver_rest]; exact hs)
  have hcat := congrArg State.catalogue (handedOver_rest (programEnded p .pass s) (copied x p))
  have hv := completeCopy_eq (copied x p) (programEnded p .pass s)
  have hseg : (copied x p).segment = x.segment := rfl
  rw [hseg] at hw hv
  generalize (programEnded p .pass s).handedOver (copied x p) = v at hw hv hqueue hcat
  generalize recordRetirement x.segment true v = w at hw hv hqueue
  rw [hqueue, hcat] at hv
  have hnot : ¬ (programEnded p .pass s).catalogue.queue.contains (.retire x.segment true) = true := by
    rw [List.contains_iff_mem]
    exact hq
  rw [if_neg hnot] at hv
  have hjw : w.write.jobs = j :: js := by rw [hw.rest]; exact hj
  have hfin := finished (r := copied x p) hjw
  have hcatf : (finishRelocation (copied x p) w).catalogue = w.catalogue := congrArg Held.catalogue hfin.held
  generalize finishRelocation (copied x p) w = u at hfin hcatf hv
  have hu : { u with catalogue := w.catalogue } = u := by rw [← hcatf]
  have hlock : NoLockedHead (w.withJobs (retargetJobs (copied x p) 1 js)) := by
    rw [show retargetJobs (copied x p) 1 js = retargetJobs x 1 js from retargetJobs_damaged ..]
    exact locked_jobs_of (by rw [hw.rest]; rfl) hn
  have hres := resumed hfin w.catalogue hlock
  rw [hu] at hres
  exact ⟨w, _, exec_lastCopy h hx hf hv (hfin.deferred.trans (le_of_eq (by rw [hw.rest]; rfl))), hw, hres⟩

/-! ### The version of a retirement is written -/

theorem exec_catalogueProgramEnd {v : State} {w : CatWork} {r : ProgramResult}
    (h : Performs s .catalogue (.program p)) (hw : s.catalogue.work = some w)
    (hv : catalogueProgrammed w r (programEnded p r s) = v)
    (hd : v.sequencer.deferred.length ≤ s.sequencer.deferred.length) :
    exec (.catalogueProgramEnd r) s = .next (settle (choose v)) := by
  show execCatalogueProgramEnd r s = _
  unfold execCatalogueProgramEnd
  rw [h.inProgress]
  have hw' : (programEnded p r s).catalogue.work = some w := hw
  exact congrArg _ (endEvent_of h.awake h.clear (by simp only [hw']; exact hv) hd)

/-- The machine whose version's program has passed: its segment is the active one, and `vs` are still requested. -/
def State.versionPassed (s : State) (p : Program) (w : CatWork) (vs : List VersionFor) : State :=
  { programEnded p .pass s with catalogue := { s.catalogue with
      active := w.segment, top := some w.frame, generation := w.version.generation, queue := vs, work := none } }

theorem catalogueProgrammed_pass {w : CatWork} {v : VersionFor} {vs : List VersionFor}
    (hq : s.catalogue.queue = v :: vs) : catalogueProgrammed w .pass (programEnded p .pass s) =
      handVersion (versionWritten v w.version (s.versionPassed p w vs)) := by
  have hq' : (programEnded p .pass s).catalogue.queue = v :: vs := hq
  simp only [catalogueProgrammed, hq', List.head?_cons, List.drop_one, List.tail_cons]
  rfl

/-- The relocation that waited for this version is finished (R107). -/
theorem exec_retirementWritten {w : CatWork} {vs : List VersionFor} (h : Performs s .catalogue (.program p))
    (hw : s.catalogue.work = some w) (hq : s.catalogue.queue = .retire x.segment true :: vs)
    (hx : s.engine.reloc = some x) (hst : x.stage = .retiring) (hj : s.write.jobs = j :: js)
    (hn : NoLockedHead (s.withJobs (retargetJobs x 1 js))) :
    ∃ c t, exec (.catalogueProgramEnd .pass) s = .next t ∧ Resumed (s.versionPassed p w vs) t x j js c ∧
      c.active = w.segment ∧ c.top = some w.frame ∧ c.generation = w.version.generation ∧ c.queue = vs := by
  have hjw : (s.versionPassed p w vs).write.jobs = j :: js := hj
  have hxw : (s.versionPassed p w vs).engine.reloc = some x := hx
  have hwritten : versionWritten (.retire x.segment true) w.version (s.versionPassed p w vs) =
      finishRelocation x (s.versionPassed p w vs) := by
    simp only [versionWritten, hxw, hst, and_self, if_true]
  have hfin := finished (r := x) hjw
  have hcat : (finishRelocation x (s.versionPassed p w vs)).catalogue = (s.versionPassed p w vs).catalogue :=
    congrArg Held.catalogue hfin.held
  have hv : catalogueProgrammed w .pass (programEnded p .pass s) =
      handVersion (finishRelocation x (s.versionPassed p w vs)) := by rw [catalogueProgrammed_pass hq, hwritten]
  generalize finishRelocation x (s.versionPassed p w vs) = v at hfin hcat hv
  refine ⟨(handVersion v).catalogue, _, exec_catalogueProgramEnd h hw hv hfin.deferred,
    resumed hfin (handVersion v).catalogue (locked_jobs_of rfl hn), ?_, ?_, ?_, ?_⟩
  · show v.catalogue.active = _; rw [hcat]; rfl
  · show v.catalogue.top = _; rw [hcat]; rfl
  · show v.catalogue.generation = _; rw [hcat]; rfl
  · show v.catalogue.queue = _; rw [hcat]; rfl

end

/-! ### A copy fails (R108, R110) -/

section

variable {s u : State} {x : Reloc} {p : Program} {left : Leftover}

/-- The machine whose target has been retired after a failed copy (R108). -/
def State.abandoned (u : State) (x : Reloc) : State :=
  tellMedia { kind := .retired, stream := x.stream, segment := x.target, value := 2, value2 := 0 }
    (recordRetirement x.target true (retireSegment x.target u))

theorem abandoned_retires (u : State) (x : Reloc) : Retires u (u.abandoned x) x.target :=
  ((recorded x.target true (retireSegment x.target u)).trans (recorded_tellMedia _)).retires

theorem exec_copyFailed {v : State} (h : Performs s .relocation (.program p)) (hx : s.engine.reloc = some x)
    (hv : takeTarget x ((programEnded p (.fail left) s).abandoned x) = v)
    (hd : v.sequencer.deferred.length ≤ s.sequencer.deferred.length) :
    exec (.relocationCopyEnd (.fail left)) s = .next (settle (choose v)) :=
  exec_relocationCopyEnd h hx hv hd

/-- The machine whose S is RETIRED and stays in its chain, so marked (R110 step 1). -/
def State.given (u : State) (x : Reloc) : State :=
  recordRetirement x.segment true (updStream x.stream
    (fun t => { t with
      chain := t.chain.map (fun e => if e.segment = x.segment then { e with isRetired := true } else e) })
    (retireSegment x.segment u))

theorem takeTarget_givesUp (h : 2 ≤ x.tried ∨ availableSegs u = []) :
    takeTarget x u = faultStream x.stream x.segment 1 (setReloc none (u.given x)) := by
  unfold takeTarget
  split
  · rfl
  · rename_i hlt
    rw [h.resolve_left hlt]
    rfl

/-- Nothing becomes available by a retirement. -/
theorem Retires.available_nil {w : State} {g : Nat} (h : Retires u w g) (hn : availableSegs u = []) :
    availableSegs w = [] := by
  have hguard : w.guard = u.guard := by rw [h.rest]
  have hlock : ∀ m, locked w m = locked u m := fun m => by unfold locked; rw [hguard]
  unfold availableSegs at hn ⊢
  rw [List.filter_eq_nil_iff] at hn ⊢
  intro m hm
  rw [h.pool] at hm
  rw [hlock]
  exact hn m (List.mem_of_mem_filter hm)

/-- What the giving up leaves before the stream is faulted. -/
structure Given (u w : State) (x : Reloc) : Prop where
  rest : w = { u with
    segments := w.segments, streams := w.streams, catalogue := w.catalogue, power := w.power, events := w.events }
  retired : (segOf w x.segment).state = .retired
  chain : (streamOf w x.stream).chain = (streamOf u x.stream).chain.map
    (fun e => if e.segment = x.segment then { e with isRetired := true } else e)
  length : w.streams.length = u.streams.length
  holdClear : w.events.holdClear = u.events.holdClear

theorem given_spec (hlen : x.stream < u.streams.length) : Given u (u.given x) x := by
  have h := recorded x.segment true (updStream x.stream
    (fun t => { t with
      chain := t.chain.map (fun e => if e.segment = x.segment then { e with isRetired := true } else e) })
    (retireSegment x.segment u))
  have hchain : (streamOf (updStream x.stream
      (fun t => { t with
        chain := t.chain.map (fun e => if e.segment = x.segment then { e with isRetired := true } else e) })
      (retireSegment x.segment u)) x.stream).chain = (streamOf u x.stream).chain.map
      (fun e => if e.segment = x.segment then { e with isRetired := true } else e) := by
    show (streamOf (setStream _ _ _) _).chain = _
    rw [streamOf_setStream, if_pos ⟨rfl, hlen⟩]
    rfl
  have hstate : segOf (updStream x.stream
      (fun t => { t with
        chain := t.chain.map (fun e => if e.segment = x.segment then { e with isRetired := true } else e) })
      (retireSegment x.segment u)) x.segment = segOf (retireSegment x.segment u) x.segment := rfl
  rw [segOf_retireSegment_self] at hstate
  obtain ⟨b, hb⟩ := h.entry (by rw [hstate])
  unfold State.given
  have hr := h.rest
  exact
    { rest := by rw [hr]; rfl
      retired := by rw [hb, hstate]
      chain := by
        rw [← hchain]
        unfold streamOf
        rw [hr]
      length := by rw [hr]; exact List.length_set
      holdClear := h.holdClear }

theorem faultStream_length (n seg cause : Nat) (u : State) :
    (faultStream n seg cause u).sequencer.deferred.length ≤ u.sequencer.deferred.length := by
  unfold faultStream
  refine (releaseDeferred_length _).trans (le_of_eq ?_)
  rw [(raise_work ..).2.2, (addNotice_work ..).2.2]
  exact List.length_map _

theorem faultStream_media (n seg cause : Nat) (hc : u.events.holdClear = false) :
    Raised (faultStream n seg cause u) .media :=
  raised_mono (releaseDeferred_posting _)
    (tellMedia_raised (n := { kind := .faulted, stream := n, segment := seg, value := cause,
                              value2 := (u.write.jobs.filter (fun j => j.stream = some n)).length })
      (s := discarded n u) hc)

/-- The end of an event keeps a FAULTED stream so, and no job joins the queue. -/
theorem close_failing (v : State) {n : Nat} (h : IsFaulted v n) : IsFaulted (settle (choose v)) n ∧
    (settle (choose v)).write.jobs ⊆ v.write.jobs := by
  have hset := settle_work (choose v)
  cases hg : guarded v with
  | true =>
    have hw := (choose_guarded_work hg).1.trans hset
    exact ⟨isFaulted_congr hw.1 h, fun _ hj => hw.2.1 ▸ hj⟩
  | false =>
    have hf := failing_chooseWork 10 hg
    exact ⟨isFaulted_congr hset.1 (hf.faulted n h), fun _ hj => hf.jobs (hset.2.1 ▸ hj)⟩

/-- Relocation cannot succeed: the stream is faulted (R110). -/
structure GivesUp (s t : State) (x : Reloc) (p : Program) (r : ProgramResult) : Prop where
  programmed : Programmed s t p r
  reloc : t.engine.reloc = none
  retired : (segOf t x.segment).state = .retired
  faulted : IsFaulted t x.stream
  chain : (streamOf t x.stream).chain = (streamOf s x.stream).chain.map
    (fun e => if e.segment = x.segment then { e with isRetired := true } else e)
  jobs : ∀ k ∈ t.write.jobs, k.stream ≠ some x.stream
  raised : s.events.holdClear = false → Raised t .media

theorem exec_givesUp (h : Performs s .relocation (.program p)) (hx : s.engine.reloc = some x)
    (hno : 2 ≤ x.tried ∨ availableSegs s = []) (hlen : x.stream < s.streams.length) :
    ∃ t, exec (.relocationCopyEnd (.fail left)) s = .next t ∧ GivesUp s t x p (.fail left) := by
  have ha := abandoned_retires (programEnded p (.fail left) s) x
  have hexec := exec_copyFailed (left := left) h hx rfl
  generalize (programEnded p (.fail left) s).abandoned x = a at ha hexec
  rw [takeTarget_givesUp (hno.imp_right fun hn => ha.available_nil hn)] at hexec
  have hg := given_spec (u := a) (x := x) (by rw [ha.rest]; exact hlen)
  generalize a.given x = w at hg hexec
  have hlenw : x.stream < (setReloc none w).streams.length := by
    show x.stream < w.streams.length
    rw [hg.length, ha.rest]
    exact hlen
  have hclear : w.events.holdClear = s.events.holdClear := hg.holdClear.trans ha.holdClear
  have hpost := (faultStream_posting x.stream x.segment 1 (setReloc none w)).1
  obtain ⟨hfault, hjobs⟩ := faultStream_faults x.segment 1 hlenw
  have hlength := faultStream_length x.stream x.segment 1 (setReloc none w)
  have hmedia := faultStream_media (u := setReloc none w) x.stream x.segment 1
  generalize faultStream x.stream x.segment 1 (setReloc none w) = v at hpost hfault hjobs hlength hmedia hexec
  have hc := close_spec v
  obtain ⟨hfault', hsub⟩ := close_failing v hfault
  have hheld : (settle (choose v)).held = (setReloc none w).held := hc.held.trans hpost.held
  have hmedium : (setReloc none w).held.medium = s.medium.endProgram p (.fail left) := by
    show w.medium = _
    rw [hg.rest, ha.rest]
    rfl
  have hlast : (setReloc none w).held.lastFail = ProgramResult.failed (.fail left) := by
    show w.engine.lastFail = _
    rw [hg.rest, ha.rest]
    rfl
  have hprev : (setReloc none w).held.prevFail = s.engine.lastFail := by
    show w.engine.prevFail = _
    rw [hg.rest, ha.rest]
    rfl
  refine ⟨_, hexec (hlength.trans (le_of_eq ?_)), programmed_of ((congrArg Held.medium hheld).trans hmedium)
    ((congrArg Held.lastFail hheld).trans hlast) ((congrArg Held.prevFail hheld).trans hprev),
    congrArg Held.reloc hheld, ?_, hfault', ?_, fun k hk => (hjobs k (hsub hk)).2,
    fun hcl => hc.bits _ (hmedia (hclear.trans hcl))⟩
  · show w.sequencer.deferred.length = _
    rw [hg.rest, ha.rest]
    rfl
  · rw [segOf_of (congrArg Held.segments hheld)]
    exact hg.retired
  · rw [(hc.entries _).chain, (hpost.entries _).chain]
    refine hg.chain.trans ?_
    rw [show streamOf a x.stream = streamOf s x.stream by unfold streamOf; rw [ha.rest]; rfl]

end

/-- Settles O49: the last copy hands S over, its version or RESTRICTED finishes the relocation, and a failed copy takes
the next target or gives up. -/
theorem relocationCompletesOrGivesUp : Obligations.RelocationCompletesOrGivesUp := by
  unfold Obligations.RelocationCompletesOrGivesUp
  refine ⟨fun s x p hperf hx hf hne => ⟨fun hs hr => ?_, fun c j js hs hj hq hn => ?_⟩, ?_,
    fun s x p left hperf hx => ⟨fun h hs ht hg ha => ?_, fun hno hlen => ?_⟩⟩
  · obtain ⟨w, t, hexec, hw, hlist, hqueue, hc⟩ := exec_lastCopy_ready hperf hx hf hne hs hr
    have hrep := hw.replaced (congrArg Held.segments hc.held)
    have hchain := (replacing_entry (programEnded p .pass s) (copied x p) 0).2.2
    have hstreams : w.streams = ((programEnded p .pass s).replacing (copied x p)).streams := by rw [hw.rest]
    refine ⟨t, hexec, hw.programmed (congrArg Held.medium hc.held) (congrArg Held.lastFail hc.held)
      (congrArg Held.prevFail hc.held), hrep.retired.1, hrep.retired.2, hrep.target.1, hrep.target.2.1, hrep.target.2.2,
      ?_, ?_, ?_, congrArg Held.reloc hc.held, fun hn => ?_⟩
    · rw [(hc.entries _).chain]
      refine Eq.trans ?_ hchain
      show (streamOf w x.stream).chain = _
      unfold streamOf
      rw [hstreams]
      rfl
    · exact (congrArg (fun h : Held => h.catalogue.retired) hc.held).trans hlist
    · exact (congrArg (fun h : Held => h.catalogue.queue) hc.held).trans hqueue
    · have hjobs : w.write.jobs = s.write.jobs := by rw [hw.rest]; rfl
      have hlock : NoLockedHead (setReloc (some { copied x p with stage := .retiring }) w) :=
        noLockedHead_of (by show w.guard = _; rw [hw.rest]; rfl) hjobs hn
      exact (hc.work hlock).2.1.trans hjobs
  · obtain ⟨w, t, hexec, hw, ht⟩ := exec_lastCopy_restricted hperf hx hf hne hs hj hq hn
    have hrep := hw.replaced (congrArg Held.segments ht.held)
    have hlen : w.streams.length = s.streams.length := by
      rw [hw.rest]
      exact replacing_length (programEnded p .pass s) (copied x p)
    have hjobs : t.write.jobs = retargetJobs x 1 js := ht.jobs.trans (retargetJobs_damaged ..)
    refine ⟨t, hexec, hw.programmed (congrArg Held.medium ht.held) (congrArg Held.lastFail ht.held)
      (congrArg Held.prevFail ht.held), hrep.retired.1, hrep.target.1, congrArg Held.reloc ht.held, hjobs,
      hjobs ▸ retargetJobs_length .., hjobs ▸ retargetJobs_segment hne 1, fun n hn hlt => ?_,
      fun hc => ht.raised (hw.holdClear.trans hc)⟩
    rw [ht.durable n hn (hlen ▸ hlt)]
    have hd := (replacing_entry (programEnded p .pass s) (copied x p) n).1
    have hstreams : w.streams = ((programEnded p .pass s).replacing (copied x p)).streams := by rw [hw.rest]
    have hentry : streamOf w n = streamOf ((programEnded p .pass s).replacing (copied x p)) n := by
      unfold streamOf
      rw [hstreams]
    rw [hentry, hd]
    rfl
  · intro s w x p vs j js hperf hw hq hx hst hne hj hn
    obtain ⟨c, t, hexec, ht, hactive, htop, hgen, hqueue⟩ := exec_retirementWritten hperf hw hq hx hst hj hn
    have hcat : t.catalogue = c := congrArg Held.catalogue ht.held
    refine ⟨t, hexec, programmed_of (congrArg Held.medium ht.held) (congrArg Held.lastFail ht.held)
      (congrArg Held.prevFail ht.held), congrArg Held.reloc ht.held, ht.jobs,
      ht.jobs ▸ retargetJobs_length .., ht.jobs ▸ retargetJobs_segment hne 1, ht.durable, fun q hqt hlen => ?_,
      hcat ▸ hactive, hcat ▸ htop, hcat ▸ hgen, hcat ▸ hqueue, ht.raised, ht.told⟩
    have htail : (streamOf t x.stream).tail = retargetTail x js (.pos q) := (ht.tail hlen).trans (congrArg _ hqt)
    rw [htail]
    exact retargetTail_pos q
  · have hw := abandoned_retires (programEnded p (.fail left) s) x
    have hexec := exec_copyFailed (left := left) hperf hx rfl
    generalize (programEnded p (.fail left) s).abandoned x = w at hw hexec
    rw [takeTarget_takes ht ((hw.available hg).trans ha), taking_sequencer] at hexec
    have htake := takesTarget w x h
    refine ⟨_, hexec (by rw [hw.rest]; exact le_refl _), programmed_of ((congrArg Held.medium htake.held).trans ?_)
      ((congrArg Held.lastFail htake.held).trans ?_) ((congrArg Held.prevFail htake.held).trans ?_), ?_, htake.taken,
      ⟨_, congrArg Held.reloc htake.held⟩⟩
    · rw [hw.rest]; rfl
    · rw [hw.rest]; rfl
    · rw [hw.rest]; rfl
    · rw [htake.others _ (ne_of_available hg ha).symm]
      exact hw.retired
  · obtain ⟨t, hexec, ht⟩ := exec_givesUp (left := left) hperf hx hno hlen
    exact ⟨t, hexec, ht.programmed, ht.reloc, ht.retired, ht.faulted.1, ht.faulted.2, ht.chain, ht.jobs, ht.raised⟩

end Sys2Proof.Machine

/-!
PROOFS. The ends of the erases of free segments (R58, R101, R102): the allocation erase of a COMMIT, also as the
background erase that it found in progress, and the background erase of a segment in the pool.
-/

namespace Sys2Proof.Machine

open Sys2Proof

/-! ### The erase a COMMIT waits for -/

section

variable {s : State} {d : Dispatched} {n g gen : Nat} {attr : Byte} {r : EraseResult}

/-- The machine whose erase has ended: its medium and its engine alone differ. -/
structure Erased (s b : State) (g : Nat) (r : EraseResult) : Prop where
  rest : b = { s with medium := b.medium, engine := b.engine }
  medium : b.medium = s.medium.endErase g r

theorem allocating_of {b : State} (hb : Erased s b g r) (hd : s.sequencer.dispatched = some d)
    (hp : d.phase = .allocating g gen) (hc : d.cmd = .commit n attr) : allocating g b = some (d, n, attr, gen) := by
  have hd' : b.sequencer.dispatched = some d := by rw [hb.rest]; exact hd
  simp only [allocating, hd', hp, hc, if_true]

/-- Either row tells the COMMIT of the erase it waits for (R54, R101). -/
theorem exec_eraseOfCommit {i : EraseResult → Instr} {who : Requester}
    (hi : i = .allocationEraseEnd ∧ who = .sequencer ∨ i = .backgroundEraseEnd ∧ who = .background)
    (h : Performs s who (.erase g)) (hd : s.sequencer.dispatched = some d) (hp : d.phase = .allocating g gen)
    (hc : d.cmd = .commit n attr) (r : EraseResult) :
    ∃ b, Erased s b g r ∧ ∀ v, allocationErased d n attr gen g r.failed b = v →
      v.sequencer.deferred.length ≤ s.sequencer.deferred.length → exec (i r) s = .next (settle (choose v)) := by
  have hb : Erased s (eraseEnded g r s) g r := ⟨rfl, rfl⟩
  have halloc := allocating_of hb hd hp hc
  rcases hi with ⟨rfl, rfl⟩ | ⟨rfl, rfl⟩
  · refine ⟨_, hb, fun v hv hlen => ?_⟩
    show execAllocationEraseEnd r s = _
    unfold execAllocationEraseEnd
    rw [h.inProgress]
    exact congrArg _ (endEvent_of h.awake h.clear (by simp only [halloc]; exact hv) hlen)
  · refine ⟨dropRequest (eraseEnded g r s), ⟨rfl, rfl⟩, fun v hv hlen => ?_⟩
    show execBackgroundEraseEnd r s = _
    unfold execBackgroundEraseEnd
    rw [h.inProgress]
    refine congrArg _ (endEvent_of h.awake h.clear ?_ hlen)
    cases hr : r.failed with
    | false =>
      rw [hr] at hv
      simp only [Bool.false_eq_true, if_false, backgroundPassed, halloc]
      exact hv
    | true =>
      rw [hr] at hv
      simp only [if_true, backgroundFailed, halloc]
      exact hv

end

section

variable {s b : State} {d : Dispatched} {n g gen : Nat} {attr : Byte} {r : EraseResult}

/-- The segment is the stream's, with the record at its start (R101 steps 3 and 4). -/
structure Opened (s u : State) (n g gen : Nat) (attr : Byte) : Prop where
  medium : u.medium = s.medium.erase g
  segment : segOf u g = { segOf s g with
    state := .owned, owner := some n, generation := gen, isOpen := true, weak := false }
  stream : streamOf u n = { takenStream (streamOf s n) gen g
    (.pos (tailWith (tailAt g 0) ((streamOf s n).newest + 1) (recordBytes s n attr))) with state := .opened }
  write : u.write = { staging := none, jobs := s.write.jobs }
  deferred : u.sequencer.deferred = s.sequencer.deferred

/-- A passed erase completes the COMMIT whose record is below one frame, under LAZY. -/
theorem allocationErased_places (hb : Erased s b g .pass) (hn : n < s.streams.length) (he : d.eager = false)
    (hst : (segOf s g).state = .taken) (hnew : (streamOf s n).newest < 4294967294)
    (hlen : 16 + (stagedPayload s).length < 512) (ht : takesRecords (streamOf s n) = true) :
    ∃ u, allocationErased d n attr gen g false b =
        complete d { result := .done, value := (streamOf s n).newest + 1, aux := (streamOf s n).durable } u ∧
      Opened s u n g gen attr := by
  have hstream : streamOf (clearWeak g b) n = streamOf s n := by
    show streamOf b n = _
    unfold streamOf
    rw [hb.rest]
  have hpay : stagedPayload (clearWeak g b) = stagedPayload s := by
    unfold stagedPayload
    rw [show (clearWeak g b).write = s.write by show b.write = _; rw [hb.rest]]
  have htime : (clearWeak g b).time = s.time := by show b.time = _; rw [hb.rest]
  have hbytes : recordBytes (clearWeak g b) n attr = recordBytes s n attr := by
    simp only [recordBytes, buildHeader, hstream, hpay, htime]
  have hstreams : (clearWeak g b).streams = s.streams := by show b.streams = _; rw [hb.rest]
  have hwrite : (clearWeak g b).write = s.write := by show b.write = _; rw [hb.rest]
  have hseq : (clearWeak g b).sequencer = s.sequencer := by show b.sequencer = _; rw [hb.rest]
  have hseg : segOf (clearWeak g b) g = { segOf s g with weak := false } := by
    have hb' : segOf b g = segOf s g := segOf_of (by rw [hb.rest])
    rw [clearWeak, segOf_updSeg_listed, hb']
    rw [hb']
    exact ne_free_of_state fun he => SegState.noConfusion (hst.symm.trans he)
  have hmed : (clearWeak g b).medium = s.medium.erase g := hb.medium
  have hrun := placeInNewSegment_within (d := d) (s := clearWeak g b) (gen := gen) (g := g) (attr := attr)
    (free := true) (hstreams ▸ hn) he (hpay.symm ▸ hlen) (hstream.symm ▸ hnew) (hstream.symm ▸ ht)
  rw [hstream, hbytes] at hrun
  have heq : allocationErased d n attr gen g false b = placeInNewSegment d n attr gen g true (clearWeak g b) := rfl
  generalize clearWeak g b = c at hrun hseg hmed heq hstreams hwrite hseq
  refine ⟨_, heq.trans hrun, hmed, ?_, ?_, ?_, congrArg Sequencer.deferred hseq⟩
  · have hne : ownedSeg (segOf c g) n gen ≠ SegEntry.free := ne_free_of_state fun he => SegState.noConfusion he
    refine (segOf_updSeg_listed (f := fun e => ownedSeg e n gen) hne).trans ?_
    rw [hseg]
    rfl
  · exact streamOf_withStream (s := (updSeg g (fun e => ownedSeg e n gen) c).withStaging none)
      (show n < c.streams.length from hstreams ▸ hn) _
  · show ({ staging := none, jobs := c.write.jobs ++ [] } : WritePath) = _
    rw [hwrite, List.append_nil]

/-- In READY a retirement found by an erase requests its version, and the segment joins the retired list (R111). -/
theorem retireErased_ready (hs : b.power.state = .awake .ready) (hr : b.catalogue.retired.length < 40) :
    (retireErased g false b).catalogue.retired = b.catalogue.retired ++ [g] ∧
      (retireErased g false b).catalogue.queue = b.catalogue.queue ++ [.retire g false] := by
  have heq : (retireErased g false b).catalogue = (recordRetirement g false (retireSegment g b)).catalogue :=
    congrArg Held.catalogue (tellMedia_held _ _)
  rw [heq, recordRetirement_ready (s := retireSegment g b) hs hr]
  exact ⟨rfl, rfl⟩

theorem Erased.streamOf (hb : Erased s b g r) (m : Nat) : streamOf b m = streamOf s m := by
  unfold Machine.streamOf
  rw [hb.rest]

/-- The COMMIT takes the next available segment and requests its erase (R101). -/
structure TakesNext (s t : State) (d : Dispatched) (g gen h : Nat) (r : EraseResult) : Prop where
  medium : t.medium = s.medium.endErase g r
  dispatched : t.sequencer.dispatched = some { d with phase := .allocating h gen }
  asked : Asked t { who := .sequencer, op := .erase h }
  retired : (segOf t g).state = .retired
  taken : (segOf t h).state = .taken
  list : t.catalogue.retired = s.catalogue.retired ++ [g]
  queue : t.catalogue.queue = s.catalogue.queue ++ [.retire g false]

theorem allocationErased_next {h : Nat} {hs : List Nat} (hb : Erased s b g r) (hg : g ∉ s.segments.pool)
    (hst : s.power.state = .awake .ready) (hr : s.catalogue.retired.length < 40) (ha : availableSegs s = h :: hs)
    (hstale : (segOf s h).state = .freeStale) :
    ∃ v, allocationErased d n attr gen g true b = v ∧ v.sequencer.deferred = s.sequencer.deferred ∧
      TakesNext s (settle (choose v)) d g gen h r := by
  obtain ⟨hw, -⟩ := retires_retireErased g false b
  obtain ⟨hlist, hqueue⟩ := retireErased_ready (b := b) (g := g) (by rw [hb.rest]; exact hst)
    (by rw [hb.rest]; exact hr)
  have hgb : g ∉ b.segments.pool := by rw [hb.rest]; exact hg
  have hab : availableSegs b = h :: hs := by rw [← ha]; exact availableSegs_of (by rw [hb.rest]) (by rw [hb.rest])
  have hne : h ≠ g := ne_of_available hgb hab
  have hsb : segOf b h = segOf s h := segOf_of (by rw [hb.rest])
  have heq : allocationErased d n attr gen g true b = allocate d n attr gen true (retireErased g false b) := rfl
  generalize retireErased g false b = w at hw hlist hqueue heq
  rw [allocate_stale ((hw.available hgb).trans hab) (by rw [hw.others h hne, hsb]; exact hstale)] at heq
  have hc := close_spec (setPhase d (.allocating h gen) ((takeSegment h w).withRequest .sequencer (.erase h)))
  have hseg : ∀ m, segOf (settle (choose (setPhase d (.allocating h gen)
      ((takeSegment h w).withRequest .sequencer (.erase h))))) m = segOf (takeSegment h w) m :=
    fun m => segOf_of (congrArg Held.segments hc.held)
  refine ⟨_, heq, ?_, ⟨(congrArg Held.medium hc.held).trans ?_, congrArg Held.dispatched hc.held, hc.asked _ rfl, ?_,
    ?_, (congrArg (fun x : Held => x.catalogue.retired) hc.held).trans ?_,
    (congrArg (fun x : Held => x.catalogue.queue) hc.held).trans ?_⟩⟩
  · show w.sequencer.deferred = _
    rw [hw.rest, hb.rest]
  · show w.medium = _
    rw [hw.rest, ← hb.medium]
  · rw [hseg, segOf_takeSegment_other hne.symm]
    exact hw.retired
  · rw [hseg, segOf_takeSegment_self]
  · show w.catalogue.retired = _
    rw [hlist, hb.rest]
  · show w.catalogue.queue = _
    rw [hqueue, hb.rest]

/-- The COMMIT for which no segment is left completes MEDIUM, its record still staged (R101 step 5). -/
structure FailsFull (s t : State) (d : Dispatched) (n g : Nat) : Prop where
  dispatched : t.sequencer.dispatched = none
  posted : Posts s t (completionOf d.tag d.opcode (cmdDetail d.cmd) d.abortLate
    { result := .medium, aux := (streamOf s n).durable })
  staging : t.write.staging = s.write.staging.map (fun x => { x with owned := false })
  newest : (streamOf t n).newest = (streamOf s n).newest
  retired : (segOf t g).state = .retired

theorem SameEntry.newest {a b : Stream} (h : SameEntry a b) : b.newest = a.newest := by
  unfold SameEntry at h
  rw [h]

theorem allocationErased_none (hb : Erased s b g r) (ha : availableSegs s = []) :
    ∃ v, allocationErased d n attr gen g true b = v ∧ v.sequencer.deferred = s.sequencer.deferred ∧
      FailsFull s (settle (choose v)) d n g := by
  obtain ⟨hw, -⟩ := retires_retireErased g false b
  have hab : availableSegs b = [] := by rw [← ha]; exact availableSegs_of (by rw [hb.rest]) (by rw [hb.rest])
  have heq : allocationErased d n attr gen g true b = allocate d n attr gen true (retireErased g false b) := rfl
  generalize retireErased g false b = w at hw heq
  have hfail : allocate d n attr gen true w = allocationFailed d n w := by
    unfold allocate
    rw [hw.available_nil hab]
  have hdurable : (streamOf w n).durable = (streamOf s n).durable := by
    rw [← hb.streamOf]
    unfold Machine.streamOf
    rw [hw.rest]
  have hentry : ∀ m, streamOf w m = streamOf s m := fun m => by
    rw [← hb.streamOf]
    unfold Machine.streamOf
    rw [hw.rest]
  have hrun : allocationFailed d n w = enterFull n .noSpace
      (complete d { result := .medium, value := 0, aux := (streamOf w n).durable }
        (w.withStaging (w.write.staging.map (fun x => { x with owned := false })))) := rfl
  rw [hentry] at hrun
  obtain ⟨hheld, hwork, ⟨k, hk⟩, hrec, -, -⟩ := complete_spec d
    { result := .medium, value := 0, aux := (streamOf s n).durable }
    (w.withStaging (w.write.staging.map (fun x => { x with owned := false })))
  generalize complete d { result := .medium, value := 0, aux := (streamOf s n).durable }
    (w.withStaging (w.write.staging.map (fun x => { x with owned := false }))) = c at hheld hwork hk hrec hrun
  have hpost := (enterFull_posting n .noSpace c).1
  have hjobs := enterFull_jobs n .noSpace c
  generalize enterFull n .noSpace c = v at hpost hjobs hrun
  have hc := close_spec v
  have hall : (settle (choose v)).held = { (w.withStaging (w.write.staging.map
      (fun x => { x with owned := false }))).held with dispatched := none } := (hc.held.trans hpost.held).trans hheld
  have hstream : streamOf c n = streamOf s n := by
    rw [← hentry]
    unfold Machine.streamOf
    rw [hwork.1]
    rfl
  refine ⟨v, (heq.trans hfail).trans hrun, ?_, congrArg Held.dispatched hall,
    posts_of_fresh (hpost.records.trans (hrec.trans ?_)) (hpost.completions.subset hk),
    (congrArg Held.staging hall).trans ?_, ?_, ?_⟩
  · rw [hjobs.2, hwork.2.2]
    show w.sequencer.deferred = _
    rw [hw.rest, hb.rest]
  · show w.cpl.records = _
    rw [hw.rest, hb.rest]
  · show w.write.staging.map _ = _
    rw [hw.rest, hb.rest]
  · rw [((hpost.entries n).trans (hc.entries n)).newest, hstream]
  · rw [segOf_of (congrArg Held.segments hall)]
    exact hw.retired

end

/-! ### A background erase in the pool (R58, R102) -/

section

variable {s : State} {g : Nat} {r : EraseResult}

theorem exec_backgroundEraseEnd {v : State} (h : Performs s .background (.erase g))
    (hv : (if r.failed then backgroundFailed g else backgroundPassed g) (eraseEnded g r s) = v)
    (hd : v.sequencer.deferred = s.sequencer.deferred) :
    exec (.backgroundEraseEnd r) s = .next (settle (choose v)) := by
  show execBackgroundEraseEnd r s = _
  unfold execBackgroundEraseEnd
  rw [h.inProgress]
  exact congrArg _ (endEvent_of h.awake h.clear hv (Nat.le_of_eq (congrArg _ hd)))

variable (ha : allocating g s = none) (he : erasingTarget g s = none)
include ha he

theorem backgroundPassed_pool (hst : (segOf s g).state = .freeStale) :
    backgroundPassed g (eraseEnded g .pass s) =
      updSeg g (fun _ => { segOf s g with state := .freeErased, weak := false }) (eraseEnded g .pass s) := by
  have ha' : allocating g (eraseEnded g .pass s) = none := ha
  have he' : erasingTarget g (eraseEnded g .pass s) = none := he
  have hseg : segOf (eraseEnded g .pass s) g = segOf s g := rfl
  simp only [backgroundPassed, ha', he', updSeg, hseg, hst, if_true]

theorem backgroundFailed_pool :
    backgroundFailed g (eraseEnded g r s) = retireErased g false (eraseEnded g r s) := by
  have ha' : allocating g (eraseEnded g r s) = none := ha
  have he' : erasingTarget g (eraseEnded g r s) = none := he
  simp only [backgroundFailed, ha', he']

end

/-- Settles O50: the erase a COMMIT waits for opens its segment or retires it, and one in the pool frees it or retires
it. -/
theorem erasesOfFreeSegmentsEnd : Obligations.ErasesOfFreeSegmentsEnd := by
  unfold Obligations.ErasesOfFreeSegmentsEnd
  refine ⟨fun i who hi s d n g gen attr hperf hd hp hc hn => ⟨fun hst he hnew hlen ht => ?_,
    fun frames h hs hg hready hr ha hstale => ?_, fun frames ha => ?_⟩,
    fun s g hmed hperf ha he => ⟨fun hst => ?_, fun frames hs hr => ?_⟩⟩
  · obtain ⟨b, hb, hexec⟩ := exec_eraseOfCommit hi hperf hd hp hc .pass
    obtain ⟨u, hu, hopen⟩ := allocationErased_places (d := d) (gen := gen) (attr := attr) hb hn he hst hnew hlen ht
    refine ⟨u, ends (hexec _ hu (Nat.le_of_eq (congrArg _ ((complete_work ..).2.2.trans hopen.deferred))))
      rfl rfl rfl rfl rfl rfl rfl rfl, hopen.medium, hopen.segment, hopen.stream.trans ?_, hopen.write⟩
    simp only [takenStream, List.isEmpty_iff]
  · obtain ⟨b, hb, hexec⟩ := exec_eraseOfCommit hi hperf hd hp hc (.fail frames)
    obtain ⟨v, hv, hdef, ht⟩ := allocationErased_next (d := d) (n := n) (gen := gen) (attr := attr) hb hg hready hr ha
      hstale
    exact ⟨_, hexec v hv (Nat.le_of_eq (congrArg _ hdef)), ht.medium, ht.dispatched, ht.asked, ht.retired, ht.taken,
      ht.list, ht.queue⟩
  · obtain ⟨b, hb, hexec⟩ := exec_eraseOfCommit hi hperf hd hp hc (.fail frames)
    obtain ⟨v, hv, hdef, ht⟩ := allocationErased_none (d := d) (n := n) (gen := gen) (attr := attr) hb ha
    exact ⟨_, hexec v hv (Nat.le_of_eq (congrArg _ hdef)), ht.dispatched, ht.posted, ht.staging, ht.newest, ht.retired⟩
  · have hc := close_spec (updSeg g (fun _ => { segOf s g with state := .freeErased, weak := false })
      (eraseEnded g .pass s))
    refine ⟨_, exec_backgroundEraseEnd hperf (backgroundPassed_pool ha he hst) rfl, congrArg Held.medium hc.held, ?_,
      congrArg (fun x : Held => x.segments.pool) hc.held, fun hn => hc.work hn⟩
    rw [segOf_of (congrArg Held.segments hc.held)]
    exact segOf_setSeg_self (s := eraseEnded g .pass s) hmed.map
  · obtain ⟨hw, hm⟩ := retires_retireErased g false (eraseEnded g (.fail frames) s)
    obtain ⟨-, hqueue⟩ := retireErased_ready (b := eraseEnded g (.fail frames) s) (g := g) hs hr
    have hexec := exec_backgroundEraseEnd (r := .fail frames) hperf (backgroundFailed_pool ha he)
    generalize retireErased g false (eraseEnded g (.fail frames) s) = w at hw hm hqueue hexec
    have hc := close_spec w
    refine ⟨_, hexec (by rw [hw.rest]; rfl), ?_, ?_,
      (congrArg (fun x : Held => x.catalogue.queue) hc.held).trans hqueue, fun hcl => hc.bits _ (hm hcl)⟩
    · rw [segOf_of (congrArg Held.segments hc.held)]
      exact hw.retired
    · exact (congrArg (fun x : Held => x.segments.pool) hc.held).trans hw.pool

end Sys2Proof.Machine

/-!
PROOFS. The catalogue writer (R46, R67, R68, R111, R112, R134, R135): what a version brings when its program passes, the
streams that are left, its other ends, and its building.
-/

namespace Sys2Proof.Machine

open Sys2Proof

/-! ### Streams are left (R68, R104, R134) -/

section

variable {s : State} {n m : Nat} {t : Stream}

theorem dropRetired_rest (es : List ChainEntry) (s : State) :
    dropRetired es s = { s with segments := (dropRetired es s).segments } ∧
      (dropRetired es s).segments.pool = s.segments.pool := by
  induction es generalizing s with
  | nil => exact ⟨rfl, rfl⟩
  | cons e es ih =>
    obtain ⟨hrest, hpool⟩ := ih (updSeg e.segment (fun g => { g with owner := none, generation := 0 }) s)
    unfold dropRetired
    exact ⟨by rw [hrest]; rfl, hpool⟩

/-- The segments a stream releases when it is left, oldest first. -/
def leftSegments (t : Stream) : List Nat := (releasable t).map (fun e => e.segment)

/-- Streams have been left: the segments and the streams alone differ, and what was released joined the pool. -/
structure Leaves (ns : List Nat) (s u : State) : Prop where
  rest : u = { s with segments := u.segments, streams := u.streams }
  length : u.streams.length = s.streams.length
  left : ∀ m ∈ ns, streamOf u m = leftStream (streamOf s m)
  others : ∀ m, m ∉ ns → streamOf u m = streamOf s m
  pool : u.segments.pool = s.segments.pool ++ ns.flatMap (fun m => leftSegments (streamOf s m))

theorem leftStream_blank : leftStream Stream.blank = Stream.blank := rfl

theorem leaveStream_leaves (n : Nat) (s : State) : Leaves [n] s (leaveStream n s) := by
  obtain ⟨hrest, hpool⟩ := dropRetired_rest ((streamOf s n).chain.filter (fun e => e.isRetired))
    (releaseAll (releasable (streamOf s n)) s)
  have hdef : leaveStream n s = setStream n (leftStream (streamOf s n))
    (dropRetired ((streamOf s n).chain.filter (fun e => e.isRetired)) (releaseAll (releasable (streamOf s n)) s)) := rfl
  rw [releaseAll_eq] at hrest hpool hdef
  rw [hrest] at hdef
  have hof : ∀ m, streamOf (leaveStream n s) m =
      if n = m ∧ n < s.streams.length then leftStream (streamOf s n) else streamOf s m := fun m => by
    rw [hdef]
    exact streamOf_setStream n m _ _
  refine ⟨by rw [hdef]; rfl, by rw [hdef]; exact List.length_set, fun m hm => ?_, fun m hm => ?_, ?_⟩
  · obtain rfl := List.mem_singleton.mp hm
    rw [hof]
    split
    · rfl
    · rename_i h
      have hblank : streamOf s m = Stream.blank :=
        List.getD_eq_default _ _ (Nat.not_lt.mp fun hlt => h ⟨rfl, hlt⟩)
      rw [hblank, leftStream_blank]
  · rw [hof, if_neg]
    exact fun h => hm (List.mem_singleton.mpr h.1.symm)
  · rw [hdef]
    refine hpool.trans ((releasedSegments_pool ..).trans ?_)
    simp [leftSegments]

theorem leaveStreams_leaves {ns : List Nat} (hns : ns.Nodup) (s : State) : Leaves ns s (leaveStreams ns s) := by
  induction ns generalizing s with
  | nil => exact ⟨rfl, rfl, fun m hm => absurd hm List.not_mem_nil, fun _ _ => rfl, by simp [leaveStreams]⟩
  | cons n ns ih =>
    obtain ⟨hn, hns⟩ := List.nodup_cons.mp hns
    have h := leaveStream_leaves n s
    have k := ih hns (leaveStream n s)
    unfold leaveStreams
    have hsame : ∀ m ∈ ns, streamOf (leaveStream n s) m = streamOf s m := fun m hm =>
      h.others m fun he => hn (List.mem_singleton.mp he ▸ hm)
    refine ⟨by rw [k.rest, h.rest], k.length.trans h.length, fun m hm => ?_, fun m hm => ?_, ?_⟩
    · rcases List.mem_cons.mp hm with rfl | hm
      · rw [k.others m hn, h.left m List.mem_cons_self]
      · rw [k.left m hm, hsame m hm]
    · obtain ⟨hmn, hms⟩ := not_or.mp (List.mem_cons.not.mp hm)
      rw [k.others m hms, h.others m fun he => hmn (List.mem_singleton.mp he)]
    · rw [k.pool, h.pool, List.flatMap_cons, List.append_assoc]
      congr 2
      · simp
      · exact List.flatMap_congr fun m hm => by rw [hsame m hm]

/-! ### A stream that keeps no record, and one that is archived -/

theorem keptDefinition_none (h : ∀ x, t.defn = some x → x.archived = false) (hs : ∀ e ∈ t.chain, e.isSealed = false) :
    keptDefinition t = none := by
  unfold keptDefinition
  cases hd : t.defn with
  | none => rfl
  | some d =>
    have hany : t.chain.any (fun e => e.isSealed) = false := by
      rw [List.any_eq_false]
      exact fun e he => by rw [hs e he]; exact Bool.false_ne_true
    simp [h d hd, hany]

theorem keptDefinition_some {x : Definition} (hd : t.defn = some x)
    (h : x.archived = true ∨ ∃ e ∈ t.chain, e.isSealed = true) :
    keptDefinition t = some { x with archived := true } := by
  unfold keptDefinition
  rw [hd]
  have hc : (x.archived || t.chain.any (fun e => e.isSealed)) = true := by
    rw [Bool.or_eq_true, List.any_eq_true]
    exact h
  simp only [hc, if_true]

theorem keptDefinition_eq {x : Definition} (hd : t.defn = some x) : keptDefinition t =
    if x.archived = true ∨ ∃ e ∈ t.chain, e.isSealed = true then some { x with archived := true } else none := by
  split
  · rename_i h
    exact keptDefinition_some hd h
  · rename_i h
    obtain ⟨ha, hs⟩ := not_or.mp h
    refine keptDefinition_none (fun y hy => ?_) fun e he => ?_
    · rw [← Option.some.inj (hd.symm.trans hy)]
      exact Bool.eq_false_iff.mpr ha
    · exact Bool.eq_false_iff.mpr fun h1 => hs ⟨e, he, h1⟩

theorem keptDefinition_isSome_iff : (keptDefinition t).isSome = true ↔
    ∃ y, t.defn = some y ∧ (y.archived = true ∨ ∃ e ∈ t.chain, e.isSealed = true) := by
  cases hd : t.defn with
  | none =>
    unfold keptDefinition
    rw [hd]
    exact ⟨fun h => absurd h Bool.false_ne_true, fun ⟨_, hy, _⟩ => of_none_eq_some hy⟩
  | some x =>
    rw [keptDefinition_eq hd]
    constructor
    · intro h
      refine ⟨x, rfl, ?_⟩
      by_contra hn
      rw [if_neg hn] at h
      exact Bool.false_ne_true h
    · rintro ⟨y, hy, hk⟩
      obtain rfl := Option.some.inj hy
      rw [if_pos hk]
      rfl

theorem leftStream_none (h : keptDefinition t = none) : leftStream t = Stream.blank := by
  unfold leftStream
  rw [h]

/-- An archived stream keeps its sealed segments alone (R68, R94). -/
structure Archived (a t : Stream) (d : Definition) : Prop where
  state : a.state = .archived
  defn : a.defn = some d
  chain : a.chain = t.chain.filter (fun e => e.isSealed)
  tail : a.tail = .none
  newest : a.newest = ((a.chain.getLast?).map (fun e => e.last)).getD 0
  durable : a.durable = a.newest
  cursor : 1 ≤ a.oldest → a.oldest ≤ a.newest → a.cursor = a.oldest

theorem leftStream_some {d : Definition} (h : keptDefinition t = some d) : Archived (leftStream t) t d := by
  unfold leftStream
  rw [h]
  refine ⟨rfl, rfl, rfl, rfl, rfl, rfl, fun h1 h2 => ?_⟩
  dsimp only at h1 h2 ⊢
  unfold cursorAtOldest holdsRecord
  rw [if_pos (by simp only [Bool.and_eq_true, decide_eq_true_eq]; exact ⟨h1, h2⟩)]

theorem releasable_unsealed (hs : ∀ e ∈ t.chain, e.isSealed = false) :
    releasable t = t.chain.filter (fun e => !e.isRetired) := by
  unfold releasable
  exact List.filter_congr fun e he => by rw [hs e he]; rfl

end

/-! ### A table of eight streams -/

section

variable {s u : State}

theorem streams_eq_range (h : s.streams.length = 8) : s.streams = (List.range 8).map (streamOf s) := by
  refine List.ext_getElem (by simp [h]) fun i h1 h2 => ?_
  simp only [List.getElem_map, List.getElem_range, streamOf]
  exact (List.getD_eq_getElem _ _ h1).symm

theorem mem_streams {x : Stream} (h : x ∈ s.streams) : ∃ m, x = streamOf s m := by
  obtain ⟨i, hi, rfl⟩ := List.getElem_of_mem h
  exact ⟨i, (List.getD_eq_getElem _ _ hi).symm⟩

theorem range_nodup : (List.range 8).Nodup := List.nodup_range

/-- All eight streams are left. -/
theorem Leaves.streams (h : Leaves (List.range 8) s u) (hl : s.streams.length = 8) :
    u.streams = s.streams.map leftStream := by
  rw [streams_eq_range (h.length.trans hl), streams_eq_range hl, List.map_map]
  exact List.map_congr_left fun m hm => h.left m hm

theorem Leaves.entry (h : Leaves (List.range 8) s u) (hl : s.streams.length = 8) (m : Nat) :
    streamOf u m = leftStream (streamOf s m) := by
  by_cases hm : m < 8
  · exact h.left m (List.mem_range.mpr hm)
  · have hblank : streamOf s m = Stream.blank := List.getD_eq_default _ _ (by omega)
    rw [h.others m fun hr => hm (List.mem_range.mp hr), hblank, leftStream_blank]

theorem Leaves.pool_all (h : Leaves (List.range 8) s u) (hl : s.streams.length = 8) :
    u.segments.pool = s.segments.pool ++ (s.streams.flatMap releasable).map (fun e => e.segment) := by
  rw [h.pool, streams_eq_range hl, List.flatMap_map, List.map_flatMap]
  rfl

/-- As many streams are ARCHIVED then as kept a definition. -/
theorem archived_count (l : List Stream) {keeps : Stream → Bool}
    (hk : ∀ x, keeps x = true ↔ (keptDefinition x).isSome = true) :
    ((l.map leftStream).filter (fun t => t.state = .archived)).length = l.countP keeps := by
  rw [← List.countP_eq_length_filter, List.countP_map]
  refine List.countP_congr fun x _ => ?_
  rw [hk]
  cases hd : keptDefinition x with
  | none =>
    rw [Function.comp_apply, leftStream_none hd]
    exact ⟨fun h => absurd h (by decide), fun h => absurd h Bool.false_ne_true⟩
  | some d =>
    rw [Function.comp_apply, (leftStream_some hd).state]
    exact ⟨fun _ => rfl, fun _ => by decide⟩

end

/-! ### A version's program passes: the command that asked for it completes -/

section

variable {s y : State} {d : Dispatched} {w : CatWork} {p : Program} {v : VersionFor} {vs : List VersionFor}
  {o : Outcome}

theorem completeDispatched_eq (hd : s.sequencer.dispatched = some d) (o : Outcome) :
    completeDispatched o s = complete d o s := by
  unfold completeDispatched
  rw [hd]

theorem handVersion_raise (e : Event) (y : State) : handVersion (raise e y) = raise e (handVersion y) := by
  have he : (handVersion y).events = y.events := rfl
  unfold raise
  rw [he]
  split <;> rfl

/-- The writer's next version does not depend on the completion. -/
theorem handVersion_complete (d : Dispatched) (o : Outcome) (y : State) :
    handVersion (complete d o y) = complete d o (handVersion y) := by
  unfold complete postRecord
  dsimp only
  split
  · rw [handVersion_raise]
    rfl
  · rfl

/-- The event of a passed version, whose command completes. -/
theorem ends_versionWritten (h : Performs s .catalogue (.program p)) (hw : s.catalogue.work = some w)
    (hq : s.catalogue.queue = v :: vs) (hy : versionWritten v w.version (s.versionPassed p w vs) = complete d o y)
    (hd : y.sequencer.deferred = s.sequencer.deferred) :
    Ends (.catalogueProgramEnd .pass) s d o (handVersion y) := by
  have hv : catalogueProgrammed w .pass (programEnded p .pass s) = complete d o (handVersion y) := by
    rw [catalogueProgrammed_pass hq, hy, handVersion_complete]
  refine ends (exec_catalogueProgramEnd h hw hv ?_) rfl rfl rfl rfl rfl rfl rfl rfl
  exact Nat.le_of_eq (congrArg _ ((complete_work ..).2.2.trans hd))

/-- DEFINE STREAM leaves an empty OPEN stream (R67). -/
theorem versionWritten_define {n quota : Nat} {mode : Mode} {name : List Byte}
    (hd : s.sequencer.dispatched = some d) (version : Version) :
    versionWritten (.define n mode quota name) version s =
      complete d { result := .done, value := version.generation }
        (s.withStream n (definedStream mode quota name version.generation)) :=
  completeDispatched_eq (s := setStream n (definedStream mode quota name version.generation) s) hd _

/-- A stream's record leaves the Staging Buffer, and nothing else changes. -/
structure Unstaged (s u : State) (n : Nat) : Prop where
  rest : u = s.withStaging u.write.staging
  staging : ∀ x, u.write.staging = some x → x.stream ≠ n

theorem unstage_spec (n : Nat) (s : State) : Unstaged s (unstage n s) n := by
  unfold unstage
  cases hg : s.write.staging with
  | none => exact ⟨rfl, fun x hx => of_none_eq_some (hg.symm.trans hx)⟩
  | some g =>
    dsimp only
    split
    · exact ⟨rfl, fun x hx => of_none_eq_some hx⟩
    · rename_i hne
      refine ⟨rfl, fun x hx => ?_⟩
      rw [← Option.some.inj (hg.symm.trans hx)]
      exact hne

/-- DELETE STREAM leaves its stream (R68). -/
structure Deletes (s u : State) (n : Nat) : Prop where
  left : streamOf u n = leftStream (streamOf s n)
  others : ∀ m, m ≠ n → streamOf u m = streamOf s m
  pool : u.segments.pool = s.segments.pool ++ leftSegments (streamOf s n)
  staging : ∀ x, u.write.staging = some x → x.stream ≠ n
  jobs : u.write.jobs = s.write.jobs
  deferred : u.sequencer.deferred = s.sequencer.deferred

theorem versionWritten_delete {n : Nat} (hd : s.sequencer.dispatched = some d) (version : Version) :
    ∃ u, versionWritten (.delete n) version s =
        complete d { result := .done, value := (releasable (streamOf s n)).length,
                     aux := bitOf (keptDefinition (streamOf s n)).isSome } u ∧ Deletes s u n := by
  have hu := unstage_spec n s
  have hl := leaveStream_leaves n (unstage n s)
  have hw : versionWritten (.delete n) version s = completeDispatched
    { result := .done, value := (releasable (streamOf s n)).length,
      aux := bitOf (keptDefinition (streamOf s n)).isSome } (leaveStream n (unstage n s)) := rfl
  generalize unstage n s = a at hu hl hw
  have hentry : ∀ m, streamOf a m = streamOf s m := fun m => by
    unfold streamOf
    rw [hu.rest]
    rfl
  generalize leaveStream n a = u at hl hw
  have hdu : u.sequencer.dispatched = some d := by rw [hl.rest, hu.rest]; exact hd
  have hwrite : u.write = a.write := by rw [hl.rest]
  refine ⟨u, hw.trans (completeDispatched_eq hdu _), ?_⟩
  exact
    { left := by rw [hl.left n List.mem_cons_self, hentry]
      others := fun m hm => by rw [hl.others m (fun h => hm (List.mem_singleton.mp h)), hentry]
      pool := by
        rw [hl.pool, List.flatMap_singleton, hentry, hu.rest]
        rfl
      staging := fun x hx => hu.staging x (hwrite ▸ hx)
      jobs := by rw [hwrite, hu.rest]; rfl
      deferred := by rw [hl.rest, hu.rest]; rfl }

/-- FORMAT leaves every stream (R134). -/
structure Formats (s u : State) : Prop where
  leaves : Leaves (List.range 8) s { u with write := s.write, power := s.power }
  write : u.write = { s.write with staging := none }
  power : s.power.state = .awake (.restricted .catalogueLost) → u.power.state = .awake .ready

/-- A FORMAT in CATALOGUE_LOST leaves READY (R135). -/
def readied (u : State) : State :=
  if awakeOf u = some (.restricted .catalogueLost) then { u with power := { u.power with state := .awake .ready } }
  else u

theorem formatted_eq (s : State) : formatted s = readied (leaveStreams (List.range 8) (s.withStaging none)) := by
  simp only [formatted, State.withStaging]
  generalize leaveStreams _ _ = u
  rfl

theorem formatted_spec (s : State) : Formats s (formatted s) := by
  have hl := leaveStreams_leaves range_nodup (s.withStaging none)
  rw [formatted_eq]
  generalize leaveStreams (List.range 8) (s.withStaging none) = u at hl
  have hpower : u.power = s.power := by rw [hl.rest]; rfl
  have hawake : s.power.state = .awake (.restricted .catalogueLost) → awakeOf u = some (.restricted .catalogueLost) :=
    fun h => by unfold awakeOf; rw [hpower, h]
  have hrest : ∀ q, Leaves (List.range 8) s { { u with power := q } with write := s.write, power := s.power } :=
    fun q => ⟨by rw [hl.rest]; rfl, hl.length, hl.left, hl.others, hl.pool⟩
  have hwrite : u.write = { s.write with staging := none } := by rw [hl.rest]; rfl
  unfold readied
  split
  · exact ⟨hrest _, hwrite, fun _ => rfl⟩
  · rename_i hn
    exact ⟨hrest u.power, hwrite, fun h => absurd (hawake h) hn⟩

theorem Formats.kept {s u : State} (h : Formats s u) : u.sequencer = s.sequencer ∧ u.vault = s.vault := by
  have hr := h.leaves.rest
  generalize hv : ({ u with write := s.write, power := s.power } : State) = v at hr
  have hu : u.sequencer = v.sequencer ∧ u.vault = v.vault := by rw [← hv]; exact ⟨rfl, rfl⟩
  rw [hu.1, hu.2, hr]
  exact ⟨rfl, rfl⟩

theorem versionWritten_format (hd : s.sequencer.dispatched = some d) (version : Version) :
    ∃ u, versionWritten .format version s =
        complete d { result := .done, value := releaseCount s.streams,
                     aux := (u.streams.filter (fun t => t.state = .archived)).length } u ∧ Formats s u := by
  have hf := formatted_spec s
  have hw : versionWritten .format version s = completeDispatched
    { result := .done, value := releaseCount s.streams,
      aux := ((formatted s).streams.filter (fun t => t.state = .archived)).length } (formatted s) := rfl
  generalize formatted s = u at hf hw
  have hdu : u.sequencer.dispatched = some d := by rw [hf.kept.1]; exact hd
  exact ⟨u, hw.trans (completeDispatched_eq hdu _), hf⟩

end

/-! ### A version fails (R112) -/

section

variable {s : State} {w : CatWork}

theorem exec_catalogueEraseEnd {g : Nat} {r : EraseResult} {v : State} (h : Performs s .catalogue (.erase g))
    (hw : s.catalogue.work = some w) (hv : catalogueErased w r (eraseEnded g r s) = v)
    (hd : v.sequencer.deferred.length ≤ s.sequencer.deferred.length) :
    exec (.catalogueEraseEnd r) s = .next (settle (choose v)) := by
  show execCatalogueEraseEnd r s = _
  unfold execCatalogueEraseEnd
  rw [h.inProgress]
  have hw' : (eraseEnded g r s).catalogue.work = some w := hw
  exact congrArg _ (endEvent_of h.awake h.clear (by simp only [hw']; exact hv) hd)

/-- The machine whose version's operation has failed: its medium, its engine and the writer's place alone differ. -/
structure WorkEnded (s y : State) : Prop where
  rest : y = { s with medium := y.medium, engine := y.engine, catalogue := y.catalogue }
  queue : y.catalogue.queue = s.catalogue.queue

/-- Either failure is followed by the same step. -/
theorem exec_workFailed {i : Instr} {op : Op} (h : Performs s .catalogue op) (hw : s.catalogue.work = some w)
    (hi : (∃ g frames, op = .erase g ∧ i = .catalogueEraseEnd (.fail frames)) ∨
      ∃ p left, op = .program p ∧ i = .catalogueProgramEnd (.fail left)) :
    ∃ y, WorkEnded s y ∧ ∀ v, workFailed w y = v → v.sequencer.deferred.length ≤ s.sequencer.deferred.length →
      exec i s = .next (settle (choose v)) := by
  rcases hi with ⟨g, frames, rfl, rfl⟩ | ⟨p, left, rfl, rfl⟩
  · exact ⟨eraseEnded g (.fail frames) s, ⟨rfl, rfl⟩, fun v hv hd => exec_catalogueEraseEnd h hw hv hd⟩
  · exact ⟨{ programEnded p (.fail left) s with catalogue := { s.catalogue with
      top := if w.segment = s.catalogue.active then some w.frame else s.catalogue.top } }, ⟨rfl, rfl⟩,
      fun v hv hd => exec_catalogueProgramEnd h hw hv hd⟩

theorem workFailed_falls {g : Nat} (hf : w.fallback = some g) (y : State) :
    workFailed w y = { y with catalogue := { y.catalogue with
      work := some { w with erasing := true, segment := g, frame := 0, fallback := none } } } := by
  unfold workFailed
  rw [hf]

/-- The writer is lost for writing: nothing is requested of it any more. -/
def State.writerLost (y : State) : State :=
  enterWornOut 2 { y with catalogue := { y.catalogue with queue := [], work := none } }

theorem workFailed_loses {v : VersionFor} {y : State} (hf : w.fallback = none) (hq : y.catalogue.queue = [v])
    (hv : forCommand v = true) : workFailed w y = completeDispatched { result := .medium } y.writerLost := by
  have hl : workFailed w y = loseCatalogue y := by unfold workFailed; rw [hf]
  rw [hl]
  unfold loseCatalogue
  rw [hq]
  cases v with
  | define n mode quota name => rfl
  | delete n => rfl
  | format => rfl
  | retire g b => exact absurd hv Bool.false_ne_true

theorem enterWornOut_state (why : Nat) (y : State) :
    (enterWornOut why y).power.state = .awake (.restricted .wornOut) := by
  unfold enterWornOut
  split
  · rename_i h
    unfold awakeOf at h
    split at h
    · rename_i a ha
      rw [ha, Option.some.inj h]
    · exact of_none_eq_some h
  · exact (congrArg (fun x : Held => x.power.state) (tellMedia_held _ _))

theorem enterWornOut_rest (why : Nat) (y : State) : enterWornOut why y =
    { y with power := (enterWornOut why y).power, events := (enterWornOut why y).events } := by
  unfold enterWornOut
  split
  · rfl
  · have hrest := tellMedia_rest { kind := .restricted, stream := 0xFF, segment := 0xFFFF, value := 2, value2 := why }
      { y with power := { y.power with state := .awake (.restricted .wornOut) } }
    show tellMedia _ _ = { y with power := (tellMedia _ _).power, events := (tellMedia _ _).events }
    generalize tellMedia _ _ = u at hrest ⊢
    rw [hrest]

/-- The version is given up: the command completes MEDIUM and the device is RESTRICTED (R112, R113). -/
theorem exec_versionGivenUp {i : Instr} {op : Op} {v : VersionFor} {d : Dispatched} (h : Performs s .catalogue op)
    (hw : s.catalogue.work = some w)
    (hi : (∃ g frames, op = .erase g ∧ i = .catalogueEraseEnd (.fail frames)) ∨
      ∃ p left, op = .program p ∧ i = .catalogueProgramEnd (.fail left))
    (hf : w.fallback = none) (hq : s.catalogue.queue = [v]) (hv : forCommand v = true)
    (hd : s.sequencer.dispatched = some d) :
    ∃ t, exec i s = .next t ∧ t.power.state = .awake (.restricted .wornOut) ∧ t.catalogue.queue = [] ∧
      t.catalogue.work = none ∧ t.sequencer.dispatched = none ∧
      Posts s t (completionOf d.tag d.opcode (cmdDetail d.cmd) d.abortLate { result := .medium }) := by
  obtain ⟨y, hy, hexec⟩ := exec_workFailed h hw hi
  have hrun := workFailed_loses hf (hy.queue.trans hq) hv
  have hstate : y.writerLost.power.state = .awake (.restricted .wornOut) := enterWornOut_state 2 _
  have hrest : y.writerLost = { y with
      catalogue := { y.catalogue with queue := [], work := none }
      power := y.writerLost.power, events := y.writerLost.events } := enterWornOut_rest 2 _
  generalize y.writerLost = u at hrun hstate hrest
  have hseq : u.sequencer = s.sequencer := by rw [hrest, hy.rest]
  have hcpl : u.cpl.records = s.cpl.records := by rw [hrest, hy.rest]
  have hcat : u.catalogue.queue = [] ∧ u.catalogue.work = none := by rw [hrest]; exact ⟨rfl, rfl⟩
  have hdu : u.sequencer.dispatched = some d := by rw [hseq]; exact hd
  rw [completeDispatched_eq hdu] at hrun
  obtain ⟨hposts, hheld, -, -, -, -⟩ := close_complete d { result := .medium } s u hcpl
  refine ⟨_, hexec _ hrun (Nat.le_of_eq (congrArg _ ((complete_work ..).2.2.trans (congrArg _ hseq)))),
    (congrArg (fun x : Held => x.power.state) hheld).trans hstate,
    (congrArg (fun x : Held => x.catalogue.queue) hheld).trans hcat.1,
    (congrArg (fun x : Held => x.catalogue.work) hheld).trans hcat.2, congrArg Held.dispatched hheld, hposts⟩

end

/-! ### A version is built (R46) -/

section

variable {s : State} {v : VersionFor}

/-- What a version is built of in READY. -/
structure Built (s : State) (v : VersionFor) (w : CatWork) : Prop where
  generation : w.version.generation = s.catalogue.generation + 1
  retired : w.version.retired = s.catalogue.retired
  defs : w.version.defs = versionDefs v (s.catalogue.generation + 1) s
  first : s.catalogue.top = none → w.erasing = false ∧ w.segment = s.catalogue.active ∧ w.frame = 0
  next : ∀ k, s.catalogue.top = some k → k < 31 → w.erasing = false ∧ w.segment = s.catalogue.active ∧ w.frame = k + 1
  other : ∀ k, s.catalogue.top = some k → 31 ≤ k → w.erasing = true ∧ w.segment = 1 - s.catalogue.active ∧ w.frame = 0

theorem startWork_built (hs : s.power.state = .awake .ready) : Built s v (startWork v s) := by
  have ha : awakeOf s ≠ some (.restricted .catalogueLost) := by
    unfold awakeOf
    rw [hs]
    exact fun h => Awake.noConfusion (Option.some.inj h)
  have hg : nextGeneration s = s.catalogue.generation + 1 := if_neg ha
  have hb : (startWork v s).version = buildVersion v s := by
    unfold startWork
    dsimp only
    rw [if_neg ha]
    split
    · rfl
    · split <;> rfl
  refine ⟨by rw [hb]; exact hg, by rw [hb]; rfl, by rw [hb]; unfold buildVersion; rw [hg], fun ht => ?_,
    fun k ht hk => ?_, fun k ht hk => ?_⟩
  · simp only [startWork, if_neg ha, ht, and_self]
  · simp only [startWork, if_neg ha, ht, if_pos hk, and_self]
  · simp only [startWork, if_neg ha, ht, if_neg (Nat.not_lt.mpr hk), and_self]

theorem defs_get {n : Nat} (hn : n < s.streams.length) (f : Stream → Option Definition) :
    (s.streams.map f)[n]? = some (f (streamOf s n)) := by
  rw [List.getElem?_map, List.getElem?_eq_getElem hn]
  unfold streamOf
  rw [List.getD_eq_getElem _ _ hn]
  rfl

/-- A request is the writer's first work where none is under way. -/
theorem withVersion_first (hw : s.catalogue.work = none) (hq : s.catalogue.queue = []) :
    (s.withVersion v).catalogue = { s.catalogue with queue := [v], work := some (startWork v s) } := by
  simp only [State.withVersion, hw, hq, List.nil_append, List.headD_nil, Option.none_or]

theorem handVersion_catalogue (y : State) : (handVersion y).catalogue = { y.catalogue with
    work := y.catalogue.work.or (y.catalogue.queue.head?.map (fun v => startWork v y)) } := rfl

theorem startWork_handVersion (v : VersionFor) (y : State) : startWork v (handVersion y) = startWork v y := by
  unfold startWork buildVersion versionDefs nextGeneration
  rfl

end

/-- Every stream was left: its entry, its segments in the pool, the Staging Buffer and the vault (R134). -/
structure FormatBrings (s u : State) : Prop where
  streams : u.streams = s.streams.map leftStream
  entry : ∀ m, streamOf u m = leftStream (streamOf s m)
  pool : u.segments.pool = s.segments.pool ++ (s.streams.flatMap releasable).map (fun e => e.segment)
  write : u.write = { s.write with staging := none }
  vault : u.vault = s.vault
  power : s.power.state = .awake (.restricted .catalogueLost) → u.power.state = .awake .ready

/-- What the program that passed leaves to the version's command. -/
theorem versionPassed_facts (s : State) (p : Program) (w : CatWork) (vs : List VersionFor) :
    (s.versionPassed p w vs).sequencer = s.sequencer ∧ (s.versionPassed p w vs).streams = s.streams ∧
      (s.versionPassed p w vs).segments = s.segments ∧ (s.versionPassed p w vs).write = s.write ∧
      (s.versionPassed p w vs).vault = s.vault ∧ (s.versionPassed p w vs).power = s.power ∧
      (s.versionPassed p w vs).medium = s.medium.endProgram p .pass := ⟨rfl, rfl, rfl, rfl, rfl, rfl, rfl⟩

section

variable {s : State} {d : Dispatched} {w : CatWork} {p : Program} {vs : List VersionFor}
  (hperf : Performs s .catalogue (.program p)) (hw : s.catalogue.work = some w)
  (hd : s.sequencer.dispatched = some d)
include hperf hw hd

theorem ends_define {n quota : Nat} {mode : Mode} {name : List Byte} (hn : n < s.streams.length)
    (hq : s.catalogue.queue = .define n mode quota name :: vs) :
    ∃ u, Ends (.catalogueProgramEnd .pass) s d { result := .done, value := w.version.generation } u ∧
      streamOf u n = definedStream mode quota name w.version.generation ∧
      (∀ m, m ≠ n → streamOf u m = streamOf s m) ∧ u.medium = s.medium.endProgram p .pass ∧
      u.catalogue = { s.catalogue with
        active := w.segment, top := some w.frame, generation := w.version.generation, queue := vs
        work := vs.head?.map (fun x => startWork x u) } := by
  have hy := versionWritten_define (s := s.versionPassed p w vs) (n := n) (mode := mode) (quota := quota) (name := name)
    hd w.version
  have hcat : (s.versionPassed p w vs).catalogue = { s.catalogue with
      active := w.segment, top := some w.frame, generation := w.version.generation, queue := vs, work := none } := rfl
  have hend := ends_versionWritten hperf hw hq hy rfl
  obtain ⟨-, hstreams, -, -, -, -, hmed⟩ := versionPassed_facts s p w vs
  generalize s.versionPassed p w vs = a at hend hcat hstreams hmed
  refine ⟨_, hend, ?_, fun m hm => ?_, hmed, ?_⟩
  · exact streamOf_withStream (s := a) (by rw [hstreams]; exact hn) _
  · refine (streamOf_setStream n m _ a).trans ((if_neg fun h => hm h.1.symm).trans ?_)
    unfold streamOf
    rw [hstreams]
  · simp only [startWork_handVersion]
    refine (handVersion_catalogue _).trans ?_
    rw [show (a.withStream n (definedStream mode quota name w.version.generation)).catalogue = a.catalogue from rfl,
      hcat]
    rfl

theorem ends_delete {n : Nat} (hq : s.catalogue.queue = .delete n :: vs) :
    ∃ u, Ends (.catalogueProgramEnd .pass) s d
        { result := .done, value := (releasable (streamOf s n)).length,
          aux := bitOf (keptDefinition (streamOf s n)).isSome } u ∧ Deletes s u n := by
  obtain ⟨u, hu, hdel⟩ := versionWritten_delete (s := s.versionPassed p w vs) (n := n) hd w.version
  exact ⟨handVersion u, ends_versionWritten hperf hw hq hu hdel.deferred,
    ⟨hdel.left, hdel.others, hdel.pool, hdel.staging, hdel.jobs, hdel.deferred⟩⟩

omit hperf hw hd in
/-- What a FORMAT's version brings, in the state of the event's end. -/
theorem formats_brings {a u : State} (h : Formats a u) (hl : a.streams.length = 8) :
    FormatBrings a (handVersion u) where
  streams := h.leaves.streams hl
  entry := h.leaves.entry hl
  pool := h.leaves.pool_all hl
  write := h.write
  vault := h.kept.2
  power := h.power

/-- FORMAT completes with what it released and how many streams are ARCHIVED then (R134). -/
theorem ends_format {keeps : Stream → Bool} (hk : ∀ x, keeps x = true ↔ (keptDefinition x).isSome = true)
    (hl : s.streams.length = 8) (hq : s.catalogue.queue = .format :: vs) :
    ∃ u, Ends (.catalogueProgramEnd .pass) s d
        { result := .done, value := releaseCount s.streams, aux := s.streams.countP keeps } u ∧
      FormatBrings s u := by
  obtain ⟨u, hu, hf⟩ := versionWritten_format (s := s.versionPassed p w vs) hd w.version
  have hstreams : u.streams = s.streams.map leftStream := hf.leaves.streams hl
  rw [hstreams, archived_count s.streams hk] at hu
  have hend := ends_versionWritten hperf hw hq hu (congrArg Sequencer.deferred hf.kept.1)
  have hb := formats_brings hf hl
  exact ⟨_, hend, ⟨hb.streams, hb.entry, hb.pool, hb.write, hb.vault, hb.power⟩⟩

end

/-- Settles O51: a passed version brings what its command asked for, a failed one is tried again or given up, and one is
built from the definitions and the retired list. -/
theorem catalogueVersionsAreWrittenOrGivenUp : Obligations.CatalogueVersionsAreWrittenOrGivenUp := by
  unfold Obligations.CatalogueVersionsAreWrittenOrGivenUp
  refine ⟨?_, ?_, ?_, ?_⟩
  · intro s d w p v vs hperf hw hq hd
    refine ⟨?_, ?_, ?_, ?_, ?_⟩
    · rintro n mode quota name rfl hn
      exact ends_define hperf hw hd hn hq
    · rintro n rfl hn harch hseal
      obtain ⟨u, hend, hdel⟩ := ends_delete hperf hw hd hq
      have hkept := keptDefinition_none harch hseal
      rw [releasable_unsealed hseal, hkept] at hend
      refine ⟨u, hend, by rw [hdel.left, leftStream_none hkept], hdel.others, ?_, hdel.staging, hdel.jobs⟩
      rw [hdel.pool, leftSegments, releasable_unsealed hseal]
    · rintro n x rfl hn hx hseal
      obtain ⟨u, hend, hdel⟩ := ends_delete hperf hw hd hq
      have hkept := keptDefinition_some hx (.inr hseal)
      rw [hkept] at hend
      have ha := leftStream_some hkept
      rw [← hdel.left] at ha
      exact ⟨u, hend, ha.state, ha.defn, ha.chain, ha.tail⟩
    · rintro rfl hl hseal harch
      obtain ⟨u, hend, hb⟩ := ends_format hperf hw hd (keeps := fun x => (keptDefinition x).isSome) (fun _ => Iff.rfl)
        hl hq
      have hnone : ∀ x ∈ s.streams, keptDefinition x = none := fun x hx => by
        obtain ⟨m, rfl⟩ := mem_streams hx
        exact keptDefinition_none (harch m) (hseal m)
      have hcount : s.streams.countP (fun x => (keptDefinition x).isSome) = 0 :=
        List.countP_eq_zero.mpr fun x hx => by rw [hnone x hx]; exact Bool.false_ne_true
      have hsum : releaseCount s.streams =
          (s.streams.map (fun x => (x.chain.filter (fun e => !e.isRetired)).length)).sum := by
        unfold releaseCount
        refine congrArg List.sum (List.map_congr_left fun x hx => ?_)
        obtain ⟨m, rfl⟩ := mem_streams hx
        rw [releasable_unsealed (hseal m)]
      rw [hcount, hsum] at hend
      refine ⟨u, hend, ?_, hb.write, hb.power⟩
      rw [hb.streams, List.eq_replicate_iff]
      refine ⟨by rw [List.length_map, hl], fun y hy => ?_⟩
      obtain ⟨x, hx, rfl⟩ := List.mem_map.mp hy
      exact leftStream_none (hnone x hx)
    · rintro keeps hkeeps rfl hl
      have hk : ∀ x, keeps x = true ↔ (keptDefinition x).isSome = true := fun x =>
        (hkeeps x).trans keptDefinition_isSome_iff.symm
      obtain ⟨u, hend, hb⟩ := ends_format hperf hw hd hk hl hq
      refine ⟨u, hend, fun m hm => ?_, fun m y hm hy => ?_, hb.pool, hb.write, hb.vault⟩
      · rw [hb.entry]
        refine leftStream_none (Option.not_isSome_iff_eq_none.mp fun h => ?_)
        exact Bool.false_ne_true (hm.symm.trans ((hk _).mpr h))
      · obtain ⟨x, hx, hor⟩ := (hkeeps _).mp hm
        obtain rfl := Option.some.inj (hy.symm.trans hx)
        have ha := leftStream_some (keptDefinition_some hy hor)
        rw [← hb.entry] at ha
        exact ⟨ha.state, ha.defn, ha.chain, ha.tail, ha.newest, ha.durable, ha.cursor⟩
  · intro s w g _ hperf hw
    have hc := close_spec { eraseEnded g .pass s with
      catalogue := { s.catalogue with work := some { w with erasing := false } } }
    exact ⟨_, exec_catalogueEraseEnd hperf hw rfl (le_refl _), congrArg Held.medium hc.held,
      congrArg Held.catalogue hc.held, fun hn => hc.work hn⟩
  · intro i op s w _ hperf hw hi
    refine ⟨fun g hf => ?_, fun v d hf hq hv hd => exec_versionGivenUp hperf hw hi hf hq hv hd⟩
    obtain ⟨y, hy, hexec⟩ := exec_workFailed hperf hw hi
    have hrun := workFailed_falls hf y
    have hc := close_spec { y with catalogue := { y.catalogue with
      work := some { w with erasing := true, segment := g, frame := 0, fallback := none } } }
    refine ⟨_, hexec _ hrun (by rw [hy.rest]), congrArg (fun x : Held => x.catalogue.work) hc.held,
      (congrArg (fun x : Held => x.catalogue.queue) hc.held).trans hy.queue,
      (congrArg Held.dispatched hc.held).trans ?_⟩
    rw [hy.rest]
    rfl
  · intro s v
    refine ⟨fun w hw => by simp only [State.withVersion, hw, Option.some_or], fun hs hw hq => ?_⟩
    have hb := startWork_built (v := v) hs
    refine ⟨startWork v s, withVersion_first hw hq, requestVersion_eq v s, hb.generation, hb.retired, ?_, ?_, ?_, ?_,
      ?_, hb.first, hb.next, hb.other⟩
    · rintro g b rfl
      exact hb.defs
    · rintro n mode quota name rfl hn
      rw [hb.defs]
      exact ⟨List.getElem?_set_self (by rw [List.length_map]; exact hn),
        fun k hk => List.getElem?_set_ne (Ne.symm hk)⟩
    · rintro n rfl k hk
      rw [hb.defs]
      exact List.getElem?_set_ne (Ne.symm hk)
    · rintro n x hv - hn hx
      rw [hb.defs, ← keptDefinition_eq hx]
      rcases hv with rfl | rfl
      · exact List.getElem?_set_self (by rw [List.length_map]; exact hn)
      · exact defs_get hn keptDefinition
    · rintro n rfl hn hx
      rw [hb.defs]
      refine (defs_get hn keptDefinition).trans (congrArg some ?_)
      unfold keptDefinition
      rw [hx]

end Sys2Proof.Machine

/-!
PROOFS. What may write the storage array: the medium's own operations write no more than `WritesOnly` allows, and every
row leaves the array but for the operation in progress that ends or is cut.
-/

namespace Sys2Proof.Machine

open Sys2Proof

/-! ### The medium's operations -/

/-- A byte outside a frame reads as before bytes are written into it. -/
theorem Medium.byte_write_other {m : Medium} {seg frame lo a : Nat} (bytes : List Byte)
    (h : a < Config.address seg frame lo ∨ Config.address seg frame lo + (512 - lo) ≤ a) :
    (m.write seg frame lo bytes).byte a = m.byte a := by
  refine storeGet_storeBytes_other ?_ _
  rw [List.length_take]
  omega

/-- A byte outside a frame reads as before the frame takes a content. -/
theorem Medium.byte_setFrame_other {m : Medium} {seg frame a : Nat} (c : FrameContent)
    (h : a < Config.address seg frame 0 ∨ Config.address seg frame 0 + 512 ≤ a) :
    (m.setFrame seg frame c).byte a = m.byte a := by
  unfold Medium.setFrame
  generalize List.replicate 512 (0xFF : Byte) = erased
  exact (Medium.byte_write_other c.bytes h).trans (Medium.byte_write_other erased h)

/-- Another frame's margin is as before. -/
theorem Medium.margin_setFrame_other {m : Medium} {seg frame g i : Nat} (c : FrameContent)
    (h : frameNumber g i ≠ frameNumber seg frame) : (m.setFrame seg frame c).margin g i = m.margin g i := by
  unfold Medium.setFrame
  generalize List.replicate 512 (0xFF : Byte) = erased
  exact storeGet_storePut_other h ..

namespace WritesOnly

variable {m m' m'' : Medium} {op : Option Op} {g : Nat}

theorem of_eq (h : m' = m) : WritesOnly m m' op where
  nothing _ := h
  program _ _ := ⟨fun _ _ => by rw [h], fun _ _ _ => by rw [h]⟩
  erase _ _ := ⟨fun _ _ => by rw [h], fun _ _ _ _ => by rw [h]⟩

theorem trans (h : WritesOnly m m' op) (k : WritesOnly m' m'' op) : WritesOnly m m'' op where
  nothing e := (k.nothing e).trans (h.nothing e)
  program p e := ⟨fun a ha => ((k.program p e).1 a ha).trans ((h.program p e).1 a ha),
    fun g i hi => ((k.program p e).2 g i hi).trans ((h.program p e).2 g i hi)⟩
  erase g e := ⟨fun a ha => ((k.erase g e).1 a ha).trans ((h.erase g e).1 a ha),
    fun i j hj hi => ((k.erase g e).2 i j hj hi).trans ((h.erase g e).2 i j hj hi)⟩

theorem portion (p : Program) (bytes : List Byte) (e : Option PortionEntry) (l : Option Label) :
    WritesOnly m (m.portion p bytes e l) (some (.program p)) where
  nothing h := absurd (h _ rfl) (by simp [opWrites])
  program q hq := by
    cases hq
    exact ⟨fun a ha => Medium.byte_portion_other p bytes e l ha, fun _ _ h => Medium.margin_portion_other p bytes e l h⟩
  erase g hg := by cases hg

/-- What stays outside a segment says all of an ERASE. -/
theorem of_segment (hb : ∀ a, (a < Config.address g 0 0 ∨ Config.address g 32 0 ≤ a) → m'.byte a = m.byte a)
    (hm : ∀ h frame, frame < 32 → h ≠ g → m'.margin h frame = m.margin h frame) :
    WritesOnly m m' (some (.erase g)) where
  nothing h := absurd (h _ rfl) (by simp [opWrites])
  program p hp := by cases hp
  erase h hh := by cases hh; exact ⟨hb, hm⟩

theorem setFrame {i : Nat} (hi : i < 32) (c : FrameContent) : WritesOnly m (m.setFrame g i c) (some (.erase g)) := by
  refine of_segment (fun a ha => ?_) (fun h frame hf hg => ?_)
  · have low : Config.address g 0 0 ≤ Config.address g i 0 := by
      unfold Config.address
      omega
    have high : Config.address g i 0 + 512 ≤ Config.address g 32 0 := by
      unfold Config.address
      omega
    exact Medium.byte_setFrame_other c (ha.imp (fun h => lt_of_lt_of_le h low) (fun h => le_trans high h))
  · refine Medium.margin_setFrame_other c ?_
    unfold frameNumber
    omega

theorem setFrames (i : Nat) (cs : List FrameContent) : WritesOnly m (m.setFrames g i cs) (some (.erase g)) := by
  induction cs generalizing m i with
  | nil => exact of_eq rfl
  | cons c cs ih =>
    unfold Medium.setFrames
    split
    · rename_i hi
      exact (setFrame hi c).trans (ih _)
    · exact of_eq rfl

theorem eraseFrom (first : Nat) : WritesOnly m (m.eraseFrom g first) (some (.erase g)) := by
  refine of_segment (fun a ha => ?_) (fun h frame hf hg => ?_)
  · refine (storeGet_storeClear ..).trans (if_neg ?_)
    unfold Config.address at ha ⊢
    omega
  · refine (storeGet_storeClear ..).trans (if_neg ?_)
    unfold frameNumber
    omega

theorem endProgram (p : Program) (r : ProgramResult) : WritesOnly m (m.endProgram p r) (some (.program p)) := by
  cases r with
  | pass | fail left => exact portion ..

theorem endErase (r : EraseResult) : WritesOnly m (m.endErase g r) (some (.erase g)) := by
  cases r with
  | pass => exact eraseFrom 0
  | fail frames => exact setFrames 0 frames

theorem cutProgram (p : Program) (c : Cut) : WritesOnly m (m.cutProgram p c) (some (.program p)) := by
  cases c with
  | nothingVisible | partlyErased _ _ => exact of_eq rfl
  | entryOnly _ | incompleteData _ | incompleteCheck => exact portion ..

theorem cutErase (c : Cut) : WritesOnly m (m.cutErase g c) (some (.erase g)) := by
  cases c with
  | nothingVisible | entryOnly _ | incompleteData _ | incompleteCheck => exact of_eq rfl
  | partlyErased reached unknown =>
    unfold Medium.cutErase
    dsimp only
    split_ifs with h hr
    · exact eraseFrom 0
    · exact (eraseFrom _).trans (setFrame hr unknown)
    · exact of_eq rfl

theorem cut (x : Op) (c : Cut) : WritesOnly m (m.cut x c) (some x) := by
  cases x with
  | read _ _ _ _ => exact of_eq rfl
  | program p => exact cutProgram p c
  | erase g => exact cutErase c

end WritesOnly

/-- An ERASE that passes leaves erased bytes and erased frames (R44, R54). -/
theorem erased_after_pass (m : Medium) {g frame off : Nat} (lo hi : Nat) (hg : g ≠ 4) (hf : frame < 32)
    (ho : off < 512) : (m.endErase g .pass).byte (Config.address g frame off) = 0xFF ∧
    frameErased (readFrame (m.endErase g .pass) g frame lo hi quiet) = true := by
  have hmargin : (m.endErase g .pass).margin g frame = erasedMargin := by
    refine (Medium.margin_erase ..).trans ((if_pos ?_).trans (if_neg ?_)) <;> unfold frameNumber <;> omega
  constructor
  · refine (Medium.byte_erase ..).trans ((if_pos ?_).trans ?_)
    · unfold Config.address
      omega
    · unfold Config.unlisted Config.address
      split <;> first | rfl | omega
  · exact readFrame_erased hmargin

/-- The storage array is the same in both states. -/
def SameArray (s t : State) : Prop := t.medium = s.medium

namespace SameArray

variable {s t u : State}

theorem refl (s : State) : SameArray s s := Eq.refl s.medium

theorem trans (h : SameArray s t) (k : SameArray t u) : SameArray s u := Eq.trans k h

theorem of_outer (h : t.outer = s.outer) : SameArray s t := medium_of_outer h

theorem ite {p : Prop} [Decidable p] (h : SameArray s t) (k : SameArray s u) : SameArray s (if p then t else u) := by
  split <;> assumption

end SameArray

/-! ### Dispatch and the internal event -/

section

variable {s : State} {d : Dispatched}

theorem complete_array {out : Outcome} {t : State} (h : SameArray s t) : SameArray s (complete d out t) :=
  h.trans (.of_outer (complete_outer ..))

theorem runSetOption_array : SameArray s (runSetOption d s) := by
  unfold runSetOption
  split
  · exact complete_array (.refl s)
  · exact .refl s

theorem runSetTime_array : SameArray s (runSetTime d s) := by
  unfold runSetTime
  split
  · exact complete_array (.refl s)
  · exact .refl s

theorem runSetAlarm_array : SameArray s (runSetAlarm d s) := by
  unfold runSetAlarm
  split
  · split <;> exact complete_array (.refl s)
  · exact .refl s

/-- No command's own execution writes the array. -/
theorem runOf_array (c : Cmd) : SameArray s (runOf c d s) := by
  cases c with
  | defineStream => exact .of_outer (runDefine_outer ..)
  | deleteStream => exact .of_outer (runDelete_outer ..)
  | trimStream => exact .of_outer (runTrim_outer ..)
  | append => exact .of_outer (runAppend_outer ..)
  | commit => exact .of_outer (runCommitCommand_outer ..)
  | cancel => exact .of_outer (runCancel_outer ..)
  | sync => exact .of_outer (runSync_outer ..)
  | seek => exact .of_outer (runSeekCommand_outer ..)
  | lockAll | unlockRange | freezeLocks => exact .of_outer (runLock_outer ..)
  | arm => exact .of_outer (runArm_outer ..)
  | sealStream => exact .of_outer (runSeal_outer ..)
  | format => exact .of_outer (runFormat_outer ..)
  | vaultWrite => exact .of_outer (runVaultWriteCommand_outer ..)
  | vaultClose => exact .of_outer (runVaultClose_outer ..)
  | getOption => exact .of_outer (runGetOption_outer ..)
  | setOption => exact runSetOption_array
  | setTime => exact runSetTime_array
  | getTime => exact .of_outer (runGetTime_outer ..)
  | setAlarm => exact runSetAlarm_array
  | doze => exact .of_outer (drainBarrier_outer ..)
  | halt => exact .of_outer (syncBarrier_outer ..)
  | queryStream | readRecord | readNext | segmentStatus | vaultRead | describe | identify | readNotices =>
    exact .of_outer (awaitBuffer_outer ..)

end

theorem dispatchHead_array (s : State) : SameArray s (dispatchHead s) := by
  unfold dispatchHead
  split
  · dsimp only
    split
    · exact .of_outer ((complete_outer ..).trans (takeHead_outer ..))
    · exact (SameArray.of_outer (takeHead_outer ..)).trans (runOf_array _)
  · split
    · exact .of_outer ((postRecord_outer ..).trans (takeHead_outer ..))
    · exact .refl s

theorem dispatchNext_array (n : Nat) (s : State) : SameArray s (dispatchNext n s) := by
  induction n generalizing s with
  | zero => exact .refl s
  | succ n ih =>
    unfold dispatchNext
    exact .ite ((dispatchHead_array s).trans (.ite (ih _) (.refl _))) (.refl s)

theorem dispatchFrames_array (s : State) : SameArray s (dispatchFrames s) := dispatchNext_array ..

theorem close_array (s : State) : SameArray s (settle (choose s)) :=
  .of_outer ((settle_outer _).trans (choose_outer s))

theorem dispatch_array (code : Byte) (s : State) : SameArray s (dispatch code s) := by
  unfold dispatch
  split
  · exact .refl s
  · exact .ite ((dispatchFrames_array s).trans (close_array _)) (.refl s)

theorem takeEntry_array (s : State) : SameArray s (takeEntry s) := by
  unfold takeEntry
  split
  · exact .of_outer (enterDoze_outer s)
  · rfl
  · rfl

theorem due_array (s : State) : SameArray s (due s) := by
  have abort : ∀ t : State, SameArray t (if t.host.aborting then endAbort t else t) :=
    fun t => .ite (.of_outer (endAbort_outer t)) (.refl t)
  have soft : ∀ t : State, SameArray t (if t.power.soft = some .abortSteps then softAbort t else t) :=
    fun t => .ite (.of_outer (softAbort_outer t)) (.refl t)
  have next : ∀ t : State, SameArray t (takeEntry (goOnPlacing t)) :=
    fun t => (SameArray.of_outer (goOnPlacing_outer t)).trans (takeEntry_array _)
  exact .ite ((SameArray.of_outer (softTails_outer s)).trans ((abort _).trans ((soft _).trans (next _)))) (.refl s)

/-- An internal event writes the array as its body does. -/
theorem internalEvent_array {body : State → State} {f : Medium → Medium} (hb : ∀ t, (body t).medium = f t.medium)
    (s : State) : (internalEvent body s).medium = f s.medium := by
  have h : SameArray (body (due s)) (internalEvent body s) :=
    (SameArray.ite (dispatchFrames_array _) (.refl _)).trans (close_array _)
  calc (internalEvent body s).medium = (body (due s)).medium := h
    _ = f (due s).medium := hb _
    _ = f s.medium := congrArg f (due_array s)

theorem finishFlush_array (s : State) : SameArray s (finishFlush s) := by
  unfold finishFlush
  split <;> rfl

/-- The end of an operation writes the array as the operation does. -/
theorem endEvent_array {ended inFlush act : State → State} {f : Medium → Medium}
    (he : ∀ t, (ended t).medium = f t.medium) (hf : ∀ t, SameArray t (inFlush t)) (ha : ∀ t, SameArray t (act t))
    (s : State) : (endEvent ended inFlush act s).medium = f s.medium := by
  have flush : SameArray (ended s) (settle (finishFlush (inFlush (ended s)))) :=
    (hf _).trans ((finishFlush_array _).trans (.of_outer (settle_outer _)))
  unfold endEvent
  split
  · exact Eq.trans flush (he s)
  · exact internalEvent_array (fun t => Eq.trans (ha _) (he t)) s

theorem internalEvent_same {body : State → State} (hb : ∀ t, SameArray t (body t)) (s : State) :
    SameArray s (internalEvent body s) := internalEvent_array (f := id) hb s

/-! ### Accesses and pulses -/

theorem beginAccess_array (s : State) : SameArray s (beginAccess s) :=
  .ite (internalEvent_same (body := wake) (fun t => .of_outer (wake_outer t)) s) (.ite rfl (.refl s))

theorem readAccess_array {off : BitVec 4} {effect : State → State} (he : ∀ t, SameArray t (effect t)) (s : State) :
    SameArray s (readAccess off effect s) := by
  have drives : ∀ b t, SameArray t (drive b t) := fun _ _ => rfl
  exact .ite (.ite ((beginAccess_array s).trans ((drives ..).trans (he _))) (drives ..)) (.refl s)

theorem writeAccess_array {mine : BitVec 4 → Bool} {effect : State → State} (he : ∀ t, SameArray t (effect t))
    (s : State) : SameArray s (writeAccess mine effect s) :=
  .ite ((beginAccess_array s).trans (he _)) (.refl s)

theorem hctlAccess_array (b : Byte) (s : State) : SameArray s (hctlAccess b s) :=
  writeAccess_array (fun _ => .of_outer (hctlWrite_outer ..)) s

theorem readEffect_array (a : BitVec 4) (s : State) : SameArray s (readEffect a s) := by
  unfold readEffect
  split_ifs
  · exact .of_outer (hostError_outer ..)
  · exact .of_outer (takeResponseByte_outer s)
  · exact .of_outer (takeCompletionByte_outer s)
  · rfl
  · rfl
  · rfl
  · rfl

theorem writeEffect_array (a : BitVec 4) (b : Byte) (i : Bool) (s : State) : SameArray s (writeEffect a b i s) := by
  unfold writeEffect
  split_ifs
  · exact .of_outer (takeByte_outer b s)
  · exact .of_outer (hctlWrite_outer ..)
  · rfl
  · rfl
  · exact .of_outer (hostError_outer ..)

theorem anyAccess_array (w : Option Byte) (s : State) : SameArray s (anyAccess w s) := by
  cases w with
  | none => exact readAccess_array (readEffect_array _) s
  | some b => exact writeAccess_array (mine := fun _ => true) (writeEffect_array s.host.latch b (ignoresSrst s)) s

theorem pulseEvents_array (p : Pulse) (s₀ s : State) : SameArray s (pulseEvents p s₀ s) :=
  (SameArray.ite (p := wraps p s₀) (.of_outer (raise_outer ..)) (.refl s)).trans
    (.ite (.of_outer (raise_outer ..)) (.refl _))

theorem pulseBody_array (p : Pulse) (s : State) : SameArray s (pulseBody p s) :=
  pulseEvents_array p s { s with time := pulseTime p s }

theorem sourcePulse_array (p : Pulse) (s : State) : SameArray s (sourcePulse p s) := by
  have h : SameArray s (due (pulseBody p s)) := (pulseBody_array p s).trans (due_array _)
  have k := h.trans (.ite (p := s.power.state = .doze ∧ pulseWakes p s = true) (.of_outer (wake_outer _)) (.refl _))
  have e := k.trans (pulseEvents_array p s _)
  exact e.trans ((SameArray.ite (dispatchFrames_array _) (.refl _)).trans (close_array _))

theorem withPulse_array (p : Option Pulse) (s : State) : SameArray s (withPulse p s) := by
  cases p with
  | none => exact .refl s
  | some p => exact pulseBody_array p s

theorem withPulseEvents_array (p : Option Pulse) (s₀ s : State) : SameArray s (withPulseEvents p s₀ s) := by
  cases p with
  | none => exact .refl s
  | some p => exact pulseEvents_array p s₀ s

theorem pfailFall_array (s : State) : SameArray s (pfailFall s) := by
  unfold pfailFall
  split
  · exact .of_outer (enterDead_outer s)
  · exact .refl s
  · exact .refl s
  · exact (SameArray.of_outer (enterFlush_outer s)).trans (.ite (finishFlush_array _) (.refl _))

theorem endReset_array (p g : Bool) (s : State) : SameArray s (endReset p g s) := .ite rfl rfl

theorem endRow_array {p : Prop} [Decidable p] {s : State} : SameArray s (if p then internalEvent id s else s) :=
  .ite (internalEvent_same .refl s) (.refl s)

/-! ### Every row -/

variable {s : State}

/-- The operation in progress, as `inProgress` finds it, is the engine's. -/
theorem op_of_inProgress {who : Requester} {x : Op} (h : inProgress who s = some x) :
    s.engine.op.map (·.op) = some x := by
  unfold inProgress at h
  split at h
  · split at h
    · rename_i r hr
      split at h
      · rw [hr, ← h]
        rfl
      · cases h
    · cases h
  · cases h

/-- A row as it may write the array. -/
def Writes (s : State) (a : Answer) : Prop :=
  ∃ t, a = .next t ∧ WritesOnly s.medium t.medium (s.engine.op.map (·.op))

theorem Writes.of_same {t : State} (h : SameArray s t) : Writes s (.next t) := ⟨t, rfl, .of_eq h⟩

/-- A PROGRAM's end writes what a PROGRAM may. -/
theorem writes_programEnd {who : Requester} {p : Program} {r : ProgramResult} {inFlush act : State → State}
    (h : inProgress who s = some (.program p)) (hf : ∀ t, SameArray t (inFlush t)) (ha : ∀ t, SameArray t (act t)) :
    WritesOnly s.medium (endEvent (programEnded p r) inFlush act s).medium (s.engine.op.map (·.op)) := by
  have e := endEvent_array (ended := programEnded p r) (f := fun m => m.endProgram p r) (fun _ => rfl) hf ha s
  rw [op_of_inProgress h, e]
  exact .endProgram p r

theorem writes_eraseEnd {who : Requester} {g : Nat} {r : EraseResult} {act : State → State}
    (h : inProgress who s = some (.erase g)) (ha : ∀ t, SameArray t (act t)) :
    WritesOnly s.medium (endEvent (eraseEnded g r) unchanged act s).medium (s.engine.op.map (·.op)) := by
  have e := endEvent_array (ended := eraseEnded g r) (inFlush := unchanged) (f := fun m => m.endErase g r)
    (fun _ => rfl) .refl ha s
  rw [op_of_inProgress h, e]
  exact .endErase r

theorem readEnd_array {act : State → State} (ha : ∀ t, SameArray t (act t)) (s : State) :
    SameArray s (endEvent engineIdle unchanged act s) :=
  endEvent_array (ended := engineIdle) (inFlush := unchanged) (f := id) (fun _ => rfl) .refl ha s

theorem writes_programJobEnd (r : ProgramResult) (s : State) : Writes s (execProgramJobEnd r s) := by
  refine ⟨_, rfl, ?_⟩
  split
  · exact writes_programEnd ‹_› (fun _ => .of_outer (jobEndedInFlush_outer ..)) (fun _ => .of_outer (jobEnded_outer ..))
  · exact .of_eq rfl

theorem writes_relocationEraseEnd (r : EraseResult) (s : State) : Writes s (execRelocationEraseEnd r s) := by
  refine ⟨_, rfl, ?_⟩
  split
  · refine writes_eraseEnd ‹_› (fun t => ?_)
    split
    · exact .ite (.of_outer (targetEraseFailed_outer ..)) (.of_outer (beginCopy_outer ..))
    · exact .refl t
  · exact .of_eq rfl

theorem writes_relocationReadEnd (noise : ReadNoise) (s : State) : Writes s (execRelocationReadEnd noise s) := by
  refine ⟨_, rfl, ?_⟩
  split
  · refine .of_eq (readEnd_array (fun t => ?_) s)
    split
    · exact .of_outer (copyAfterRead_outer ..)
    · exact .refl t
  · exact .of_eq rfl

theorem writes_relocationCopyEnd (r : ProgramResult) (s : State) : Writes s (execRelocationCopyEnd r s) := by
  refine ⟨_, rfl, ?_⟩
  split
  · refine writes_programEnd ‹_› .refl (fun t => ?_)
    split
    · exact .ite (.of_outer (abandonTarget_outer ..)) (.of_outer (copyPassed_outer ..))
    · exact .refl t
  · exact .of_eq rfl

theorem writes_allocationEraseEnd (r : EraseResult) (s : State) : Writes s (execAllocationEraseEnd r s) := by
  refine ⟨_, rfl, ?_⟩
  split
  · refine writes_eraseEnd ‹_› (fun t => ?_)
    split
    · exact .of_outer (allocationErased_outer ..)
    · exact .refl t
  · exact .of_eq rfl

theorem writes_backgroundEraseEnd (r : EraseResult) (s : State) : Writes s (execBackgroundEraseEnd r s) := by
  refine ⟨_, rfl, ?_⟩
  split
  · refine writes_eraseEnd ‹_› (fun t => ?_)
    split
    · exact .of_outer (backgroundFailed_outer ..)
    · exact .of_outer (backgroundPassed_outer ..)
  · exact .of_eq rfl

theorem writes_catalogueEraseEnd (r : EraseResult) (s : State) : Writes s (execCatalogueEraseEnd r s) := by
  refine ⟨_, rfl, ?_⟩
  split
  · refine writes_eraseEnd ‹_› (fun t => ?_)
    split
    · exact .of_outer (catalogueErased_outer ..)
    · exact .refl t
  · exact .of_eq rfl

theorem writes_catalogueProgramEnd (r : ProgramResult) (s : State) : Writes s (execCatalogueProgramEnd r s) := by
  refine ⟨_, rfl, ?_⟩
  split
  · refine writes_programEnd ‹_› .refl (fun t => ?_)
    split
    · exact .of_outer (catalogueProgrammed_outer ..)
    · exact .refl t
  · exact .of_eq rfl

theorem writes_ledgerProgramEnd (r : ProgramResult) (s : State) : Writes s (execLedgerProgramEnd r s) := by
  refine ⟨_, rfl, ?_⟩
  split
  · exact writes_programEnd ‹_› .refl (fun _ => .of_outer (ledgerProgrammed_outer ..))
  · exact .of_eq rfl

theorem writes_arrayReadEnd (noise : ReadNoise) (s : State) : Writes s (execArrayReadEnd noise s) := by
  refine ⟨_, rfl, .of_eq ?_⟩
  split
  · exact readEnd_array (fun _ => .of_outer (sequencerRead_outer ..)) s
  · rfl

theorem writes_mountReadEnd (noise : ReadNoise) (s : State) : Writes s (execMountReadEnd noise s) := by
  refine ⟨_, rfl, .of_eq ?_⟩
  split
  · exact readEnd_array (fun _ => .of_outer (mountStep_outer ..)) s
  · rfl

theorem writes_holdupProgramEnd (r : ProgramResult) (s : State) : Writes s (execHoldupProgramEnd r s) := by
  refine ⟨_, rfl, ?_⟩
  split
  · rename_i p h
    rw [op_of_inProgress h]
    exact .endProgram p r
  · exact .of_eq rfl

/-- An operation that is cut writes no more than it may (R61). -/
theorem writes_cut (cut : Cut) (s : State) :
    WritesOnly s.medium (cutOperation cut s).medium (s.engine.op.map (·.op)) := by
  unfold cutOperation
  split
  · rename_i r h
    rw [h]
    exact .cut r.op cut
  · exact .of_eq rfl

theorem writes_startReset (kind : ResetKind) (locken : Bool) (cut : Cut) (s : State) :
    WritesOnly s.medium (startReset kind locken cut s).medium (s.engine.op.map (·.op)) := writes_cut cut s

theorem writes_powerOnReset (locken rstN pfailN guardN : Bool) (cut : Cut) (s : State) :
    Writes s (execPowerOnReset locken rstN pfailN guardN cut s) := by
  refine ⟨_, rfl, (writes_startReset .por locken cut s).trans (.of_eq ?_)⟩
  exact SameArray.ite (s := startReset .por locken cut s) (endReset_array pfailN guardN _) rfl

theorem writes_supplyLoss (cut : Cut) (s : State) : Writes s (execSupplyLoss cut s) := by
  refine ⟨_, rfl, ?_⟩
  split
  · exact writes_cut cut s
  · exact .of_eq rfl

theorem writes_pinReset (cut : Cut) (s : State) : Writes s (execPinReset cut s) := by
  refine ⟨_, rfl, ?_⟩
  split
  · exact writes_startReset .pin false cut s
  · exact .of_eq rfl

theorem writes_pfailRecoveryReset (s : State) : Writes s (execPfailRecoveryReset s) := by
  refine ⟨_, rfl, ?_⟩
  split
  · exact writes_startReset .pfail false .nothingVisible s
  · exact .of_eq rfl

theorem pinResetEnd_array (pfailN guardN : Bool) (s : State) : Writes s (execPinResetEnd pfailN guardN s) :=
  .of_same (.ite (endReset_array pfailN guardN { s with pins := { s.pins with rstN := true } }) (.refl s))

theorem badFrame_array (s : State) : Writes s (execBadFrame s) := by
  refine .of_same ?_
  split
  · exact .refl s
  · exact .ite ((dispatchFrames_array s).trans (close_array _)) (.refl s)

theorem responseBufferWaitEnd_array (s : State) : Writes s (execResponseBufferWaitEnd s) := by
  refine .of_same ?_
  split
  · exact .refl s
  · exact .ite ((SameArray.of_outer (runResponding_outer ..)).trans (close_array _)) (.refl s)

theorem roomWaitEnd_array (s : State) : Writes s (execProgramQueueRoomWaitEnd s) := by
  refine .of_same ?_
  split
  · exact .refl s
  split
  · have goOn : ∀ d, SameArray s (ifDeferred dispatchFrames s (afterRoom d s)) := fun d =>
      (SameArray.of_outer (afterRoom_outer d s)).trans (.ite (dispatchFrames_array _) (.refl _))
    exact .ite ((goOn _).trans (close_array _)) (.refl s)
  · exact .refl s

theorem barrierEnd_array (s : State) : Writes s (execBarrierEnd s) := by
  refine .of_same ?_
  split
  · exact .refl s
  · exact .ite ((SameArray.of_outer (afterBarrier_outer ..)).trans (close_array _)) (.refl s)

theorem softResetEnd_array (p : Option Pulse) (s : State) : Writes s (execSoftResetEnd p s) := by
  have ended : ∀ t, SameArray t (endSoftReset t) := fun _ => rfl
  exact .of_same (.ite (((withPulse_array p s).trans (ended _)).trans
    ((withPulseEvents_array p s _).trans (close_array _))) (.refl s))

theorem haltEntry_array (p : Option Pulse) (s : State) : Writes s (execHaltEntry p s) :=
  .of_same (.ite (((withPulse_array p s).trans (due_array _)).trans
    ((withPulseEvents_array p s _).trans (close_array _))) (.refl s))

theorem powerFailSequence_array (s : State) : Writes s (execPowerFailSequence s) :=
  .of_same (.ite (.ite rfl (pfailFall_array { s with pins := { s.pins with pfailN := false } })) (.refl s))

theorem dozeWake_array (source : WakeSource) (s : State) : Writes s (execDozeWake source s) := by
  refine .of_same ?_
  cases source with
  | wakeN => exact .ite (internalEvent_same (fun t => .of_outer (wake_outer t)) s) (.refl s)
  | access w => exact .ite (anyAccess_array w s) (.refl s)
  | pulse p => exact .ite (sourcePulse_array p s) (.refl s)

/-- Every row writes the array no more than the operation in progress may. -/
theorem writes_exec (i : Instr) (s : State) : Writes s (exec i s) := by
  cases i with
  | offsetLatch => exact .of_same (.ite rfl rfl)
  | cmdinWrite b => exact .of_same (writeAccess_array (fun _ => .of_outer (takeByte_outer ..)) s)
  | cmdinRead => exact .of_same (readAccess_array (fun _ => .of_outer (hostError_outer ..)) s)
  | rspoutRead => exact .of_same (readAccess_array (fun _ => .of_outer (takeResponseByte_outer _)) s)
  | cploutRead => exact .of_same (readAccess_array (fun _ => .of_outer (takeCompletionByte_outer _)) s)
  | rsplenLowRead => exact .of_same (readAccess_array (effect := captureLength) (fun _ => rfl) s)
  | herrRead => exact .of_same (readAccess_array (effect := clearHerr) (fun _ => rfl) s)
  | flushcntRead => exact .of_same (readAccess_array (effect := clearFlushCnt) (fun _ => rfl) s)
  | evpendWrite b => exact .of_same (writeAccess_array (effect := clearEvents b) (fun _ => rfl) s)
  | evmaskWrite b => exact .of_same (writeAccess_array (effect := setMask b) (fun _ => rfl) s)
  | ignoredWrite b => exact .of_same (writeAccess_array (fun _ => .of_outer (hostError_outer ..)) s)
  | abort b | softReset b | rspDiscard b | cplRewind b => exact .of_same (.ite (hctlAccess_array b s) (.refl s))
  | abortSequencerSteps | softResetAbortSteps | softResetTailSync | dozeEntry => exact .of_same endRow_array
  | softResetEnd p => exact softResetEnd_array p s
  | badFrame => exact badFrame_array s
  | commit => exact .of_same (.ite (internalEvent_same .refl s) (dispatch_array _ s))
  | defineStream | deleteStream | queryStream | trimStream | append | cancel | sync | readRecord | seek | readNext
  | lockAll | unlockRange | freezeLocks | segmentStatus | arm | sealStream | format | vaultWrite | vaultRead
  | vaultClose | getOption | setOption | describe | identify | readNotices | setTime | getTime | setAlarm | doze
  | halt => exact .of_same (dispatch_array _ s)
  | responseBufferWaitEnd => exact responseBufferWaitEnd_array s
  | programQueueRoomWaitEnd => exact roomWaitEnd_array s
  | barrierEnd => exact barrierEnd_array s
  | dozeWake source => exact dozeWake_array source s
  | haltEntry p => exact haltEntry_array p s
  | haltWake => exact .of_same (.ite (internalEvent_same (fun _ => by rfl) s) (.refl s))
  | guardNFall | guardNRise => exact .of_same (.ite (internalEvent_same (fun _ => by rfl) s) (.refl s))
  | programJobEnd r => exact writes_programJobEnd r s
  | relocationEraseEnd r => exact writes_relocationEraseEnd r s
  | relocationReadEnd noise => exact writes_relocationReadEnd noise s
  | relocationCopyEnd r => exact writes_relocationCopyEnd r s
  | allocationEraseEnd r => exact writes_allocationEraseEnd r s
  | backgroundEraseEnd r => exact writes_backgroundEraseEnd r s
  | catalogueEraseEnd r => exact writes_catalogueEraseEnd r s
  | catalogueProgramEnd r => exact writes_catalogueProgramEnd r s
  | ledgerProgramEnd r => exact writes_ledgerProgramEnd r s
  | arrayReadEnd noise => exact writes_arrayReadEnd noise s
  | sourcePulse p | tickIncrement p | counterWrap p | alarmMatch p =>
    exact .of_same (.ite (sourcePulse_array p s) (.refl s))
  | powerFailSequence => exact powerFailSequence_array s
  | holdupProgramEnd r => exact writes_holdupProgramEnd r s
  | powerOnReset l r p g c => exact writes_powerOnReset l r p g c s
  | supplyLoss cut => exact writes_supplyLoss cut s
  | pinReset cut => exact writes_pinReset cut s
  | pinResetEnd p g => exact pinResetEnd_array p g s
  | pfailRecoveryReset => exact writes_pfailRecoveryReset s
  | pfailRecoveryResetEnd p g => exact .of_same (.ite (endReset_array p g s) (.refl s))
  | mountReadEnd noise => exact writes_mountReadEnd noise s

/-- Settles O52, row by row: a row leaves the array, or ends or cuts the operation in progress. -/
theorem onlyTheOperationInProgressWritesTheArray : Obligations.OnlyTheOperationInProgressWritesTheArray := by
  refine ⟨fun c s t h => ?_, fun m g frame off lo hi hg hf ho => erased_after_pass m lo hi hg hf ho⟩
  obtain ⟨u, hu, hw⟩ := writes_exec c s
  cases hu.symm.trans h
  exact hw

end Sys2Proof.Machine

/-!
PROOFS. The power-fail sequence: what the fall of PFAIL_N stops, the one further program, and the end in DEAD.
-/

namespace Sys2Proof.Machine

open Sys2Proof

variable {s : State}

/-- PFAIL_N is low. -/
def State.failing (s : State) : State := { s with pins := { s.pins with pfailN := false } }

/-- The device in PFAIL_FLUSH, after the first two steps of R160. -/
def State.flushing (s : State) : State := enterFlush s.failing

/-- DEAD, and nothing else (R160 step 5). -/
def State.dead (s : State) : State := { s with power := { s.power with state := .dead } }

/-- The one further program begins (R161). -/
def State.further (s : State) (p : Program) : State :=
  { s with engine := { s.engine with op := some { who := .holdup, op := .program p } } }

theorem finishFlush_none (h : furtherProgram s = none) : finishFlush s = s.dead := by
  unfold finishFlush
  rw [h]
  rfl

theorem finishFlush_some {p : Program} (h : furtherProgram s = some p) : finishFlush s = s.further p := by
  unfold finishFlush
  rw [h]
  rfl

/-- The states of R160's first case: the device operates, neither in HALT nor already in its power-fail sequence. -/
def stoppable (s : State) : Prop := s.power.state = .mounting ∨ isAwake s = true ∨ s.power.state = .doze

theorem isAwake_state (h : isAwake s = true) : ∃ a, s.power.state = .awake a := by
  unfold isAwake at h
  split at h
  · rename_i a ha
    exact ⟨a, ha⟩
  · simp at h

/-- PFAIL_N falls in a device that operates. -/
theorem exec_powerFail (h : operating s = true) : exec .powerFailSequence s = .next (pfailFall s.failing) := by
  unfold operating at h
  rw [Bool.and_eq_true, Option.isNone_iff_eq_none] at h
  obtain ⟨hs, hr⟩ := h
  have hreset : ¬ s.failing.power.reset.isSome = true := by
    rw [show s.failing.power.reset = none from hr]
    exact Bool.false_ne_true
  exact congrArg Host.Outcome.next ((if_pos hs).trans (if_neg hreset))

theorem pfailFall_stoppable (h : stoppable s) :
    pfailFall s = if s.engine.op = none then finishFlush (enterFlush s) else enterFlush s := by
  have cases' : s.power.state = .mounting ∨ (∃ a, s.power.state = .awake a) ∨ s.power.state = .doze :=
    h.imp id (Or.imp_left isAwake_state)
  have hop : (enterFlush s).engine.op.isNone = true ↔ s.engine.op = none := Option.isNone_iff_eq_none
  unfold pfailFall
  obtain e | ⟨a, e⟩ | e := cases' <;> rw [e] <;> exact if_congr hop rfl rfl

theorem exec_flush (ho : operating s = true) (h : stoppable s) :
    exec .powerFailSequence s =
      .next (if s.engine.op = none then finishFlush s.flushing else s.flushing) := by
  rw [exec_powerFail ho, pfailFall_stoppable (s := s.failing) h]
  rfl

theorem exec_flush_idle (ho : operating s = true) (h : stoppable s) (hop : s.engine.op = none) :
    exec .powerFailSequence s = .next (finishFlush s.flushing) := by rw [exec_flush ho h, if_pos hop]

/-! ### The further program -/

theorem further_of_no_holdup (h : s.power.flush.holdup = false) : furtherProgram s = none := by
  unfold furtherProgram
  rw [h]
  rfl

theorem further_of_job {j : Job} {js : List Job} (h : s.power.flush.holdup = true) (hj : s.write.jobs = j :: js) :
    furtherProgram s = headCandidate s j := by
  unfold furtherProgram
  rw [if_pos h, hj]

theorem further_of_tail (h : s.power.flush.holdup = true) (hj : s.write.jobs = []) :
    furtherProgram s = tailCandidate s := by
  unfold furtherProgram
  rw [if_pos h, hj]

theorem headCandidate_some {j : Job} (hr : s.power.flush.relocating = false) (hf : s.power.flush.headFailed = false)
    (hg : guarded s = false) (hl : locked s j.segment = false) : headCandidate s j = some (jobProgram j) := by
  simp [headCandidate, hr, hf, hg, hl]

theorem headCandidate_none {j : Job} (h : s.power.flush.relocating = true ∨ guarded s = true) :
    headCandidate s j = none := by
  obtain h | h := h <;> simp [headCandidate, h]

section

variable {n : Nat} {p : TailPos} (hn : s.power.lastCommit = some n) (ht : (streamOf s n).tail = .pos p)
include hn ht

theorem tailCandidate_some (hp : p.unprog < p.offset) (hg : guarded s = false) (hl : locked s p.segment = false) :
    tailCandidate s =
      some (jobProgram (remainderJob n (incarnationOf (streamOf s n)) (topGeneration (streamOf s n)) p).1) := by
  simp [tailCandidate, hn, ht, hp, hg, hl]

theorem tailCandidate_withheld (h : guarded s = true ∨ locked s p.segment = true) : tailCandidate s = none := by
  obtain h | h := h <;> simp [tailCandidate, hn, ht, h]

end

/-- Without a last-commit stream, or with nothing pending in its tail, there is no candidate. -/
theorem tailCandidate_none
    (h : s.power.lastCommit = none ∨ ∃ n, s.power.lastCommit = some n ∧ pendingBytes (streamOf s n).tail = 0) :
    tailCandidate s = none := by
  unfold tailCandidate
  obtain h | ⟨n, hn, hp⟩ := h
  · rw [h]
  · rw [hn]
    dsimp only
    split
    · rename_i p ht
      rw [ht] at hp
      have hle : ¬ p.unprog < p.offset := Nat.not_lt.mpr (Nat.le_of_sub_eq_zero hp)
      exact if_neg fun h => hle h.1
    · rfl

/-! ### The end of an operation in PFAIL_FLUSH -/

theorem inProgress_operating {who : Requester} {x : Op} (h : inProgress who s = some x) : operating s = true := by
  unfold inProgress at h
  split at h
  · assumption
  · cases h

/-- The event in which an operation ends in PFAIL_FLUSH, where no further program may follow. -/
theorem endEvent_flush {ended inFlush act : State → State} (hs : s.power.state = .pfailFlush)
    (hh : (inFlush (ended s)).power.flush.holdup = false) :
    endEvent ended inFlush act s = settle (inFlush (ended s)).dead := by
  unfold endEvent
  rw [if_pos hs, finishFlush_none (further_of_no_holdup hh)]

theorem jobEndedInFlush_eq (r : ProgramResult) (s : State) :
    jobEndedInFlush r s = { s with
      write := { s.write with jobs := if r.failed then s.write.jobs else s.write.jobs.drop 1 }
      power := { s.power with flush := { s.power.flush with
        headFailed := if r.failed then true else s.power.flush.headFailed } } } := by
  unfold jobEndedInFlush
  cases r.failed <;> rfl

/-- Nothing was posted in the event, so the Completion Queue stays. -/
theorem settle_cpl_same (h : s.cpl.fresh = []) : (settle s).cpl = s.cpl := by
  have hs : (settle s).cpl = { s.cpl with records := s.cpl.records ++ orderByKey s.cpl.fresh, fresh := [] } := rfl
  rw [hs, h, show orderByKey ([] : List (Nat × Completion)) = [] from rfl, List.append_nil]
  cases hc : s.cpl
  rw [hc] at h
  cases h
  rfl

/-- The head job's program ends in PFAIL_FLUSH, under IMMEDIATE (R160 steps 3 to 5). -/
theorem jobEnd_in_flush {p : Program} {r : ProgramResult} (hp : inProgress .job s = some (.program p))
    (hs : s.power.state = .pfailFlush) (hh : s.power.flush.holdup = false) :
    ∃ t, exec (.programJobEnd r) s = .next t ∧ Programmed s t p r ∧ t.power.state = .dead ∧ t.engine.op = none ∧
      t.write.jobs = (if r.failed then s.write.jobs else s.write.jobs.drop 1) ∧ t.streams = s.streams ∧
      t.sequencer = s.sequencer ∧ (s.cpl.fresh = [] → t.cpl = s.cpl) := by
  have hx : exec (.programJobEnd r) s = .next (settle (jobEndedInFlush r (programEnded p r s)).dead) := by
    show Host.Outcome.next _ = _
    rw [hp]
    exact congrArg _ (endEvent_flush hs (by rw [jobEndedInFlush_eq]; exact hh))
  refine ⟨_, hx, ?_⟩
  rw [jobEndedInFlush_eq]
  exact ⟨⟨rfl, rfl, rfl⟩, rfl, rfl, rfl, rfl, rfl, settle_cpl_same⟩

/-- Settles O53 from the candidates of the further program and the end of an operation in PFAIL_FLUSH. -/
theorem powerFailStopsTheDevice : Obligations.PowerFailStopsTheDevice := by
  refine ⟨fun s ho hs u hu => ?_, fun s ho hs => ?_, fun s p r hp hs hh => jobEnd_in_flush hp hs hh,
    fun s p r hp => ?_⟩
  · have hflush : u = s.flushing := hu
    subst hflush
    have idle := exec_flush_idle ho hs
    have dead : furtherProgram s.flushing = none → s.engine.op = none →
        exec .powerFailSequence s = .next s.flushing.dead := fun hf hop => by rw [idle hop, finishFlush_none hf]
    have goes : ∀ p, furtherProgram s.flushing = some p → s.engine.op = none →
        exec .powerFailSequence s = .next (s.flushing.further p) := fun p hf hop => by
      rw [idle hop, finishFlush_some hf]
    have held : s.options.holdupUse = 1 → s.flushing.power.flush.holdup = true := fun h => decide_eq_true h
    refine ⟨fun hop => by rw [exec_flush ho hs, if_neg hop],
      fun hop hu => dead (further_of_no_holdup (decide_eq_false hu)) hop,
      fun j js hop hu hj hr hg hl => goes _ ((further_of_job (held hu) hj).trans
        (headCandidate_some (congrArg Option.isSome hr) rfl hg hl)) hop,
      fun hop hu hj hr => ?_, fun hop hu hj _ => ⟨fun n p hn ht hp => ⟨fun hg hl => ⟨fun h3 => ?_, fun h3 hi h5 => ?_⟩,
        fun h => ?_⟩, fun h => dead ((further_of_tail (held hu) hj).trans (tailCandidate_none h)) hop⟩⟩
    · obtain ⟨j, js, hjs⟩ := List.exists_cons_of_ne_nil hj
      have hrel : s.flushing.power.flush.relocating = true ∨ guarded s.flushing = true :=
        hr.imp Option.isSome_iff_ne_none.mpr id
      exact dead ((further_of_job (held hu) hjs).trans (headCandidate_none hrel)) hop
    · refine goes _ ((further_of_tail (held hu) hj).trans ((tailCandidate_some hn ht hp hg hl).trans ?_)) hop
      rw [remainderJob_portion h3]
    · refine goes _ ((further_of_tail (held hu) hj).trans ((tailCandidate_some hn ht hp hg hl).trans ?_)) hop
      rw [remainderJob_fourth h3 hi h5 hp.le]
    · exact dead ((further_of_tail (held hu) hj).trans (tailCandidate_withheld hn ht h)) hop
  · rw [exec_powerFail ho]
    unfold pfailFall
    rw [show s.failing.power.state = .halt from hs]
    rfl
  · show Host.Outcome.next _ = _
    rw [hp]
    rfl

end Sys2Proof.Machine

/-!
PROOFS. The three mounting resets: what each keeps and empties, how it ends, and the loss of supply.
-/

namespace Sys2Proof.Machine

open Sys2Proof

variable {s : State}

/-! ### The start of a reset -/

/-- The operation in progress is cut, and nothing else that is held changes (R61). -/
theorem cutOperation_eq (cut : Cut) (s : State) :
    cutOperation cut s = { s with
      medium := s.cutMedium cut
      engine := { s.engine with op := none } } := by
  unfold cutOperation State.cutMedium engineIdle
  cases h : s.engine.op with
  | some r => rfl
  | none =>
    have he : s.engine = { s.engine with op := none } := by rw [← h]
    rw [← he]
    rfl

/-- The machine at the start of a mounting reset: the array, the Timebase and the Guard Unit as the kind of reset leaves
them, the rest as after reset with an idle engine (R168, Table 12-1). -/
def State.resetting (s : State) (kind : ResetKind) (locken : Bool) (cut : Cut) : State :=
  { State.reset with
    engine := Engine.fresh
    guard := resetGuard kind locken s.guard
    time := resetTime kind s.time
    events := heldEvents
    power := resetPower kind s.power
    pins := s.pins
    medium := s.cutMedium cut
    pending := s.pending }

theorem startReset_eq (kind : ResetKind) (locken : Bool) (cut : Cut) (s : State) :
    startReset kind locken cut s = s.resetting kind locken cut := by
  unfold startReset
  rw [cutOperation_eq]
  rfl

theorem resetPower_por (p : Power) : resetPower .por p = { State.reset.power with
    state := .dead, reset := some .por, mount := none } := by
  unfold resetPower
  rw [show decide (ResetKind.por = .por) = true from rfl, Bool.or_true]
  rfl

/-- No access is answered while the device is DEAD (R19). -/
theorem windowLive_dead (h : s.power.state = .dead) : windowLive s = false := by
  unfold windowLive
  rw [h]
  exact Bool.and_false _

/-- A cut that leaves nothing visible leaves the array (R61). -/
theorem cutMedium_nothing (s : State) : s.cutMedium .nothingVisible = s.medium := by
  unfold State.cutMedium
  cases s.engine.op with
  | none => rfl
  | some r => cases h : r.op <;> simp only [Option.map_some, Option.getD_some, h] <;> rfl

/-! ### The power-on reset -/

theorem exec_powerOnReset (locken rstN pfailN guardN : Bool) (cut : Cut) (s : State) :
    exec (.powerOnReset locken rstN pfailN guardN cut) s =
      .next (if rstN then
        endReset pfailN guardN { s.resetting .por locken cut with pins := ⟨rstN, pfailN, true⟩ }
      else { s.resetting .por locken cut with pins := ⟨rstN, pfailN, true⟩ }) := by
  rw [← startReset_eq]
  rfl

/-- Settles O54 by the state at the start of a power-on reset (`startReset_eq`). -/
theorem powerOnResetLeavesTheResetState : Obligations.PowerOnResetLeavesTheResetState := by
  intro s locken guardN cut
  refine ⟨?_, ⟨_, exec_powerOnReset .., rfl, rfl, rfl, windowLive_dead rfl, rfl, rfl, rfl⟩,
    fun pfailN => ⟨_, exec_powerOnReset .., rfl, rfl, rfl, windowLive_dead rfl, rfl⟩⟩
  rw [exec_powerOnReset, if_pos rfl]
  unfold State.resetting
  rw [resetPower_por]
  rfl

/-! ### The pin reset and the power-fail recovery reset -/

/-- What a reset other than the power-on reset keeps and empties. -/
structure KeptByReset (s t : State) (kind : ResetKind) (m : Medium) : Prop where
  reset : t.power.reset = some kind
  last : t.power.lastReset = kind
  dark : windowLive t = false
  time : t.time = { s.time with prescaler := 0, armed := false, running := true }
  guard : t.guard = { s.guard with range := if s.guard.frozen then s.guard.range else none, episode := false }
  options : t.options = State.reset.options
  host : t.host = State.reset.host
  sequencer : t.sequencer = State.reset.sequencer
  cpl : t.cpl = State.reset.cpl
  rsp : t.rsp = State.reset.rsp
  write : t.write = State.reset.write
  engine : t.engine = { State.reset.engine with op := none }
  streams : t.streams = State.reset.streams
  segments : t.segments = State.reset.segments
  catalogue : t.catalogue = State.reset.catalogue
  vault : t.vault = State.reset.vault
  events : t.events = { latched := 0, mask := 0, notices := [], lost := 0, holdClear := true, fresh := [] }
  medium : t.medium = m
  pending : t.pending = s.pending

theorem kept_resetting {kind : ResetKind} (hk : kind ≠ .por) (locken : Bool) (cut : Cut) (s : State) (p : Pins) :
    KeptByReset s { s.resetting kind locken cut with pins := p } kind (s.cutMedium cut) where
  reset := rfl
  last := rfl
  dark := windowLive_dead rfl
  time := by
    cases kind with
    | por => exact absurd rfl hk
    | pin | pfail => rfl
  guard := by
    cases kind with
    | por => exact absurd rfl hk
    | pin | pfail => rfl
  options := rfl
  host := rfl
  sequencer := rfl
  cpl := rfl
  rsp := rfl
  write := rfl
  engine := rfl
  streams := rfl
  segments := rfl
  catalogue := rfl
  vault := rfl
  events := rfl
  medium := rfl
  pending := rfl

theorem exec_pinReset (cut : Cut) (hs : s.pins.supply = true) (hr : s.pins.rstN = true) :
    exec (.pinReset cut) s =
      .next { s.resetting .pin false cut with pins := { s.pins with rstN := false } } := by
  have h : (s.pins.supply && s.pins.rstN) = true := by rw [hs, hr]; rfl
  rw [show s.resetting .pin false cut = startReset .pin false cut s from (startReset_eq ..).symm]
  refine (congrArg Host.Outcome.next (if_pos h)).trans ?_
  rw [startReset_eq]
  rfl

theorem exec_pfailRecoveryReset (ho : operating s = true) (hd : s.power.state = .dead) :
    exec .pfailRecoveryReset s =
      .next { s.resetting .pfail false .nothingVisible with pins := { s.pins with pfailN := true } } := by
  refine (congrArg Host.Outcome.next (if_pos ⟨ho, hd⟩)).trans ?_
  rw [startReset_eq]
  rfl

/-! ### The ends of resets -/

/-- Mount begins after a mounting reset that finds PFAIL_N high (R162, R169). -/
def State.mounts (s : State) (guardN : Bool) : State :=
  { s with
    pins := { s.pins with rstN := true, pfailN := true }
    power := { s.power with state := .mounting, reset := none, mount := some Mount.first }
    events := { s.events with holdClear := false }
    guard := { s.guard with level := guardN }
    engine := { s.engine with op := some { who := .mount, op := .read 0 0 0 512 } } }

/-- A mounting reset that finds PFAIL_N low ends in DEAD (R162). -/
def State.staysDead (s : State) : State :=
  { s with
    pins := { s.pins with rstN := true, pfailN := false }
    power := { s.power with state := .dead, reset := none } }

/-- The pins with RST_N high. -/
def State.released (s : State) : State := { s with pins := { s.pins with rstN := true } }

theorem endReset_high (guardN : Bool) (s : State) : endReset true guardN s.released = s.mounts guardN := rfl

theorem endReset_low (guardN : Bool) (s : State) : endReset false guardN s.released = s.staysDead := rfl

theorem released_eq (h : s.pins.rstN = true) : s.released = s := by
  unfold State.released
  have hp : ({ s.pins with rstN := true } : Pins) = s.pins := by rw [← h]
  rw [hp]

theorem exec_pinResetEnd (pfailN guardN : Bool) (hs : s.pins.supply = true) (hr : s.pins.rstN = false)
    (hk : s.power.reset ≠ none) :
    exec (.pinResetEnd pfailN guardN) s = .next (endReset pfailN guardN s.released) := by
  have h : (s.pins.supply && !s.pins.rstN && s.power.reset.isSome) = true := by
    rw [hs, hr, Option.isSome_iff_ne_none.mpr hk]
    rfl
  exact congrArg Host.Outcome.next (if_pos h)

theorem exec_pfailRecoveryResetEnd (pfailN guardN : Bool) (hs : s.pins.supply = true) (hr : s.pins.rstN = true)
    (hk : s.power.reset = some .pfail) :
    exec (.pfailRecoveryResetEnd pfailN guardN) s = .next (endReset pfailN guardN s.released) := by
  rw [released_eq hr]
  exact congrArg Host.Outcome.next (if_pos ⟨hs, hk⟩)

/-- Settles O55: the state at the start of a reset, its two ends, and the cut of a loss of supply. -/
theorem mountingResetsKeepTimeAndLocks : Obligations.MountingResetsKeepTimeAndLocks := by
  refine ⟨fun s i kind m h => ?_, fun s i pfailN guardN hs h => ?_, fun s cut hs => ?_⟩
  · have starts : ∃ t, exec i s = .next t ∧ KeptByReset s t kind m := by
      obtain ⟨cut, rfl, rfl, hs, hr, rfl⟩ | ⟨rfl, rfl, ho, hd, rfl⟩ := h
      · exact ⟨_, exec_pinReset cut hs hr, kept_resetting ResetKind.noConfusion false cut s _⟩
      · have k := kept_resetting (kind := .pfail) ResetKind.noConfusion false .nothingVisible s
          { s.pins with pfailN := true }
        rw [cutMedium_nothing] at k
        exact ⟨_, exec_pfailRecoveryReset ho hd, k⟩
    obtain ⟨t, ht, k⟩ := starts
    exact ⟨t, ht, k.reset, k.last, k.dark, k.time, k.guard, k.options, k.host, k.sequencer, k.cpl, k.rsp, k.write,
      k.engine, k.streams, k.segments, k.catalogue, k.vault, k.events, k.medium, k.pending⟩
  · have ends : exec i s = .next (endReset pfailN guardN s.released) := by
      obtain ⟨rfl, hr, hk⟩ | ⟨rfl, hr, hk⟩ := h
      · exact exec_pinResetEnd pfailN guardN hs hr hk
      · exact exec_pfailRecoveryResetEnd pfailN guardN hs hr hk
    constructor <;> rintro rfl
    · exact ends.trans (congrArg _ (endReset_high ..))
    · exact ends.trans (congrArg _ (endReset_low ..))
  · refine (congrArg Host.Outcome.next (if_pos hs)).trans ?_
    rw [cutOperation_eq]

end Sys2Proof.Machine

/-!
PROOFS. Mount: the READ that follows each READ of the scan, the class of each user segment, and the end of a scan.
-/

namespace Sys2Proof.Machine

open Sys2Proof

variable {s : State} {m : Mount} {f : FrameRead}

/-! ### A READ of the scan ends -/

/-- The event in which a READ of the scan ends, where the scan's own step defers no command. -/
theorem exec_mountReadEnd (h : Scans s m) {noise : ReadNoise} {t : State}
    (ht : mountStep (readFrame s.medium m.segment m.frame 0 512 noise) s.withIdle = t)
    (hd : t.sequencer.deferred = s.sequencer.deferred) :
    exec (.mountReadEnd noise) s = .next (settle (choose t)) := by
  have hp : inProgress .mount s = some (.read m.segment m.frame 0 512) := by
    unfold inProgress
    rw [if_pos h.operating, h.inProgress]
    rfl
  have hflush : ¬ s.power.state = .pfailFlush := by
    rw [h.state]
    exact DevState.noConfusion
  show Host.Outcome.next _ = _
  rw [hp]
  refine congrArg _ ((if_neg hflush).trans ?_)
  refine (internalEvent_of h.clear ?_).trans (congrArg (fun x => settle (choose x)) ht)
  show (mountStep (readFrame s.medium m.segment m.frame 0 512 noise) s.withIdle).sequencer.deferred.length ≤ _
  rw [ht, hd]

/-- A busy engine and an event that posts nothing: the end of the event changes nothing. -/
theorem close_busy {t : State} (ho : t.engine.op.isSome) (hc : t.cpl.fresh = []) (he : t.events.fresh = []) :
    settle (choose t) = t := by
  have hf : (flushCompletions t).events.fresh = [] := he
  have hcpl : (flushCompletions t).cpl = t.cpl := settle_cpl_same hc
  have hev : ({ t.events with fresh := [] } : EventUnit) = t.events := by rw [← he]
  rw [choose_busy ho]
  unfold settle flushNotices
  rw [hf, show orderByKey ([] : List (Nat × Notice)) = [] from rfl, List.foldl_nil]
  show ({ t with cpl := (flushCompletions t).cpl, events := { t.events with fresh := [] } } : State) = t
  rw [hcpl, hev]

/-- The scan goes on with its next READ, and nothing else changes. -/
theorem exec_scansTo (h : Scans s m) (hc : s.cpl.fresh = []) (he : s.events.fresh = []) {noise : ReadNoise}
    {next : Mount} (hn : scan (readFrame s.medium m.segment m.frame 0 512 noise) m = some next) :
    exec (.mountReadEnd noise) s = .next (s.scansTo next) := by
  have ht : mountStep (readFrame s.medium m.segment m.frame 0 512 noise) s.withIdle = s.scansTo next := by
    unfold mountStep
    rw [show s.withIdle.power.mount = some m from h.mount]
    dsimp only
    rw [hn]
    rfl
  rw [exec_mountReadEnd h ht rfl, close_busy (t := s.scansTo next) rfl hc he]

/-! ### The order of the READs (log 18) -/

theorem scanCatalogue_place (f : FrameRead) (m : Mount) :
    (scanCatalogue f m).segment = m.segment ∧ (scanCatalogue f m).frame = m.frame := by
  unfold scanCatalogue
  dsimp only
  split <;> exact ⟨rfl, rfl⟩

theorem scanLedger_place (f : FrameRead) (m : Mount) :
    (scanLedger f m).segment = m.segment ∧ (scanLedger f m).frame = m.frame := by
  unfold scanLedger
  dsimp only
  split
  · split <;> exact ⟨rfl, rfl⟩
  · exact ⟨rfl, rfl⟩

theorem scanVault_place (f : FrameRead) (m : Mount) :
    (scanVault f m).segment = m.segment ∧ (scanVault f m).frame = m.frame := by
  unfold scanVault
  split <;> exact ⟨rfl, rfl⟩

/-- Where a scan stands. -/
def Mount.place (m : Mount) : Nat × Nat := (m.segment, m.frame)

theorem scan_catalogue (h : m.stage = .catalogue) :
    ∃ m', scan f m = some m' ∧ m'.place = if m.frame < 31 then (m.segment, m.frame + 1)
      else if m.segment = 0 then (1, 0) else (2, 0) := by
  obtain ⟨hs, hfr⟩ := scanCatalogue_place f m
  unfold scan
  rw [h]
  dsimp only
  rw [hfr, hs]
  split_ifs
  · exact ⟨_, rfl, rfl⟩
  · exact ⟨_, rfl, rfl⟩
  · exact ⟨_, rfl, rfl⟩

theorem scan_ledger (h : m.stage = .ledger) :
    ∃ m', scan f m = some m' ∧ m'.place = if m.frame < 31 then (m.segment, m.frame + 1) else (3, 0) := by
  obtain ⟨hs, hfr⟩ := scanLedger_place f m
  unfold scan
  rw [h]
  dsimp only
  rw [hfr]
  split_ifs
  · exact ⟨_, rfl, congrArg (·, m.frame + 1) hs⟩
  · exact ⟨_, rfl, rfl⟩

theorem scan_vault (h : m.stage = .vault) :
    ∃ m', scan f m = some m' ∧ m'.place = if m.frame < 31 then (m.segment, m.frame + 1) else (5, 0) := by
  obtain ⟨hs, hfr⟩ := scanVault_place f m
  unfold scan
  rw [h]
  dsimp only
  rw [hfr]
  split_ifs
  · exact ⟨_, rfl, congrArg (·, m.frame + 1) hs⟩
  · exact ⟨_, rfl, rfl⟩

/-! ### The classification (Table 11-3) -/

/-- Only the highest incarnation read is noted (R135). -/
theorem noteIncarnation_eq (f : FrameRead) (m : Mount) :
    ∃ k, m.dataIncarnation ≤ k ∧ noteIncarnation f m = { m with dataIncarnation := k } := by
  unfold noteIncarnation
  split
  · split
    · exact ⟨_, Nat.le_max_left .., rfl⟩
    · exact ⟨_, le_refl _, rfl⟩
  · exact ⟨_, le_refl _, rfl⟩

/-- The segments a version lists as retired. -/
def foundRetired (m : Mount) : List Nat := (m.best.map (fun b => b.1.retired)).getD []

theorem labelMatch_none (h : ∀ l, f.label ≠ .valid l) : labelMatch m f = none := by
  unfold labelMatch
  split
  · rename_i l hl
    exact absurd hl (h l)
  · rfl

theorem labelMatch_some {l : Label} {d : Definition} (hl : f.label = .valid l) (hk : l.kind = .data)
    (ho : l.firstOffset = some 0) (hn : l.stream < 8) (hd : foundDefn m l.stream = some d)
    (hi : l.incarnation = d.incarnation) : labelMatch m f = some (l, d) := by
  unfold labelMatch
  rw [hl]
  dsimp only
  rw [hd]
  exact if_pos ⟨hk, ho, hn, hi⟩

theorem classify_retired (h : m.segment ∈ foundRetired m) :
    classify f m = { m with retiredSegs := m.segment :: m.retiredSegs } :=
  if_pos (List.contains_iff_mem.mpr h)

theorem not_contains {l : List Nat} {x : Nat} (h : x ∉ l) : ¬ l.contains x = true :=
  fun e => h (List.contains_iff_mem.mp e)

section

variable (hr : m.segment ∉ foundRetired m)
include hr

theorem classify_sealed_unmatched (hs : m.segment ∈ m.sealedSet) (hl : labelMatch m f = none) :
    classify f m = { m with strayed := m.segment :: m.strayed } := by
  refine (if_neg (not_contains hr)).trans ((if_pos (List.contains_iff_mem.mpr hs)).trans ?_)
  rw [hl]

theorem classify_sealed {l : Label} {d : Definition} (hs : m.segment ∈ m.sealedSet)
    (hl : labelMatch m f = some (l, d)) :
    classify f m = { m with cands := asCandidate m l true f :: m.cands } := by
  refine (if_neg (not_contains hr)).trans ((if_pos (List.contains_iff_mem.mpr hs)).trans ?_)
  rw [hl]

variable (hs : m.segment ∉ m.sealedSet)
include hs

theorem classify_erased (he : frameErased f = true) :
    classify f m = { m with freeErased := m.segment :: m.freeErased } :=
  (if_neg (not_contains hr)).trans ((if_neg (not_contains hs)).trans (if_pos he))

variable (he : frameErased f = false)
include he

theorem classify_programmed : classify f m =
    match labelMatch m f with
    | some (l, d) =>
      if d.archived then { m with freeStale := m.segment :: m.freeStale }
      else { m with cands := asCandidate m l false f :: m.cands }
    | none => { m with freeStale := m.segment :: m.freeStale } :=
  (if_neg (not_contains hr)).trans ((if_neg (not_contains hs)).trans (if_neg (ne_true_of_eq_false he)))

theorem classify_unmatched (hl : labelMatch m f = none) :
    classify f m = { m with freeStale := m.segment :: m.freeStale } := by
  rw [classify_programmed hr hs he, hl]

theorem classify_matched {l : Label} {d : Definition} (hl : labelMatch m f = some (l, d)) :
    classify f m = if d.archived then { m with freeStale := m.segment :: m.freeStale }
      else { m with cands := asCandidate m l false f :: m.cands } := by
  rw [classify_programmed hr hs he, hl]

end

/-- A frame with a valid label does not read erased. -/
theorem frameErased_valid {l : Label} (h : f.label = .valid l) : frameErased f = false := by
  unfold frameErased
  rw [h]
  rfl

/-- How Table 11-3 files the segment the scan stands at. -/
inductive Filed (m : Mount) (f : FrameRead) : (Mount → Mount) → Prop
  | retired (h : m.segment ∈ foundRetired m) :
    Filed m f fun x => { x with retiredSegs := m.segment :: x.retiredSegs }
  | erased (hr : m.segment ∉ foundRetired m) (hs : m.segment ∉ m.sealedSet) (he : frameErased f = true) :
    Filed m f fun x => { x with freeErased := m.segment :: x.freeErased }
  | strayed (hr : m.segment ∉ foundRetired m) (hs : m.segment ∈ m.sealedSet) (hl : ∀ l, f.label ≠ .valid l) :
    Filed m f fun x => { x with strayed := m.segment :: x.strayed }
  | stale (hr : m.segment ∉ foundRetired m) (hs : m.segment ∉ m.sealedSet) (he : frameErased f = false)
      (hl : ∀ l, f.label ≠ .valid l) : Filed m f fun x => { x with freeStale := m.segment :: x.freeStale }
  | archived {l : Label} {d : Definition} (hr : m.segment ∉ foundRetired m) (hs : m.segment ∉ m.sealedSet)
      (hv : f.label = .valid l) (hl : labelMatch m f = some (l, d)) (ha : d.archived = true) :
    Filed m f fun x => { x with freeStale := m.segment :: x.freeStale }
  | candidate {l : Label} {d : Definition} (hr : m.segment ∉ foundRetired m) (hv : f.label = .valid l)
      (hl : labelMatch m f = some (l, d)) (ha : m.segment ∈ m.sealedSet ∨ d.archived = false) :
    Filed m f fun x => { x with cands := asCandidate m l (m.sealedSet.contains m.segment) f :: x.cands }

theorem classify_filed {filed : Mount → Mount} (h : Filed m f filed) : classify f m = filed m := by
  cases h with
  | retired h => exact classify_retired h
  | erased hr hs he => exact classify_erased hr hs he
  | strayed hr hs hl => exact classify_sealed_unmatched hr hs (labelMatch_none hl)
  | stale hr hs he hl => exact classify_unmatched hr hs he (labelMatch_none hl)
  | archived hr hs hv hl ha => rw [classify_matched hr hs (frameErased_valid hv) hl, if_pos ha]
  | @candidate l d hr hv hl ha =>
    by_cases hs : m.segment ∈ m.sealedSet
    · rw [classify_sealed hr hs hl, List.contains_iff_mem.mpr hs]
    · have hd : ¬ d.archived = true := ne_true_of_eq_false (ha.resolve_left hs)
      have hc : m.sealedSet.contains m.segment = false := Bool.eq_false_iff.mpr (not_contains hs)
      rw [classify_matched hr hs (frameErased_valid hv) hl, if_neg hd, hc]

/-- Filing does not depend on the incarnations read, and says nothing of them or of the scan's place. -/
theorem filed_noted {filed : Mount → Mount} (h : Filed m f filed) (k g : Nat) :
    Filed { m with dataIncarnation := k } f filed ∧
      { filed { m with dataIncarnation := k } with segment := g } =
        filed { m with segment := g, dataIncarnation := k } := by
  cases h with
  | retired h => exact ⟨.retired h, rfl⟩
  | erased hr hs he => exact ⟨.erased hr hs he, rfl⟩
  | strayed hr hs hl => exact ⟨.strayed hr hs hl, rfl⟩
  | stale hr hs he hl => exact ⟨.stale hr hs he hl, rfl⟩
  | archived hr hs hv hl ha => exact ⟨.archived hr hs hv hl ha, rfl⟩
  | candidate hr hv hl ha => exact ⟨.candidate (m := { m with dataIncarnation := k }) hr hv hl ha, rfl⟩

theorem classify_segment (f : FrameRead) (m : Mount) :
    (classify f m).segment = m.segment ∧ (classify f m).frame = m.frame := by
  unfold classify
  dsimp only
  split
  · exact ⟨rfl, rfl⟩
  split
  · split <;> exact ⟨rfl, rfl⟩
  split
  · exact ⟨rfl, rfl⟩
  split
  · split <;> exact ⟨rfl, rfl⟩
  · exact ⟨rfl, rfl⟩

theorem noteIncarnation_place (f : FrameRead) (m : Mount) :
    (noteIncarnation f m).segment = m.segment ∧ (noteIncarnation f m).frame = m.frame := by
  obtain ⟨k, -, h⟩ := noteIncarnation_eq f m
  rw [h]
  exact ⟨rfl, rfl⟩

theorem scan_classify (h : m.stage = .classify) (hg : m.segment < 1023) :
    scan f m = some { classify f (noteIncarnation f m) with segment := m.segment + 1 } := by
  have hs : (classify f (noteIncarnation f m)).segment = m.segment :=
    (classify_segment ..).1.trans (noteIncarnation_place ..).1
  unfold scan
  rw [h]
  dsimp only
  rw [hs, if_pos hg]

theorem scan_chains (h : m.stage = .chains) (hf : m.frame < 31) :
    ∃ m', scan f m = some m' ∧ m'.place = (m.segment, m.frame + 1) := by
  obtain ⟨hs, hfr⟩ := noteIncarnation_place f { m with stage := .chains, frames := f :: m.frames }
  unfold scan
  rw [h]
  dsimp only
  rw [hfr, if_pos hf]
  exact ⟨_, rfl, congrArg (·, m.frame + 1) hs⟩

/-- The READ that follows each READ of the scan. -/
theorem scansOn {noise : ReadNoise} {seg frame : Nat} (h : Scans s m) (hc : s.cpl.fresh = [])
    (he : s.events.fresh = [])
    (hn : m.frame < 31 → m.stage = .catalogue ∨ m.stage = .ledger ∨ m.stage = .vault →
      seg = m.segment ∧ frame = m.frame + 1)
    (hcat : m.frame = 31 → m.stage = .catalogue → seg = (if m.segment = 0 then 1 else 2) ∧ frame = 0)
    (hled : m.frame = 31 → m.stage = .ledger → seg = 3 ∧ frame = 0)
    (hvau : m.frame = 31 → m.stage = .vault → seg = 5 ∧ frame = 0)
    (hcls : m.stage = .classify → m.segment < 1023 ∧ seg = m.segment + 1 ∧ frame = m.frame)
    (hch : m.stage = .chains → m.frame < 31 ∧ seg = m.segment ∧ frame = m.frame + 1) (hf : m.frame ≤ 31) :
    ∃ m', exec (.mountReadEnd noise) s = .next (s.scansTo m') ∧ m'.segment = seg ∧ m'.frame = frame := by
  have goes : (∃ m', scan (readFrame s.medium m.segment m.frame 0 512 noise) m = some m' ∧ m'.place = (seg, frame)) →
      ∃ m', exec (.mountReadEnd noise) s = .next (s.scansTo m') ∧ m'.segment = seg ∧ m'.frame = frame := by
    rintro ⟨m', hm, hp⟩
    exact ⟨m', exec_scansTo h hc he hm, congrArg Prod.fst hp, congrArg Prod.snd hp⟩
  refine goes ?_
  have last : ¬ m.frame < 31 → m.frame = 31 := by omega
  cases hst : m.stage with
  | catalogue =>
    obtain ⟨m', hm, hp⟩ := scan_catalogue (f := readFrame s.medium m.segment m.frame 0 512 noise) hst
    refine ⟨m', hm, hp.trans ?_⟩
    split_ifs with h1 h2
    · obtain ⟨rfl, rfl⟩ := hn h1 (.inl hst)
      rfl
    · obtain ⟨hs, rfl⟩ := hcat (last h1) hst
      rw [hs, if_pos h2]
    · obtain ⟨hs, rfl⟩ := hcat (last h1) hst
      rw [hs, if_neg h2]
  | ledger =>
    obtain ⟨m', hm, hp⟩ := scan_ledger (f := readFrame s.medium m.segment m.frame 0 512 noise) hst
    refine ⟨m', hm, hp.trans ?_⟩
    split_ifs with h1
    · obtain ⟨rfl, rfl⟩ := hn h1 (.inr (.inl hst))
      rfl
    · obtain ⟨rfl, rfl⟩ := hled (last h1) hst
      rfl
  | vault =>
    obtain ⟨m', hm, hp⟩ := scan_vault (f := readFrame s.medium m.segment m.frame 0 512 noise) hst
    refine ⟨m', hm, hp.trans ?_⟩
    split_ifs with h1
    · obtain ⟨rfl, rfl⟩ := hn h1 (.inr (.inr hst))
      rfl
    · obtain ⟨rfl, rfl⟩ := hvau (last h1) hst
      rfl
  | classify =>
    obtain ⟨hg, rfl, rfl⟩ := hcls hst
    exact ⟨_, scan_classify hst hg, congrArg (m.segment + 1, ·)
      ((classify_segment ..).2.trans (noteIncarnation_place ..).2)⟩
  | chains =>
    obtain ⟨hg, rfl, rfl⟩ := hch hst
    exact scan_chains hst hg

/-- The classification goes on, with the segment filed by its frame 0. -/
theorem exec_classifies {noise : ReadNoise} (h : Scans s m) (hc : s.cpl.fresh = []) (he : s.events.fresh = [])
    (hst : m.stage = .classify) (hg : m.segment < 1023) :
    ∃ k, m.dataIncarnation ≤ k ∧ ∀ filed, Filed m (readFrame s.medium m.segment m.frame 0 512 noise) filed →
      exec (.mountReadEnd noise) s =
        .next (s.scansTo (filed { m with segment := m.segment + 1, dataIncarnation := k })) := by
  obtain ⟨k, hk, hnote⟩ := noteIncarnation_eq (readFrame s.medium m.segment m.frame 0 512 noise) m
  refine ⟨k, hk, fun filed hfil => ?_⟩
  obtain ⟨hfil', hplace⟩ := filed_noted hfil k (m.segment + 1)
  refine exec_scansTo h hc he ((scan_classify hst hg).trans ?_)
  rw [hnote, classify_filed hfil', hplace]

variable {s : State} {m : Mount} {f : FrameRead}

/-! ### What changes the events alone -/

/-- Nothing but the event bits and notices differs. -/
def EventsOnly (u v : State) : Prop := v = { u with events := v.events }

namespace EventsOnly

variable {u v w : State}

theorem refl (u : State) : EventsOnly u u := Eq.refl u

theorem trans (h : EventsOnly u v) (k : EventsOnly v w) : EventsOnly u w := by
  unfold EventsOnly at *
  refine k.trans ?_
  rw [h]

theorem ite {p : Prop} [Decidable p] (h : EventsOnly u v) (k : EventsOnly u w) : EventsOnly u (if p then v else w) := by
  split <;> assumption

theorem raise (e : Event) (u : State) : EventsOnly u (raise e u) := raise_rest e u

theorem notice (rank : Nat) (n : Notice) (u : State) : EventsOnly u (addNoticeAt rank n u) := by
  unfold addNoticeAt
  exact .ite (.refl u) rfl

end EventsOnly

/-- The notice of a partial seal ledger found at mount. -/
def partialNotice (m : Mount) (s : State) : State :=
  match m.badLowest with
  | some k =>
    addNoticeAt (noticeRank .mounted)
      { kind := .sealPartial, stream := 0xFF, segment := 2, value := k, value2 := m.badCount } s
  | none => s

/-- The notice of a lost catalogue. -/
def lostNotice (m : Mount) (s : State) : State :=
  if catalogueIsLost m then
    addNoticeAt (noticeRank .mounted)
      { kind := .restricted, stream := 0xFF, segment := 0xFFFF, value := 1, value2 := 0 } s
  else s

/-- The notice MOUNTED of `k` streams (R167, Table 10-2). -/
def mountedWith (p : Power) (k discarded : Nat) : Notice :=
  { kind := .mounted, stream := 0xFF, segment := 0xFFFF, value := mountCause p + 256 * k, value2 := discarded }

/-- MOUNTED with its cause. -/
def mountedNotice (m : Mount) (s : State) : State :=
  addNotice (mountedWith s.power (s.streams.filter (fun t => t.defn.isSome)).length (discardedCount m)) s

theorem mountNotices_eq (m : Mount) (s : State) :
    mountNotices m s = lostNotice m (partialNotice m (mountedNotice m s)) := by
  unfold mountNotices partialNotice lostNotice mountedNotice
  cases m.badLowest <;> rfl

theorem partialNotice_none (h : m.badLowest = none) : partialNotice m s = s := by
  unfold partialNotice
  rw [h]

theorem partialNotice_only (m : Mount) (s : State) : EventsOnly s (partialNotice m s) := by
  unfold partialNotice
  split
  · exact .notice ..
  · exact .refl s

theorem mountNotices_only (m : Mount) (s : State) : EventsOnly s (mountNotices m s) := by
  rw [mountNotices_eq]
  exact ((EventsOnly.notice ..).trans (partialNotice_only m _)).trans (.ite (.notice ..) (.refl _))

theorem addNoticeAt_holdClear (rank : Nat) (n : Notice) (s : State) :
    (addNoticeAt rank n s).events.holdClear = s.events.holdClear := by
  unfold addNoticeAt
  split <;> rfl

theorem mountNotices_holdClear (m : Mount) (s : State) :
    (mountNotices m s).events.holdClear = s.events.holdClear := by
  have part : ∀ u, (partialNotice m u).events.holdClear = u.events.holdClear := fun u => by
    unfold partialNotice
    split
    · exact addNoticeAt_holdClear ..
    · rfl
  have lost : ∀ u, (lostNotice m u).events.holdClear = u.events.holdClear := fun u => by
    unfold lostNotice
    split
    · exact addNoticeAt_holdClear ..
    · rfl
  rw [mountNotices_eq, lost, part]
  exact addNoticeAt_holdClear ..

/-! ### The event in which mount ends -/

/-- What mount rebuilds, with its notices and MEDIA where there is reason for it (R167). -/
def mountTold (m : Mount) (s : State) : State :=
  let u := mountNotices m (rebuilt m s)
  if discardedCount m ≠ 0 ∨ mountCause u.power = 3 ∨ catalogueIsLost m then raise .media u else u

theorem mountTold_only (m : Mount) (s : State) : EventsOnly (rebuilt m s) (mountTold m s) :=
  (mountNotices_only m (rebuilt m s)).trans (.ite (.raise ..) (.refl _))

/-- MEDIA is signalled for a record discarded and for a lost catalogue. -/
theorem mountTold_media (hc : s.events.holdClear = false) (h : discardedCount m ≠ 0 ∨ catalogueIsLost m = true) :
    Raised (mountTold m s) .media := by
  have hclear : (mountNotices m (rebuilt m s)).events.holdClear = false := (mountNotices_holdClear ..).trans hc
  unfold mountTold
  dsimp only
  rw [if_pos (h.imp id .inr)]
  exact raised_raise hclear

/-- Where the catalogue stands and no ledger frame is bad, the one notice is MOUNTED. -/
theorem mountTold_notice (hc : s.events.holdClear = false) (hb : m.badLowest = none) (hl : catalogueIsLost m = false) :
    ∃ k, (mountTold m s).events.notices = s.events.notices ∧
      (mountTold m s).events.fresh = s.events.fresh ++
        [(noticeRank .mounted, mountedWith s.power k (discardedCount m))] := by
  have hlost : ∀ u, lostNotice m u = u := fun u => if_neg (ne_true_of_eq_false hl)
  have hnotices : mountNotices m (rebuilt m s) = mountedNotice m (rebuilt m s) := by
    rw [mountNotices_eq, hlost, partialNotice_none hb]
  have raised : ∀ u, (raise .media u).events.notices = u.events.notices ∧
      (raise .media u).events.fresh = u.events.fresh := fun u => by
    unfold raise
    split <;> exact ⟨rfl, rfl⟩
  have told : (mountTold m s).events.notices = (mountedNotice m (rebuilt m s)).events.notices ∧
      (mountTold m s).events.fresh = (mountedNotice m (rebuilt m s)).events.fresh := by
    unfold mountTold
    dsimp only
    rw [hnotices]
    split
    · exact raised _
    · exact ⟨rfl, rfl⟩
  have hadd : ∀ n, (addNotice n (rebuilt m s)).events =
      { s.events with fresh := s.events.fresh ++ [(noticeRank n.kind, n)] } := fun n =>
    congrArg State.events (addNotice_of (s := rebuilt m s) hc)
  have hevents : (mountedNotice m (rebuilt m s)).events = _ := hadd _
  exact ⟨_, told.1.trans (by rw [hevents]), told.2.trans (by rw [hevents]; rfl)⟩

/-- The device in READY, or RESTRICTED without a catalogue (R163, R167). -/
def State.mountDone (s : State) (lost : Bool) : State :=
  { s with power := { s.power with
      state := .awake (if lost then .restricted .catalogueLost else .ready), powerOnMark := false, mount := none } }

theorem endMount_told (m : Mount) (s : State) : endMount m s = (mountTold m s).mountDone (catalogueIsLost m) := by
  unfold endMount mountTold
  dsimp only
  generalize mountNotices m (rebuilt m s) = u
  generalize (if discardedCount m ≠ 0 ∨ mountCause u.power = 3 ∨ catalogueIsLost m then raise .media u else u) = w
  rfl

/-- The device mount leaves (R163 to R167). -/
def State.mountedAs (s : State) (m : Mount) (e : EventUnit) : State :=
  { (rebuilt m s).mountDone (catalogueIsLost m) with events := e }

theorem endMount_eq (m : Mount) (s : State) : endMount m s = s.mountedAs m (mountTold m s).events := by
  have h := mountTold_only m s
  rw [endMount_told]
  generalize mountTold m s = u at *
  unfold EventsOnly at h
  rw [h]
  rfl

/-- Mount has ended in the state `t`. -/
structure MountEnds (s t : State) (m : Mount) : Prop where
  power : t.power = { s.power with
    state := .awake (if catalogueIsLost m then .restricted .catalogueLost else .ready), powerOnMark := false,
    mount := none }
  pins : t.pins = s.pins
  segments : t.segments = { map := buildMap (mountedSegments m), pool := buildPool (mountedSegments m) }
  vault : t.vault = { used := m.ledgerUsed, sealedSet := m.sealedSet, written := m.written, failed := [],
                      closed := m.vaultClosed }
  medium : t.medium = s.medium
  streams : s.write.jobs = [] → t.streams = mountedStreams m
  media : s.events.holdClear = false → discardedCount m ≠ 0 ∨ catalogueIsLost m = true → Raised t .media
  notice : s.write.jobs = [] → guarded s = false → s.events = State.reset.events → catalogueIsLost m = false →
    m.badLowest = none → ∃ k, t.events.notices = [mountedWith s.power k (discardedCount m)]

/-- One notice joins a Notice List that has room for it. -/
theorem settle_notice {v : State} {k : Nat} {n : Notice} (hf : v.events.fresh = [(k, n)])
    (hl : v.events.notices.length < 8) : (settle v).events.notices = v.events.notices ++ [n] := by
  show ((orderByKey v.events.fresh).foldl joinNotice { v.events with fresh := [] }).notices = _
  rw [hf]
  exact congrArg EventUnit.notices (joinNotice_room (e := { v.events with fresh := [] }) hl)

theorem noLockedHead_nil (h : s.write.jobs = []) : NoLockedHead s := fun j hm => by
  rw [h] at hm
  cases hm

/-- The end of the event keeps what mount rebuilt, and its notices and MEDIA. -/
theorem mountEnds_close {e : EventUnit}
    (hmedia : s.events.holdClear = false → discardedCount m ≠ 0 ∨ catalogueIsLost m = true →
      e.latched &&& Event.media.bit = Event.media.bit)
    (hnotice : s.events.holdClear = false → m.badLowest = none → catalogueIsLost m = false →
      ∃ k, e.notices = s.events.notices ∧
        e.fresh = s.events.fresh ++ [(noticeRank .mounted, mountedWith s.power k (discardedCount m))]) :
    MountEnds s (settle (choose (s.mountedAs m e))) m := by
  have hjobs : (s.mountedAs m e).write = s.write := rfl
  have hevents : (s.mountedAs m e).events = e := rfl
  have hguarded : guarded (s.mountedAs m e) = guarded s := rfl
  have hstreams : (s.mountedAs m e).streams = mountedStreams m := rfl
  have hheld : (s.mountedAs m e).held = { s.held with
    power := { s.power with
      state := .awake (if catalogueIsLost m then .restricted .catalogueLost else .ready), powerOnMark := false,
      mount := none }
    segments := { map := buildMap (mountedSegments m), pool := buildPool (mountedSegments m) }
    vault := { used := m.ledgerUsed, sealedSet := m.sealedSet, written := m.written, failed := [],
               closed := m.vaultClosed }
    catalogue := mountedCatalogue m
    holdClear := e.holdClear
    mask := e.mask } := rfl
  generalize s.mountedAs m e = v at *
  have hclose := close_spec v
  have same := hclose.held.trans hheld
  exact
    { power := congrArg Held.power same
      pins := congrArg Held.pins same
      segments := congrArg Held.segments same
      vault := congrArg Held.vault same
      medium := congrArg Held.medium same
      streams := fun hj => (hclose.work (noLockedHead_nil (by rw [hjobs, hj]))).1.trans hstreams
      media := fun hc h => hclose.bits _ (by rw [hevents]; exact hmedia hc h)
      notice := fun hj hg he hl hb => by
        obtain ⟨k, hn, hf⟩ := hnotice (congrArg EventUnit.holdClear he) hb hl
        have hev : (choose v).events = e :=
          (choose_calm (noLockedHead_nil (by rw [hjobs, hj])) (hguarded.trans hg)).2.trans hevents
        have hnone : s.events.notices = [] := congrArg EventUnit.notices he
        have hfresh : s.events.fresh = [] := congrArg EventUnit.fresh he
        rw [hnone] at hn
        rw [hfresh] at hf
        refine ⟨k, (settle_notice (by rw [hev, hf]; rfl) (by rw [hev, hn]; decide)).trans ?_⟩
        rw [hev, hn]
        rfl }

/-- The READ that completes the scan ends mount. -/
theorem exec_endsMount (h : Scans s m) {noise : ReadNoise} {x : Mount}
    (hn : scan (readFrame s.medium m.segment m.frame 0 512 noise) m = none)
    (hx : scanned (readFrame s.medium m.segment m.frame 0 512 noise) m = x) :
    ∃ t, exec (.mountReadEnd noise) s = .next t ∧ MountEnds s t x := by
  have ht : mountStep (readFrame s.medium m.segment m.frame 0 512 noise) s.withIdle = endMount x s.withIdle := by
    unfold mountStep
    rw [show s.withIdle.power.mount = some m from h.mount]
    dsimp only
    rw [hn, hx]
  have hd : (endMount x s.withIdle).sequencer.deferred = s.sequencer.deferred := by
    rw [endMount_eq]
    rfl
  have k : MountEnds s.withIdle (settle (choose (endMount x s.withIdle))) x := by
    rw [endMount_eq]
    exact mountEnds_close mountTold_media mountTold_notice
  exact ⟨_, exec_mountReadEnd h ht hd, k.power, k.pins, k.segments, k.vault, k.medium, k.streams, k.media, k.notice⟩

variable {s : State} {m : Mount} {f : FrameRead}

/-! ### The streams at the end of mount -/

theorem mountedStreams_some {n : Nat} {d : Definition} (h : n < 8) (hd : foundDefn m n = some d) :
    (mountedStreams m).getD n Stream.blank = mountedStream d (winnersOf m.bounds n) := by
  simp [mountedStreams, List.getD_eq_getElem?_getD, List.getElem?_range h, hd]

theorem mountedStreams_none {n : Nat} (h : n < 8) (hd : foundDefn m n = none) :
    (mountedStreams m).getD n Stream.blank = Stream.blank := by
  simp [mountedStreams, List.getD_eq_getElem?_getD, List.getElem?_range h, hd]

/-- A defined stream of which no segment was found. -/
def emptyStream (d : Definition) : Stream :=
  { defn := some d, state := if d.archived then .archived else .opened, chain := [], oldest := 0, newest := 0,
    durable := 0, cursor := 1, resumed := false, tail := .none }

theorem mountedStream_empty (d : Definition) : mountedStream d [] = emptyStream d := by
  have ht : tailAtMount d.archived [] = .none := by
    unfold tailAtMount
    split <;> rfl
  unfold mountedStream emptyStream
  simp only [List.map_nil, List.getLast?_nil, List.head?_nil, Option.map_none, Option.getD_none]
  rw [ht]
  rfl

/-! ### Winners (R165) -/

theorem prevails_self (a : Bounds) : prevails a a = false := by simp [prevails]

/-- A candidate that prevails over another. -/
theorem prevails_iff (a b : Bounds) : prevails a b = true ↔
    a.cand.isSealed = true ∧ b.cand.isSealed = false ∨
      a.cand.isSealed = b.cand.isSealed ∧ (b.validTop < a.validTop ∨
        a.validTop = b.validTop ∧ a.cand.segment < b.cand.segment) := by
  unfold prevails
  cases a.cand.isSealed <;> cases b.cand.isSealed <;> simp

/-- Of two different candidates one at most prevails. -/
theorem prevails_asymm {a b : Bounds} (h : prevails a b = true) : prevails b a = false := by
  rw [← Bool.not_eq_true]
  intro k
  rw [prevails_iff] at h k
  obtain ⟨ha, hb⟩ | ⟨he, h⟩ := h
  · obtain ⟨hb', -⟩ | ⟨he, -⟩ := k
    · rw [hb] at hb'
      cases hb'
    · rw [ha, hb] at he
      cases he
  · obtain ⟨hb, ha⟩ | ⟨-, k⟩ := k
    · rw [ha, hb] at he
      cases he
    · omega

theorem winnersOf_nil (n : Nat) : winnersOf [] n = [] := rfl

theorem winnersOf_one (b : Bounds) (n : Nat) : winnersOf [b] n = if b.cand.stream = n then [b] else [] := by
  have hl : loses [b] b = false := by simp [loses, prevails_self]
  unfold winnersOf
  rw [List.filter_cons, hl]
  by_cases h : b.cand.stream = n
  · rw [if_pos h, if_pos (by simp [h])]
    rfl
  · rw [if_neg h, if_neg (by simp [h])]
    rfl

section

variable {a b : Bounds} (hs : a.cand.stream = b.cand.stream)
include hs

/-- The one that prevails stays alone. -/
theorem winnersOf_prevails (hg : a.cand.generation = b.cand.generation) (h : prevails a b = true) :
    winnersOf [a, b] a.cand.stream = [a] ∧ winnersOf [b, a] a.cand.stream = [a] := by
  have hk := prevails_asymm h
  have wins : ∀ l, l = [a, b] ∨ l = [b, a] → loses l a = false ∧ loses l b = true := by
    rintro l (rfl | rfl) <;> simp [loses, prevails_self, h, hk, hs, hg]
  have one : ∀ l, l = [a, b] ∨ l = [b, a] →
      l.filter (fun x => x.cand.stream = a.cand.stream && !loses l x) = [a] := by
    intro l hl
    obtain ⟨ha, hb⟩ := wins l hl
    generalize hp : (fun x : Bounds => decide (x.cand.stream = a.cand.stream) && !loses l x) = p
    have hpa : p a = true := by rw [← hp]; simp [ha]
    have hpb : p b = false := by rw [← hp]; simp [hb]
    obtain rfl | rfl := hl <;> simp [hpa, hpb]
  constructor <;> unfold winnersOf
  · rw [one _ (.inl rfl)]
    rfl
  · rw [one _ (.inr rfl)]
    rfl

/-- Two generations stand in ascending order. -/
theorem winnersOf_generations (hg : a.cand.generation < b.cand.generation) :
    winnersOf [a, b] a.cand.stream = [a, b] ∧ winnersOf [b, a] a.cand.stream = [a, b] := by
  have stays : ∀ l, l = [a, b] ∨ l = [b, a] → loses l a = false ∧ loses l b = false := by
    rintro l (rfl | rfl) <;> simp [loses, prevails_self, hg.ne, hg.ne']
  have both : ∀ l, l = [a, b] ∨ l = [b, a] →
      l.filter (fun x => x.cand.stream = a.cand.stream && !loses l x) = l := by
    intro l hl
    obtain ⟨ha, hb⟩ := stays l hl
    refine List.filter_eq_self.mpr fun x hx => ?_
    have hx' : x = a ∨ x = b := by obtain rfl | rfl := hl <;> simpa [or_comm] using hx
    obtain rfl | rfl := hx'
    · simp [ha]
    · simp [hb, hs]
  constructor <;> unfold winnersOf
  · rw [both _ (.inl rfl)]
    simp [orderByKey, insertByKey, hg.le.not_gt]
  · rw [both _ (.inr rfl)]
    simp [orderByKey, insertByKey, hg]

end

/-! ### A scan that ends without a candidate -/

/-- The last classification leaves all but the lists of segments and the incarnations read. -/
theorem classify_eq (f : FrameRead) (m : Mount) : ∃ r t e x c,
    classify f m = { m with retiredSegs := r, strayed := t, freeErased := e, freeStale := x, cands := c } ∧
      (labelMatch m f = none → c = m.cands) := by
  unfold classify
  dsimp only
  split
  · exact ⟨_, _, _, _, _, rfl, fun _ => rfl⟩
  split
  · split
    · rename_i h
      exact ⟨_, _, _, _, _, rfl, fun hn => of_none_eq_some (hn.symm.trans h)⟩
    · exact ⟨_, _, _, _, _, rfl, fun _ => rfl⟩
  split
  · exact ⟨_, _, _, _, _, rfl, fun _ => rfl⟩
  split
  · rename_i h
    have never : labelMatch m f = none → ∀ {p : Prop}, p := fun hn => of_none_eq_some (hn.symm.trans h)
    split
    · exact ⟨_, _, _, _, _, rfl, fun hn => never hn⟩
    · exact ⟨_, _, _, _, _, rfl, fun hn => never hn⟩
  · exact ⟨_, _, _, _, _, rfl, fun _ => rfl⟩

/-- What mount's end takes over from the scan as it stood. -/
structure SameFound (m x : Mount) : Prop where
  best : x.best = m.best
  lost : catalogueIsLost x = catalogueIsLost m
  vault : SealVault.mk x.ledgerUsed x.sealedSet x.written [] x.vaultClosed =
    SealVault.mk m.ledgerUsed m.sealedSet m.written [] m.vaultClosed
  bad : x.badLowest = m.badLowest

theorem scan_last (h : m.stage = .classify) (hg : m.segment = 1023) (hc : m.cands = []) (hb : m.bounds = [])
    (hl : labelMatch m f = none) :
    scan f m = none ∧ SameFound m (scanned f m) ∧ (scanned f m).bounds = [] := by
  obtain ⟨k, -, hk⟩ := noteIncarnation_eq f m
  obtain ⟨r, t, e, x, c, hcl, hcands⟩ := classify_eq f { m with dataIncarnation := k }
  have hc' : c = [] := (hcands hl).trans hc
  constructor
  · unfold scan
    rw [h]
    dsimp only
    rw [hk, hcl, if_neg (show ¬ m.segment < 1023 by omega), hc']
    rfl
  · have hsc : scanned f m = classify f (noteIncarnation f m) := by
      unfold scanned
      rw [h]
    rw [hsc, hk, hcl]
    exact ⟨⟨rfl, rfl, rfl, rfl⟩, hb⟩

theorem discardedCount_nil (h : m.bounds = []) : discardedCount m = 0 := by
  unfold discardedCount
  rw [h]
  rfl

theorem mountCause_cases (p : Power) :
    (p.powerOnMark = true → mountCause p = 1) ∧
      (p.powerOnMark = false → p.lastReset = .pin → mountCause p = 2) ∧
      (p.powerOnMark = false → p.lastReset = .pfail → mountCause p = 3) := by
  unfold mountCause
  refine ⟨fun h => if_pos h, fun h hr => ?_, fun h hr => ?_⟩ <;>
  · rw [if_neg (ne_true_of_eq_false h), hr]

theorem catalogueIsLost_iff (m : Mount) :
    catalogueIsLost m = true ↔ m.best = none ∧ ¬ (m.erased0 = true ∧ m.erased1 = true) := by
  unfold catalogueIsLost
  rw [Bool.and_eq_true, Option.isNone_iff_eq_none, Bool.not_eq_true', ← Bool.not_eq_true, Bool.and_eq_true]

theorem mountEnds_bare {noise : ReadNoise} (h : Scans s m) (hst : m.stage = .classify) (hg : m.segment = 1023)
    (hc : m.cands = []) (hb : m.bounds = [])
    (hl : labelMatch m (readFrame s.medium m.segment m.frame 0 512 noise) = none) :
    ∃ t x, exec (.mountReadEnd noise) s = .next t ∧ MountEnds s t x ∧ SameFound m x ∧ x.bounds = [] := by
  obtain ⟨hn, hfound, hbounds⟩ := scan_last hst hg hc hb hl
  obtain ⟨t, ht, hends⟩ := exec_endsMount h hn rfl
  exact ⟨t, _, ht, hends, hfound, hbounds⟩

/-- Each stream of a mount that found no candidate. -/
theorem mountEnds_streams {t : State} {x : Mount} (h : MountEnds s t x) (hf : SameFound m x) (hb : x.bounds = [])
    (hj : s.write.jobs = []) {n : Nat} (hn : n < 8) :
    (∀ d, foundDefn m n = some d → streamOf t n = emptyStream d) ∧
      (foundDefn m n = none → streamOf t n = Stream.blank) := by
  have hfound : foundDefn x n = foundDefn m n := by
    unfold foundDefn
    rw [hf.best]
  have hs : streamOf t n = (mountedStreams x).getD n Stream.blank := by
    unfold streamOf
    rw [h.streams hj]
  refine ⟨fun d hd => ?_, fun hd => hs.trans (mountedStreams_none hn (hfound.trans hd))⟩
  rw [hs, mountedStreams_some hn (hfound.trans hd), hb, winnersOf_nil, mountedStream_empty]

/-! ### A scan that ends with one candidate -/

theorem scan_lastChain {c : Candidate} (h : m.stage = .chains) (hfr : m.frame = 31) (hc : m.cands = [c])
    (hb : m.bounds = []) :
    scan f m = none ∧ (scanned f m).best = m.best ∧
      (scanned f m).bounds = [boundsOf c (numberFrames ((f :: m.frames).reverse))] := by
  obtain ⟨k, -, hk⟩ := noteIncarnation_eq f { m with stage := .chains, frames := f :: m.frames }
  constructor
  · unfold scan
    rw [h]
    dsimp only
    rw [hk]
    dsimp only
    rw [if_neg (show ¬ m.frame < 31 by omega), hc]
    rfl
  · unfold scanned
    rw [h]
    dsimp only
    rw [hk]
    dsimp only
    rw [hc, hb]
    exact ⟨rfl, rfl⟩

/-- A list's images where all but one member give nothing. -/
theorem flatMap_only {α : Type} {l : List Nat} {g : Nat → List α} {a : Nat} (hn : l.Nodup) (ha : a ∈ l)
    (h : ∀ n, n ≠ a → g n = []) : l.flatMap g = g a := by
  induction l with
  | nil => cases ha
  | cons n l ih =>
    rw [List.flatMap_cons]
    obtain ⟨hnl, hl⟩ := List.nodup_cons.mp hn
    by_cases e : n = a
    · subst e
      have rest : l.flatMap g = [] := List.flatMap_eq_nil_iff.mpr fun x hx => h x fun e => hnl (e ▸ hx)
      rw [rest, List.append_nil]
    · rw [h n e, List.nil_append]
      exact ih hl ((List.mem_cons.mp ha).resolve_left fun x => e x.symm)

/-- The Segment Map entry of a stream's open write segment. -/
def openEntry (n generation : Nat) : SegEntry :=
  { SegEntry.free with state := .owned, owner := some n, generation := generation, isOpen := true }

section

variable {x : Mount} {b : Bounds} (hx : x.bounds = [b]) (hn : b.cand.stream < 8)
include hx hn

/-- The one chain stands last among the entries of the Segment Map. -/
theorem mountedSegments_one (hs : b.cand.isSealed = false) : ∃ pre, mountedSegments x =
    pre ++ [(b.cand.segment, openEntry b.cand.stream b.cand.generation)] := by
  have chains : (List.range 8).flatMap (fun n => chainSegments n (winnersOf x.bounds n)) =
      [(b.cand.segment, openEntry b.cand.stream b.cand.generation)] := by
    rw [flatMap_only List.nodup_range (List.mem_range.mpr hn), hx, winnersOf_one, if_pos rfl]
    · simp only [chainSegments, hs, Bool.false_eq_true, if_false]
      rfl
    · intro n h
      rw [hx, winnersOf_one, if_neg fun e => h e.symm]
      rfl
  unfold mountedSegments
  rw [chains]
  exact ⟨_, rfl⟩

theorem discardedCount_one (h : 0 < b.discarded) : discardedCount x ≠ 0 := by
  have hw : winnersOf x.bounds b.cand.stream = [b] := by rw [hx, winnersOf_one, if_pos rfl]
  have hmem : b.discarded ∈ (List.range 8).map (fun n => ((winnersOf x.bounds n).map (fun b => b.discarded)).sum) :=
    List.mem_map.mpr ⟨b.cand.stream, List.mem_range.mpr hn, by rw [hw]; rfl⟩
  have hle : b.discarded ≤ discardedCount x := List.le_sum_of_mem hmem
  omega

end

/-- The last entry for a segment is the one the Segment Map holds. -/
theorem buildMap_last (pre : List (Nat × SegEntry)) (g : Nat) {e : SegEntry} (h : e ≠ SegEntry.free) :
    storeGet (fun _ => SegEntry.free) (buildMap (pre ++ [(g, e)])) g = e := by
  unfold buildMap
  rw [List.foldl_append]
  exact storeGet_storePut_listed h _

/-- A segment with an entry other than a stale one is not in the pool. -/
theorem not_mem_buildPool {es : List (Nat × SegEntry)} {g : Nat} {e : SegEntry} (hm : (g, e) ∈ es)
    (he : e.state ≠ .freeStale) : g ∉ buildPool es := by
  intro h
  have hused : g ∈ (es.filter (fun e => e.2.state ≠ .freeStale)).map (fun e => e.1) :=
    List.mem_map.mpr ⟨(g, e), List.mem_filter.mpr ⟨hm, by simp [he]⟩, rfl⟩
  have hfree := (List.mem_filter.mp h).2
  rw [List.contains_iff_mem.mpr hused] at hfree
  cases hfree

/-- The stream of one candidate whose segment stays open. -/
def oneChain (d : Definition) (b : Bounds) : Stream :=
  { defn := some d, state := .opened
    chain := [{ segment := b.cand.segment, generation := b.cand.generation, first := b.cand.first, last := b.last,
                isSealed := false, isRetired := false }]
    oldest := b.cand.first, newest := b.last, durable := b.last
    cursor := if 1 ≤ b.cand.first ∧ b.cand.first ≤ b.last then b.cand.first else b.last + 1
    resumed := decide (0 < b.discarded), tail := b.tail }

theorem mountedStream_one {d : Definition} {b : Bounds} (hs : b.cand.isSealed = false) (ha : d.archived = false)
    (hl : b.last ≠ 4294967295) : mountedStream d [b] = oneChain d b := by
  have ht : tailAtMount false [b] = b.tail := if_neg (ne_true_of_eq_false hs)
  have hc : ∀ u : Stream, u.oldest = b.cand.first → u.newest = b.last →
      cursorAtOldest u = if 1 ≤ b.cand.first ∧ b.cand.first ≤ b.last then b.cand.first else b.last + 1 := by
    intro u ho hn
    unfold cursorAtOldest holdsRecord
    rw [ho, hn]
    simp only [Bool.and_eq_true, decide_eq_true_eq]
  unfold mountedStream oneChain
  simp only [List.map_cons, List.map_nil, List.getLast?_singleton, List.head?_cons, Option.map_some, Option.getD_some,
    ht, hl, ha, Bool.false_eq_true, if_false, chainEntry, hs, List.sum_cons, List.sum_nil, Nat.add_zero]
  rw [hc _ rfl rfl]

/-! ### The bounds of a segment whose frame 0 alone is programmed (R166) -/

/-- Frames of which nothing was read. -/
def Unread (fs : List (Nat × FrameRead)) : Prop := ∀ e ∈ fs, 1 ≤ e.1 ∧ e.2 = emptyRead

theorem unread_rest (n : Nat) : Unread ((List.range' 1 n).zip (List.replicate n emptyRead)) := by
  intro e he
  obtain ⟨h1, h2⟩ := List.of_mem_zip he
  exact ⟨(List.mem_range'_1.mp h1).1, List.eq_of_mem_replicate h2⟩

theorem numberFrames_first (f : FrameRead) : ∃ rest, numberFrames (f :: List.replicate 31 emptyRead) = (0, f) :: rest ∧
    Unread rest := by
  refine ⟨_, ?_, unread_rest 31⟩
  unfold numberFrames
  rw [List.length_cons, List.length_replicate, show List.range (31 + 1) = 0 :: List.range' 1 31 from rfl,
    List.zip_cons_cons]

section

variable {f : FrameRead} {rest : List (Nat × FrameRead)} (hr : Unread rest)
include hr

/-- A test that no unread frame meets is met by frame 0 at most. -/
theorem highest_first {p : FrameRead → Bool} (hp : p emptyRead = false) : highest p ((0, f) :: rest) = 0 := by
  have stays : ∀ (l : List (Nat × FrameRead)) (h : Nat), Unread l →
      l.foldl (fun h e => if p e.2 then e.1 else h) h = h := by
    intro l
    induction l with
    | nil => exact fun _ _ => rfl
    | cons e l ih =>
      intro h hl
      have he : p e.2 = false := by rw [(hl e List.mem_cons_self).2, hp]
      rw [List.foldl_cons, he, if_neg Bool.false_ne_true]
      exact ih h fun x hx => hl x (List.mem_cons_of_mem _ hx)
  unfold highest
  rw [List.foldl_cons, stays _ _ hr]
  exact ite_self 0

/-- The one view of mount's walk is that of frame 0. -/
theorem mountViews_first (hg : goodPortions f = f.portions) :
    mountViews 0 ((0, f) :: rest) = [(0, mediumView false f)] := by
  have none : rest.filter (fun e => e.1 ≤ 0) = [] := by
    rw [List.filter_eq_nil_iff]
    intro e he
    have := (hr e he).1
    simp only [decide_eq_true_eq]
    omega
  unfold mountViews
  rw [List.filter_cons, if_pos (decide_eq_true (Nat.le_refl 0)), none, List.map_singleton, if_pos rfl, hg]

end

/-- Frame 0 holds one good portion, not a PAD, below the frame's end, and its label starts with this record. -/
structure OnePortion (f : FrameRead) (l : Label) (q : PortionRead) (seq : Nat) : Prop where
  label : f.label = .valid l
  offset : l.firstOffset = some 0
  first : l.firstSeq = seq
  entry : f.entryZero = true
  plausible : f.implausible = false
  portions : f.portions = [q]
  low : q.lo = 0
  high : q.hi = q.bytes.length
  good : q.grade ≠ .broken
  pad : q.pad = false
  short : q.hi < 512

namespace OnePortion

variable {f : FrameRead} {l : Label} {q : PortionRead} {seq : Nat} (h : OnePortion f l q seq)
include h

theorem goodPortions : goodPortions f = f.portions := by
  unfold Machine.goodPortions
  rw [h.portions, List.takeWhile_cons, if_pos (by simp [h.good])]
  rfl

theorem tornClosed : tornClosed f = false := by
  unfold Machine.tornClosed
  rw [h.goodPortions, h.plausible]
  simp

/-- The view of frame 0: the portion's bytes, with the label's start point. -/
theorem view : mediumView false f =
    { bytes := q.bytes, start := some (0, seq), lastPad := false,
      stretches := [{ lo := 0, hi := q.bytes.length, grade := q.grade }] } := by
  have hs : mediumStart f.label = some (0, seq) := by
    rw [h.label]
    show l.firstOffset.map (fun o => (o, l.firstSeq)) = _
    rw [h.offset, h.first]
    rfl
  unfold mediumView
  rw [hs, h.portions]
  simp only [portionsBytes, List.flatMap_cons, List.flatMap_nil, List.append_nil, List.getLast?_singleton,
    Option.map_some, Option.getD_some, h.pad, List.map_cons, List.map_nil, h.low, h.high, stretchGrade,
    Bool.false_and, Bool.false_eq_true, if_false]

end OnePortion

section

variable {f : FrameRead} {l : Label} {q : PortionRead} {seq : Nat} {c : Candidate} {b : Bounds}
  (h : OnePortion f l q seq) (hb : b = boundsOf c (numberFrames (f :: List.replicate 31 emptyRead)))
include h hb

/-- The bounds in terms of the one view and the hits of the walk from its start point. -/
theorem boundsOf_one : b.last = lastWhole [(0, mediumView false f)] c ∧
    b.discarded = ((hitsFrom [(0, mediumView false f)] c.stream (0, 0, seq)).filter
      (fun x => !wholeRecord [(0, mediumView false f)] x)).length ∧
    b.tail = .pos { segment := c.segment, frame := 0, offset := q.hi, portions := 1, unprog := q.hi, image := q.bytes,
                    header := ((hitsFrom [(0, mediumView false f)] c.stream (0, 0, seq)).find?
                      (fun x => x.frame = 0)).map (fun x => (x.offset, x.seq)), ends := [] } := by
  obtain ⟨rest, hn, hrest⟩ := numberFrames_first f
  have hp : highest frameProgrammed ((0, f) :: rest) = 0 := highest_first hrest rfl
  have ht : highest labelValid ((0, f) :: rest) = 0 := highest_first hrest rfl
  have hv := mountViews_first hrest h.goodPortions
  have hstart : highestStart [(0, mediumView false f)] = some (0, 0, seq) := by
    unfold highestStart
    rw [List.foldl_cons, List.foldl_nil, h.view]
  have hstop : portionsEnd f.portions = q.hi := by
    rw [h.portions]
    rfl
  have hbytes : portionsBytes f.portions = q.bytes := by
    rw [h.portions]
    exact List.append_nil _
  have hlen : f.portions.length = 1 := by rw [h.portions]; rfl
  rw [hn] at hb
  have tail : ∀ hits, mountTail c.segment 0 ((0, f) :: rest) hits =
      .pos { segment := c.segment, frame := 0, offset := q.hi, portions := 1, unprog := q.hi, image := q.bytes,
             header := (hits.find? (fun x => x.frame = 0)).map (fun x => (x.offset, x.seq)), ends := [] } := by
    intro hits
    have hfind : (((0, f) :: rest).find? (fun e => e.1 = 0)) = some (0, f) := rfl
    unfold mountTail
    rw [hp]
    dsimp only
    rw [hfind]
    dsimp only [Option.map_some, Option.getD_some]
    refine (if_pos ⟨rfl, by rw [h.tornClosed]; rfl, by rw [hlen], by rw [hlen]; decide, by
      rw [hstop]
      exact h.short⟩).trans ?_
    rw [hstop, hbytes, hlen]
  have bounds : boundsOf c ((0, f) :: rest) =
      { cand := c, validTop := 0, last := lastWhole [(0, mediumView false f)] c,
        discarded := ((hitsFrom [(0, mediumView false f)] c.stream (0, 0, seq)).filter
          (fun x => !wholeRecord [(0, mediumView false f)] x)).length
        tail := mountTail c.segment 0 ((0, f) :: rest) (hitsFrom [(0, mediumView false f)] c.stream (0, 0, seq)) } := by
    unfold boundsOf
    simp only [ht, hv, hstart, Option.getD_some]
  rw [hb, bounds]
  exact ⟨rfl, rfl, tail _⟩

end

/-! ### The record in the one portion -/

theorem viewOf_one (v : View) : viewOf [(0, v)] 0 = some v := rfl

section

variable {v : View} {header payload : List Byte} {stream seq : Nat} (hv : v.bytes = header ++ payload)
  (hh : header.length = 16) (hp : v.lastPad = false) (hvalid : headerValid stream seq header = true)
include hv hh hp hvalid

/-- The first header of the one view is found by the walk, with its record where the view holds it whole. -/
theorem walk_header (fuel : Nat) : (walk [(0, v)] stream (fuel + 1) 0 0 seq).1 =
    match gather [(0, v)] 34 0 0 (16 + headerLength header) with
    | none => [{ frame := 0, offset := 0, seq := seq, record := none }]
    | some g => { frame := 0, offset := 0, seq := seq, record := some g } ::
        (walk [(0, v)] stream fuel g.frame g.offset (seq + 1)).1 := by
  have hlen : v.bytes.length = 16 + payload.length := by rw [hv, List.length_append, hh]
  have hne : v.bytes.isEmpty = false := by
    rw [List.isEmpty_eq_false_iff]
    exact List.ne_nil_of_length_pos (by omega)
  have hend : recordsEnd v 0 = false := by
    simp only [recordsEnd, hp, Bool.false_and, Bool.or_false, decide_eq_false_iff_not]
    omega
  have hg : gather [(0, v)] 34 0 0 16 =
      some { bytes := header, pieces := [{ frame := 0, lo := 0, hi := 16 }], frame := 0, offset := 16 } := by
    rw [gather_within 33 (viewOf_one v) (by omega), if_neg (by decide), hv, List.drop_zero, Nat.zero_add,
      List.take_left' hh]
  rw [walk]
  simp only [viewOf_one, hne, hend, hg, hvalid, if_true, Bool.false_eq_true, if_false]
  cases gather [(0, v)] 34 0 0 (16 + headerLength header) <;> rfl

/-- A whole record that ends the view is the one hit. -/
theorem hits_whole (hl : headerLength header = payload.length) :
    hitsFrom [(0, v)] stream (0, 0, seq) =
      [{ frame := 0, offset := 0, seq := seq, record := some (gatheredAt 0 0 (header ++ payload)) }] := by
  have hlen : v.bytes.length = 16 + payload.length := by rw [hv, List.length_append, hh]
  have hg : gather [(0, v)] 34 0 0 (16 + headerLength header) = some (gatheredAt 0 0 (header ++ payload)) := by
    rw [hl, gather_within 33 (viewOf_one v) (by omega), if_neg (by omega), List.drop_zero, ← hlen, List.take_length,
      gatheredAt, ← hv, Nat.zero_add]
  have hrest : (walk [(0, v)] stream 1099 0 (gatheredAt 0 0 (header ++ payload)).offset (seq + 1)).1 = [] := by
    have hne : v.bytes.isEmpty = false := by
      rw [List.isEmpty_eq_false_iff]
      exact List.ne_nil_of_length_pos (by omega)
    have hend : recordsEnd v (gatheredAt 0 0 (header ++ payload)).offset = true := by
      unfold recordsEnd gatheredAt
      rw [← hv, Nat.zero_add, decide_eq_true (le_refl v.bytes.length), Bool.true_or]
    rw [walk]
    simp only [viewOf_one, hne, hend, if_true, Bool.false_eq_true, if_false]
    rw [walk]
    rfl
  unfold hitsFrom
  rw [show walkFuel = 1099 + 1 from rfl, walk_header hv hh hp hvalid, hg]
  exact congrArg (_ :: ·) hrest

/-- A record cut short by the view's end is the one hit, without its bytes. -/
theorem hits_short (hl : payload.length < headerLength header) (hs : v.bytes.length < 512) :
    hitsFrom [(0, v)] stream (0, 0, seq) = [{ frame := 0, offset := 0, seq := seq, record := none }] := by
  have hlen : v.bytes.length = 16 + payload.length := by rw [hv, List.length_append, hh]
  have hg : gather [(0, v)] 34 0 0 (16 + headerLength header) = none := by
    rw [gather]
    simp only [viewOf_one]
    rw [if_neg (by omega), if_neg (by omega)]
  unfold hitsFrom
  rw [show walkFuel = 1099 + 1 from rfl, walk_header hv hh hp hvalid, hg]

/-- The walk's first hit lies at the start of the view. -/
theorem hits_first : ((hitsFrom [(0, v)] stream (0, 0, seq)).find? (fun x => x.frame = 0)).map
    (fun x => (x.offset, x.seq)) = some (0, seq) := by
  unfold hitsFrom
  rw [show walkFuel = 1099 + 1 from rfl, walk_header hv hh hp hvalid]
  cases gather [(0, v)] 34 0 0 (16 + headerLength header) <;> rfl

end

/-- A gathered record within one good stretch is whole. -/
theorem wholeRecord_good {v : View} {n : Nat} {g : Grade} {record : List Byte} {seq : Nat}
    (hs : v.stretches = [{ lo := 0, hi := n, grade := g }]) (hg : g ≠ .broken) :
    wholeRecord [(0, v)] { frame := 0, offset := 0, seq := seq, record := some (gatheredAt 0 0 record) } = true := by
  have hw : ∀ a : Grade, a ≠ .broken → worse .clean a ≠ .broken := by
    intro a ha
    cases a <;> first | exact absurd rfl ha | decide
  have hp : ∀ p : Piece, p.frame = 0 → pieceGrade [(0, v)] p ≠ .broken := by
    intro p hp
    unfold pieceGrade
    rw [hp, show viewOf [(0, v)] 0 = some v from rfl]
    simp only [hs, List.foldl_cons, List.foldl_nil]
    split
    · exact hw g hg
    · decide
  refine decide_eq_true ?_
  exact hw _ (hp { frame := 0, lo := 0, hi := 0 + record.length } rfl)

/-- The last whole record of one view that supplies a start point. -/
theorem lastWhole_one {v : View} {c : Candidate} {x : Nat × Nat} (hs : v.start = some x) :
    lastWhole [(0, v)] c = (((hitsFrom [(0, v)] c.stream (0, x)).filter (wholeRecord [(0, v)])).getLast?.map
      (fun h => h.seq)).getD (c.first - 1) := by
  unfold lastWhole
  simp only [List.reverse_singleton, List.findSome?_cons, List.findSome?_nil, hs, Option.bind_some]
  cases ((hitsFrom [(0, v)] c.stream (0, x)).filter (wholeRecord [(0, v)])).getLast? <;> rfl

section

variable {f : FrameRead} {l : Label} {q : PortionRead} {seq : Nat} {c : Candidate} {b : Bounds}
  {header payload : List Byte} (h : OnePortion f l q seq)
  (hb : b = boundsOf c (numberFrames (f :: List.replicate 31 emptyRead))) (hq : q.bytes = header ++ payload)
  (hh : header.length = 16) (hvalid : headerValid c.stream seq header = true)
include h hb hq hh hvalid

theorem bounds_tail : b.tail =
    .pos { segment := c.segment, frame := 0, offset := q.hi, portions := 1, unprog := q.hi, image := q.bytes,
           header := some (0, seq), ends := [] } := by
  obtain ⟨-, -, ht⟩ := boundsOf_one h hb
  rw [ht, h.view, hits_first (v := { bytes := q.bytes, .. }) hq hh rfl hvalid]

theorem bounds_whole (hl : headerLength header = payload.length) : b.last = seq ∧ b.discarded = 0 := by
  obtain ⟨h1, h2, -⟩ := boundsOf_one h hb
  have hits := hits_whole (v := mediumView false f) (by rw [h.view]; exact hq) hh (by rw [h.view]) hvalid hl
  have hwhole := wholeRecord_good (record := header ++ payload) (seq := seq)
    (show (mediumView false f).stretches = _ by rw [h.view]) h.good
  have hstart : (mediumView false f).start = some (0, seq) := by rw [h.view]
  constructor
  · rw [h1, lastWhole_one hstart, hits, List.filter_cons, if_pos hwhole]
    rfl
  · rw [h2, hits, List.filter_cons, hwhole]
    rfl

theorem bounds_short (hf : c.first = seq) (hl : payload.length < headerLength header) :
    b.last = seq - 1 ∧ b.discarded = 1 := by
  obtain ⟨h1, h2, -⟩ := boundsOf_one h hb
  have hshort : (mediumView false f).bytes.length < 512 := by
    rw [h.view]
    show q.bytes.length < 512
    rw [← h.high]
    exact h.short
  have hits := hits_short (v := mediumView false f) (by rw [h.view]; exact hq) hh (by rw [h.view]) hvalid hl hshort
  have hstart : (mediumView false f).start = some (0, seq) := by rw [h.view]
  constructor
  · rw [h1, lastWhole_one hstart, hits]
    show c.first - 1 = seq - 1
    rw [hf]
  · rw [h2, hits]
    rfl

end

/-! ### Mount -/

/-- Settles O56: the order of the READs (`scansOn`), the classes (`Filed`), the end of mount (`MountEnds`), the winners
and the bounds. -/
theorem mountScansThenRebuilds : Obligations.MountScansThenRebuilds := by
  refine ⟨fun s m noise seg frame h hc he hn hcat hled hvau hcls hch hf =>
      scansOn h hc he hn hcat hled hvau hcls hch hf, ?_, ?_, ?_, ?_, ?_⟩
  · intro s m noise f retired h hc he hst hg hf hret
    subst hf hret
    obtain ⟨k, hk, goes⟩ := exec_classifies (noise := noise) h hc he hst hg
    refine ⟨k, hk, fun filed hfil => goes filed ?_⟩
    obtain ⟨hr, rfl⟩ | ⟨hr, hs, he, rfl⟩ | ⟨hr, hs, hl, rfl⟩ | ⟨hr, hs, he, hl, rfl⟩ |
      ⟨l, d, hr, hv, hkind, ho, hn, hd, hi, hfile⟩ := hfil
    · exact .retired hr
    · exact .erased hr hs he
    · exact .strayed hr hs hl
    · exact .stale hr hs he hl
    · have hl := labelMatch_some hv hkind ho hn hd hi
      obtain ⟨hs, ha, rfl⟩ | ⟨ha, rfl⟩ := hfile
      · exact .archived hr hs hv hl ha
      · exact .candidate hr hv hl ha
  · intro s m noise h hst hg hc hb hl
    obtain ⟨t, x, ht, hends, hfound, hbounds⟩ := mountEnds_bare (noise := noise) h hst hg hc hb hl
    have hnone := discardedCount_nil hbounds
    refine ⟨t, catalogueIsLost x, ht, ?_, ?_, ?_, ?_, fun hj n hn => mountEnds_streams hends hfound hbounds hj hn, ?_,
      hends.medium, fun hlost hclear => hends.media hclear (.inr hlost), fun hj hg' hev hlost hbad => ?_⟩
    · rw [hfound.lost]
      exact catalogueIsLost_iff m
    · rw [hends.power]
    · rw [hends.power]
    · rw [hends.power]
    · rw [hends.vault]
      exact hfound.vault
    · obtain ⟨k, hk⟩ := hends.notice hj hg' hev hlost (hfound.bad.trans hbad)
      rw [hnone] at hk
      exact ⟨k, hk, mountCause_cases s.power⟩
  · intro s m noise c d b h hst hfr hc hb hn hs hd ha hj hbo hl
    obtain ⟨hnone, hbest, hbounds⟩ := scan_lastChain
      (f := readFrame s.medium m.segment m.frame 0 512 noise) hst hfr hc hb
    have hcand : b.cand = c := by rw [hbo]; rfl
    rw [← hbo] at hbounds
    subst hcand
    obtain ⟨t, ht, hends⟩ := exec_endsMount h hnone rfl
    obtain ⟨pre, hsegs⟩ := mountedSegments_one hbounds hn hs
    have hawake : isAwake t = true := isAwake_of
      (by unfold operating; rw [hends.pins, hends.power]; exact h.operating) (by rw [hends.power])
    have hdefn : foundDefn (scanned (readFrame s.medium m.segment m.frame 0 512 noise) m) b.cand.stream = some d := by
      unfold foundDefn
      rw [hbest]
      exact hd
    refine ⟨t, ht, by rw [hends.power], hawake, ?_, ?_, ?_, hends.medium,
      fun hclear hdis => hends.media hclear (.inl (discardedCount_one hbounds hn hdis))⟩
    · unfold streamOf
      rw [hends.streams hj, mountedStreams_some hn hdefn, hbounds, winnersOf_one, if_pos rfl,
        mountedStream_one hs ha hl]
      rfl
    · unfold segOf
      rw [hends.segments, hsegs]
      exact buildMap_last pre b.cand.segment (by unfold openEntry SegEntry.free; simp)
    · rw [hends.segments, hsegs]
      exact not_mem_buildPool (List.mem_append_right _ (List.mem_singleton.mpr rfl)) (by unfold openEntry; simp)
  · intro a b hs
    exact ⟨fun hg hp => winnersOf_prevails hs hg ((prevails_iff a b).mpr hp), winnersOf_generations hs⟩
  · intro c l q f seq length attr epoch ticks untimed resumed payload b hv ho hfs hez him hps hlo hhi hgr hpad hsh hq
      hlen hseq hn hfirst hb
    have one : OnePortion f l q seq := ⟨hv, ho, hfs, hez, him, hps, hlo, hhi, hgr, hpad, hsh⟩
    have hh := recordHeader_length length attr epoch seq ticks untimed resumed c.stream
    have hvalid := headerValid_recordHeader length attr epoch seq ticks untimed resumed c.stream hlen hseq hn
    have hhl := headerLength_recordHeader length attr epoch seq ticks untimed resumed c.stream hlen
    exact ⟨bounds_tail one hb hq hh hvalid, fun hp => bounds_whole one hb hq hh hvalid (hhl.trans hp.symm),
      fun hp => bounds_short one hb hq hh hvalid hfirst (by rw [hhl]; exact hp)⟩

end Sys2Proof.Machine
